-- ==== Sys2Proof/Word.lean ====
section
/-! DEFINITION. Word.lean: the word types of FZA-1 (R3, R26, R88) and the keyed table that the state is built from. -/

namespace Sys2Proof

/-- A 32-bit lane value (R88). -/
abbrev Word := BitVec 32
/-- A 64-bit scalar or special register (R88). -/
abbrev Word64 := BitVec 64
/-- A byte (R3). -/
abbrev Byte := BitVec 8
/-- A 96-bit lane mask: bit i belongs to lane i (R56, R88). -/
abbrev Mask := BitVec 96
/-- One vector register: a 32-bit value in each of 96 lanes (R88). -/
abbrev Lanes := Vector (BitVec 32) 96

/-- Tables of the state: pairs of a key and a value, looked up by key. -/
abbrev Tbl (α : Type) := List (Nat × α)

/-- The value at a key, if any. -/
def Tbl.find {α : Type} : Tbl α → Nat → Option α
  | [], _ => none
  | (k, v) :: t, q => if k = q then some v else Tbl.find t q

/-- Replaces the value at a key, or adds it at the end. -/
def Tbl.put {α : Type} : Tbl α → Nat → α → Tbl α
  | [], q, x => [(q, x)]
  | (k, v) :: t, q, x => if k = q then (q, x) :: t else (k, v) :: Tbl.put t q x

/-- Removes the first entry at a key. -/
def Tbl.del {α : Type} : Tbl α → Nat → Tbl α
  | [], _ => []
  | (k, v) :: t, q => if k = q then t else (k, v) :: Tbl.del t q

end Sys2Proof
end

