-- ==== Sys2Proof/Config.lean ====
section
/-! DEFINITION. Config.lean: what an implementation fixes and the values that the spec leaves open. An `opaque`
constant has no body that a proof can see: a statement about it holds whatever it is. -/

namespace Sys2Proof.Config

/-- The DUE estimate of a promise (R202: "an estimate by the SK-48", no result depends on its value), one for each
use of the free-value counter. Log entry 5. -/
opaque freeDue : Nat → BitVec 48

/-- The RESULT of a call to a service whose arguments the runtime interface defines (R295). Log entry 6. -/
opaque freeResult : Nat → BitVec 64

/-- The Rhosel production and development public keys (R381), points of brainpoolP384r1: the spec does not give them. Log entry 7. -/
opaque productionKey : Nat × Nat
opaque developmentKey : Nat × Nat

/-- The part identity key (R384), which is never readable, and the one-time number of a signature. Log entry 7. -/
opaque identityKey : Nat
opaque freeOnce : List (BitVec 8) → Nat

/-- The part's stream key (R277), which the security engine holds and which is never readable. Log entry 7. -/
opaque streamKey : BitVec 256

/-- The temperature that a cluster reports before its first report (R374: no reset value). Log entry 9. -/
opaque freeTemp : Nat → BitVec 8

/-- The supervisor ceiling of a context and cluster before the supervisor sets it (R371: no reset value). Log entry 9. -/
opaque freeCeiling : Nat → BitVec 2

/-- The draw budget Q of a cluster before the supervisor sets it (R375: no reset value). Log entry 9. -/
opaque freeBudget : Nat → Nat

/-- The cluster cycles that pass at a step: every latency is outside the model (R1). Log entry 4. -/
opaque freeCycles : Nat → Nat

/-- The latency of a load from the bower, as a monitor samples it (R388): every latency is outside the model (R1). Log entry 4. -/
opaque freeLatency : Nat → Nat

/-- The line that a full instruction cache gives up for another (R8, R46). Log entry 4. -/
opaque freeVictim : Nat → Nat

/-- The lane arrays of a core that are free in a cycle (R340), of six (R8): their occupancy is timing. Log entry 4. -/
opaque freeArrays : Nat → Nat

/-- The cycles that a matrix engine spends on a step of a sequencer word (R375, R248): every latency is outside the model. Log entry 4. -/
opaque freeEngine : Nat → Nat

end Sys2Proof.Config
end

