-- ==== Sys2Proof/Syntax.lean ====
section
/-! DEFINITION. Syntax.lean: every instruction of the opcode table as one constructor of `Instr`: the gang words of
R52 (an opcode whose modifier names several operations has one constructor for each), the sequencer words of R55,
the two Orangery posting words of R366, and the machine steps and outside events that the table lists beside them.
Register slots hold raw field values; `WellFormed.lean` says which of them the encodings admit. -/

namespace Sys2Proof

/-- Vector slot (R39): v0 to v191; 192 to 255 are illegal. -/
abbrev VReg := BitVec 8
/-- Scalar slot number (R39). -/
abbrev SReg := BitVec 6
/-- Predicate slot number (R39). -/
abbrev PReg := BitVec 3
/-- Tile slot number (R39); also a sequencer barrier number (R54). -/
abbrev TReg := BitVec 4
/-- Dial slot number (R39). -/
abbrev DReg := BitVec 2

/-- A word's length (R37). -/
inductive Len where
  | w64 | w96 | w128
  deriving DecidableEq, Repr

/-- The length in bytes (R43). -/
def Len.bytes : Len → Nat
  | .w64 => 8 | .w96 => 12 | .w128 => 16

/-- PRED and PINV of R38. -/
structure Guard where
  pred : PReg
  inv  : Bool
  deriving DecidableEq, Repr

/-- A vector source with its hold bit (R38, R41, R95). -/
structure HReg where
  n    : VReg
  hold : Bool
  deriving DecidableEq, Repr

/-- Rounding modifier (R40). -/
inductive RM where
  | rn | rz | ru | rd
  deriving DecidableEq, Repr

/-- Slot B of a vector operation, or the immediate that replaces it (R40): E in G64, K in G96. -/
inductive VSrc where
  | reg (r : HReg) | e10 (e : BitVec 10) | k32 (k : BitVec 32)
  deriving DecidableEq, Repr

/-- Slot B of a scalar operation, or its immediate (R40, R109). -/
inductive SSrc where
  | reg (n : SReg) | e10 (e : BitVec 10) | k32 (k : BitVec 32)
  deriving DecidableEq, Repr

structure VBin where
  g : Guard
  d : VReg
  a : HReg
  b : VSrc
  deriving DecidableEq, Repr

structure VTri where
  g : Guard
  d : VReg
  a : HReg
  b : VSrc
  c : HReg
  deriving DecidableEq, Repr

structure VUn where
  g : Guard
  d : VReg
  a : HReg
  deriving DecidableEq, Repr

structure V2 where
  g : Guard
  d : VReg
  a : HReg
  b : HReg
  deriving DecidableEq, Repr

structure V3 where
  g : Guard
  d : VReg
  a : HReg
  b : HReg
  c : HReg
  deriving DecidableEq, Repr

structure VCmp where
  g : Guard
  d : PReg
  a : HReg
  b : VSrc
  deriving DecidableEq, Repr

structure VSel where
  g : Guard
  d : VReg
  a : HReg
  b : HReg
  c : PReg
  deriving DecidableEq, Repr

/-- Tapered conversion: slot B is the scalar that holds the scale (R138). -/
structure VScl where
  g : Guard
  d : VReg
  a : HReg
  b : SReg
  deriving DecidableEq, Repr

structure SBin where
  d : SReg
  a : SReg
  b : SSrc
  deriving DecidableEq, Repr

/-- VMOVI's immediate (R101): K of I64, or K of G96. -/
inductive MovImm where
  | i26 (k : BitVec 26) | k32 (k : BitVec 32)
  deriving DecidableEq, Repr

/-- SMOVI's immediate (R109): K of I64, I96 or Q128. -/
inductive SMovImm where
  | i26 (k : BitVec 26) | i58 (k : BitVec 58) | q64 (k : BitVec 64)
  deriving DecidableEq, Repr

/-- The byte offset of WAITC (R75): E times 8 in G64, K bytes in G96. -/
inductive WaitOff where
  | e10 (e : BitVec 10) | k32 (k : BitVec 32)
  deriving DecidableEq, Repr

structure WaitcOps where
  d : SReg
  a : SReg
  b : SReg
  off : WaitOff
  deriving DecidableEq, Repr

/-- The index of a memory operand (R41): IX = 0b00, 0b01 or 0b10. -/
inductive Idx where
  | none | vec (r : HReg) | scl (n : SReg)
  deriving DecidableEq, Repr

/-- The offset field: K of M64 (14 bits), of M96 (32 bits). -/
inductive MOff where
  | k14 (k : BitVec 14) | k32 (k : BitVec 32)
  deriving DecidableEq, Repr

/-- A memory operand of the M formats: base, index, SC and offset (R18, R41). -/
structure MemRef where
  a   : SReg
  idx : Idx
  sc  : BitVec 2
  off : MOff
  deriving DecidableEq, Repr

/-- The access width, MOD[1:0] by R155. -/
inductive Width where
  | w4 | x64 | x8 | x16
  deriving DecidableEq, Repr

/-- The size z in bytes (R150). -/
def Width.bytes : Width → Nat
  | .w4 => 4 | .x64 => 8 | .x8 => 1 | .x16 => 2

/-- The memory spaces (R40): MOD[1:0] of an atomic. -/
inductive Space where
  | l1 | l2 | l3 | gm
  deriving DecidableEq, Repr

/-- An atomic's ordering, MOD[3:2] (R40). -/
inductive AtOrd where
  | rlx | acq | rel | ar
  deriving DecidableEq, Repr

/-- The operands of an atomic (R158), slot F apart. -/
structure AtOps where
  g     : Guard
  d     : VReg
  a     : SReg
  idx   : Idx
  sc    : BitVec 2
  c     : HReg
  k     : BitVec 24
  space : Space
  ord   : AtOrd
  deriving DecidableEq, Repr

/-- FENCE.R's mode with the slots it uses (R177, R184). -/
inductive FenceSel where
  | plot (a : SReg) | cluster (a b : SReg) | all
  deriving DecidableEq, Repr

/-- CHIME's payload (R313): slot B in G64, K in G96. -/
inductive ChPayload where
  | reg (b : SReg) | k32 (k : BitVec 32)
  deriving DecidableEq, Repr

/-- MOVTS's source (R231): slot A in G64, K in G96. -/
inductive ShapeSrc where
  | reg (a : SReg) | k32 (k : BitVec 32)
  deriving DecidableEq, Repr

/-- One half of a PAIR word (R47). -/
structure Half where
  mini : BitVec 7
  g    : Guard
  ha   : Bool
  hb   : Bool
  hc   : Bool
  m2   : BitVec 2
  d    : BitVec 8
  a    : BitVec 8
  b    : BitVec 8
  c    : BitVec 8
  deriving DecidableEq, Repr

/-- A gang's PC slots (R62). -/
inductive SlotId where
  | A | B
  deriving DecidableEq, Repr

/-- The kinds of access that a table walk serves: ACC of R325. -/
inductive AccKind where
  | load | store | atomic | fetch | engRead | engWrite | seqFetch | decrement | waitc | migCopy
  deriving DecidableEq, Repr

/-- What the stream service sets when it creates a stream (R275, R277, R281). -/
structure StreamCfg where
  kind   : Nat
  ctx    : Nat
  ring   : Nat
  log2   : Nat
  late   : Nat
  nrec   : Nat
  seed   : Word64
  epoch0 : Nat
  epochs : Nat
  deriving DecidableEq, Repr

/-- Sources of the routing table (R355). -/
inductive RouteSrc where
  | errorStream | thermal | power | linkFault | monitor
  deriving DecidableEq, Repr

/-- The parties that may claim a routing entry (R355). -/
inductive Claimant where
  | host | orangery
  deriving DecidableEq, Repr

/-- An access that a host, a peer device or an Orangery hart makes: read, write, or one of the AtomicOps of R357. -/
inductive BusReq where
  | read (size : Nat) | write (bytes : List Byte) | fetchAdd (size : Nat) (v : Word64) | swap (size : Nat) (v : Word64)
  | cas (size : Nat) (cmp v : Word64)
  deriving DecidableEq, Repr

/-- A function of a PCI Express port, as the requester of a bus request: the port, the virtual function if it is one, and the
IDE stream that the request arrives under (R357, R358, R361). -/
structure BusFn where
  port : Nat
  vf   : Option Nat
  ide  : Option Nat
  deriving DecidableEq, Repr

/-- Who writes a register of the supervisor interface (R357, R383). -/
inductive SupBy where
  | host (f : BusFn) | orangery | governor
  deriving DecidableEq, Repr

/-- The supervisor settings that have no row of their own: each names the rule that gives the setting. -/
inductive Setting where
  /-- R320: the root of a context at an owner. -/
  | root (ctx owner : Nat) (pa : Nat)
  /-- R334: the clusters a context is confined to. -/
  | clusterSet (ctx : Nat) (cs : List Nat)
  /-- R371: the supervisor ceiling of a context and cluster. -/
  | ceiling (ctx cluster : Nat) (c : Nat)
  /-- R375: the draw budget Q of a cluster. -/
  | budget (cluster : Nat) (q : Nat)
  /-- R376: the temperature threshold T of a cluster. -/
  | threshold (cluster : Nat) (t : Nat)
  /-- R329: the access-count threshold 2^T of a context, 0 to disable. -/
  | extentThreshold (ctx : Nat) (t : Nat)
  /-- R330: the extent list of a context: address and log2 of its entries. -/
  | extentList (ctx : Nat) (addr n : Nat)
  /-- R353: the save area of a context. -/
  | saveArea (ctx : Nat) (addr : Nat)
  /-- R354: the host-memory area for a context's emergency saves. -/
  | emergencyArea (ctx : Nat) (addr : Nat)
  /-- R278: a notify page bound to a context. -/
  | notifyPage (page ctx : Nat)
  /-- R307: a doorbell page bound to a context and a sender id. -/
  | doorbellPage (page ctx : Nat) (sid : BitVec 24)
  /-- R383: one entry of a per-master access table. -/
  | access (target master : Nat) (bits : BitVec 3)
  /-- R360: whether the context is confidential. -/
  | confidential (ctx : Nat) (b : Bool)
  /-- R358, R360: the context that a virtual function of port 0 is bound to. -/
  | vf (n ctx : Nat)
  /-- R361: the IDE stream of a virtual function of port 0. -/
  | ide (vf : Nat) (stream : Nat)
  /-- R322, R323: the context that a confidential frame belongs to; the frame is named by its 64 KiB number on an array
  die, or on the hub (8). -/
  | frame (owner num ctx : Nat)
  /-- R216: a collective group: its handle and its ranks, each a part and a context-local plot id. -/
  | group (ctx : Nat) (handle : Word) (ranks : List (Nat × Nat))
  deriving DecidableEq, Repr

/-- A write to the supervisor interface: who makes it, and what it sets. -/
structure SupWrite where
  by_     : SupBy
  setting : Setting
  deriving DecidableEq, Repr

/-- One constructor per row of the opcode table. Gang and sequencer words act for the agent that the state's cursor
names; the machine steps and outside events name what they act on. -/
inductive Instr where
  /-- R76: NOP. -/
  | nop (len : Len) (g : Guard)
  /-- R65: BRA. -/
  | bra (k : BitVec 26)
  /-- R65: BRC. -/
  | brc (g : Guard) (k : BitVec 26)
  /-- R65: BRC_ANY. -/
  | brcAny (g : Guard) (k : BitVec 26)
  /-- R65: BRC_ALL. -/
  | brcAll (g : Guard) (k : BitVec 26)
  /-- R65: BRS_Z. -/
  | brsZ (a : SReg) (k : BitVec 26)
  /-- R65: BRS_NZ. -/
  | brsNz (a : SReg) (k : BitVec 26)
  /-- R78: BRX. -/
  | brx (a : SReg)
  /-- R78: CALL. -/
  | call (d : SReg) (k : BitVec 26)
  /-- R78: CALLX. -/
  | callx (d a : SReg)
  /-- R78: RET. -/
  | ret (a : SReg)
  /-- R66: JOIN. -/
  | join
  /-- R68: EXIT. -/
  | exit (g : Guard)
  /-- R70: EXIT_D. -/
  | exitD (g : Guard) (a : SReg) (e : BitVec 10)
  /-- R72: EXIT_H. -/
  | exitH (g : Guard) (a : SReg)
  /-- R81: SLEEP. -/
  | sleep (k : BitVec 26)
  /-- R82: WAITC_EQ. -/
  | waitcEq (o : WaitcOps)
  /-- R82: WAITC_NE. -/
  | waitcNe (o : WaitcOps)
  /-- R82: WAITC_GE. -/
  | waitcGe (o : WaitcOps)
  /-- R84: BAR. -/
  | bar (c : BitVec 6)
  /-- R84: BAR_PH. -/
  | barPh (c : BitVec 6)
  /-- R84: BARARR. -/
  | bararr (c : BitVec 6)
  /-- R84: BARWAIT. -/
  | barwait (c : BitVec 6)
  /-- R85: BARRED_ADD. -/
  | barredAdd (d a : SReg) (c : BitVec 6)
  /-- R85: BARRED_MIN. -/
  | barredMin (d a : SReg) (c : BitVec 6)
  /-- R85: BARRED_MAX. -/
  | barredMax (d a : SReg) (c : BitVec 6)
  /-- R85: BARRED_AND. -/
  | barredAnd (d a : SReg) (c : BitVec 6)
  /-- R85: BARRED_OR. -/
  | barredOr (d a : SReg) (c : BitVec 6)
  /-- R86: BARRED_FADD. -/
  | barredFadd (d a : SReg) (c : BitVec 6)
  /-- R85: BARSCAN_ADD. -/
  | barscanAdd (d a : SReg) (c : BitVec 6)
  /-- R86: BARSCAN_FADD. -/
  | barscanFadd (d a : SReg) (c : BitVec 6)
  /-- R87: YIELD. -/
  | yield
  /-- R350: TRAP. -/
  | trap (k : BitVec 26)
  /-- R351: TRET. -/
  | tret
  /-- R102: VADD. -/
  | vadd (o : VBin)
  /-- R102: VSUB. -/
  | vsub (o : VBin)
  /-- R102: VADDC. -/
  | vaddc (o : VBin)
  /-- R102: VADDS_I32. -/
  | vaddsI32 (o : VBin)
  /-- R102: VSUBS_I32. -/
  | vsubsI32 (o : VBin)
  /-- R102: VMUL. -/
  | vmul (o : VBin)
  /-- R102: VMULH_I32. -/
  | vmulhI32 (o : VBin)
  /-- R102: VMULH_N32. -/
  | vmulhN32 (o : VBin)
  /-- R102: VMULW_I32. -/
  | vmulwI32 (o : VBin)
  /-- R102: VMAD. -/
  | vmad (o : VTri)
  /-- R102: VMIN_I32. -/
  | vminI32 (o : VBin)
  /-- R102: VMIN_N32. -/
  | vminN32 (o : VBin)
  /-- R102: VMAX_I32. -/
  | vmaxI32 (o : VBin)
  /-- R102: VMAX_N32. -/
  | vmaxN32 (o : VBin)
  /-- R102: VABS. -/
  | vabs (o : VUn)
  /-- R102: VNEG. -/
  | vneg (o : VUn)
  /-- R102: VAND. -/
  | vand (o : VBin)
  /-- R102: VOR. -/
  | vor (o : VBin)
  /-- R102: VXOR. -/
  | vxor (o : VBin)
  /-- R102: VNOT. -/
  | vnot (o : VUn)
  /-- R102: VSHL. -/
  | vshl (o : VBin)
  /-- R102: VSHR. -/
  | vshr (o : VBin)
  /-- R102: VSRA. -/
  | vsra (o : VBin)
  /-- R102: VROT. -/
  | vrot (o : VBin)
  /-- R102: VPOPC. -/
  | vpopc (o : VUn)
  /-- R102: VCLZ. -/
  | vclz (o : VUn)
  /-- R102: VBREV. -/
  | vbrev (o : VUn)
  /-- R102: VADD_I16X2. -/
  | vaddI16x2 (o : VBin)
  /-- R102: VSUB_I16X2. -/
  | vsubI16x2 (o : VBin)
  /-- R102: VMUL_I16X2. -/
  | vmulI16x2 (o : VBin)
  /-- R102: VDOT4_I8. -/
  | vdot4I8 (o : V3)
  /-- R102: VDOT4_N8. -/
  | vdot4N8 (o : V3)
  /-- R103: VCMP_EQ. -/
  | vcmpEq (o : VCmp)
  /-- R103: VCMP_NE. -/
  | vcmpNe (o : VCmp)
  /-- R103: VCMP_LT_I32. -/
  | vcmpLtI32 (o : VCmp)
  /-- R103: VCMP_LE_I32. -/
  | vcmpLeI32 (o : VCmp)
  /-- R103: VCMP_LT_N32. -/
  | vcmpLtN32 (o : VCmp)
  /-- R103: VCMP_LE_N32. -/
  | vcmpLeN32 (o : VCmp)
  /-- R103: VSEL. -/
  | vsel (o : VSel)
  /-- R102: VMOV. -/
  | vmov (o : VUn)
  /-- R102: VMOVI. -/
  | vmovi (g : Guard) (d : VReg) (i : MovImm)
  /-- R102: VBCAST. -/
  | vbcast (g : Guard) (d : VReg) (a : SReg)
  /-- R102: VLANE. -/
  | vlane (g : Guard) (d : VReg)
  /-- R104: VSHFL_IDX. -/
  | vshflIdx (o : VBin)
  /-- R104: VSHFL_XOR. -/
  | vshflXor (o : VBin)
  /-- R104: VSHFL_UP. -/
  | vshflUp (o : VBin)
  /-- R104: VSHFL_DN. -/
  | vshflDn (o : VBin)
  /-- R104: VSHFL_ROT. -/
  | vshflRot (o : VBin)
  /-- R105: VRED_ADD. -/
  | vredAdd (g : Guard) (d : SReg) (a : HReg)
  /-- R105: VRED_MIN_I32. -/
  | vredMinI32 (g : Guard) (d : SReg) (a : HReg)
  /-- R105: VRED_MAX_I32. -/
  | vredMaxI32 (g : Guard) (d : SReg) (a : HReg)
  /-- R105: VRED_AND. -/
  | vredAnd (g : Guard) (d : SReg) (a : HReg)
  /-- R105: VRED_OR. -/
  | vredOr (g : Guard) (d : SReg) (a : HReg)
  /-- R106: VEXT. -/
  | vext (d : SReg) (a : HReg) (b : SReg)
  /-- R106: VINS. -/
  | vins (d : VReg) (a b : SReg)
  /-- R107: VREL. -/
  | vrel (n : BitVec 10)
  /-- R107: VCLAIM. -/
  | vclaim (n : BitVec 10)
  /-- R107: VCLAIM_NB. -/
  | vclaimNb (d : SReg) (n : BitVec 10)
  /-- R108: VQUERY. -/
  | vquery (d : SReg)
  /-- R110: SADD. -/
  | sadd (o : SBin)
  /-- R110: SSUB. -/
  | ssub (o : SBin)
  /-- R110: SMUL. -/
  | smul (o : SBin)
  /-- R110: SMULH_I64. -/
  | smulhI64 (o : SBin)
  /-- R110: SMULH_N64. -/
  | smulhN64 (o : SBin)
  /-- R110: SDIV_I64. -/
  | sdivI64 (o : SBin)
  /-- R110: SDIV_N64. -/
  | sdivN64 (o : SBin)
  /-- R110: SREM_I64. -/
  | sremI64 (o : SBin)
  /-- R110: SREM_N64. -/
  | sremN64 (o : SBin)
  /-- R110: SAND. -/
  | sand (o : SBin)
  /-- R110: SOR. -/
  | sor (o : SBin)
  /-- R110: SXOR. -/
  | sxor (o : SBin)
  /-- R110: SNOT. -/
  | snot (d a : SReg)
  /-- R110: SSHL. -/
  | sshl (o : SBin)
  /-- R110: SSHR. -/
  | sshr (o : SBin)
  /-- R110: SSRA. -/
  | ssra (o : SBin)
  /-- R110: SROT. -/
  | srot (o : SBin)
  /-- R110: SBFE. -/
  | sbfe (d a b c : SReg)
  /-- R110: SBFI. -/
  | sbfi (d a b c : SReg)
  /-- R110: SMIN_I64. -/
  | sminI64 (o : SBin)
  /-- R110: SMIN_N64. -/
  | sminN64 (o : SBin)
  /-- R110: SMAX_I64. -/
  | smaxI64 (o : SBin)
  /-- R110: SMAX_N64. -/
  | smaxN64 (o : SBin)
  /-- R110: SCMP_EQ. -/
  | scmpEq (o : SBin)
  /-- R110: SCMP_NE. -/
  | scmpNe (o : SBin)
  /-- R110: SCMP_LT_I64. -/
  | scmpLtI64 (o : SBin)
  /-- R110: SCMP_LE_I64. -/
  | scmpLeI64 (o : SBin)
  /-- R110: SCMP_LT_N64. -/
  | scmpLtN64 (o : SBin)
  /-- R110: SCMP_LE_N64. -/
  | scmpLeN64 (o : SBin)
  /-- R110: SSEL. -/
  | ssel (d a b c : SReg)
  /-- R110: SMOV. -/
  | smov (d a : SReg)
  /-- R110: SMOVI. -/
  | smovi (d : SReg) (i : SMovImm)
  /-- R110: SLEA. -/
  | slea (o : SBin) (sh : BitVec 2)
  /-- R110: SPOPC. -/
  | spopc (d a : SReg)
  /-- R110: SCLZ. -/
  | sclz (d a : SReg)
  /-- R111: PAND. -/
  | pand (g : Guard) (d a b : PReg)
  /-- R111: POR. -/
  | por (g : Guard) (d a b : PReg)
  /-- R111: PXOR. -/
  | pxor (g : Guard) (d a b : PReg)
  /-- R111: PNOT. -/
  | pnot (g : Guard) (d a : PReg)
  /-- R111: PMOV_SP. -/
  | pmovSp (d : SReg) (a : PReg) (e : BitVec 2)
  /-- R111: PMOV_PS. -/
  | pmovPs (d : PReg) (a : SReg) (e : BitVec 2)
  /-- R111: PPOPC. -/
  | ppopc (d : SReg) (a : PReg)
  /-- R92: MOVSR. -/
  | movsr (d : SReg) (sel : BitVec 10)
  /-- R92: MOVRS. -/
  | movrs (a : SReg) (sel : BitVec 10)
  /-- R131: FADD_F32. -/
  | faddF32 (o : VBin) (rm : RM)
  /-- R131: FSUB_F32. -/
  | fsubF32 (o : VBin) (rm : RM)
  /-- R131: FMUL_F32. -/
  | fmulF32 (o : VBin) (rm : RM)
  /-- R131: FMA_F32. -/
  | fmaF32 (o : VTri) (rm : RM)
  /-- R131: FNMA_F32. -/
  | fnmaF32 (o : VTri) (rm : RM)
  /-- R131: FMIN_F32. -/
  | fminF32 (o : VBin)
  /-- R131: FMAX_F32. -/
  | fmaxF32 (o : VBin)
  /-- R131: FABS_F32. -/
  | fabsF32 (o : VUn)
  /-- R131: FNEG_F32. -/
  | fnegF32 (o : VUn)
  /-- R131: FSAT_F32. -/
  | fsatF32 (o : VUn)
  /-- R132: FCMP_EQ. -/
  | fcmpEq (o : VCmp)
  /-- R132: FCMP_LT. -/
  | fcmpLt (o : VCmp)
  /-- R132: FCMP_LE. -/
  | fcmpLe (o : VCmp)
  /-- R132: FCMP_UN. -/
  | fcmpUn (o : VCmp)
  /-- R133: FCLASS. -/
  | fclass (o : VUn)
  /-- R134: FRND. -/
  | frnd (o : VUn) (rm : RM)
  /-- R134: FSCALE. -/
  | fscale (o : VBin) (rm : RM)
  /-- R135: FADD_F64. -/
  | faddF64 (g : Guard) (d a b : VReg) (rm : RM)
  /-- R135: FMUL_F64. -/
  | fmulF64 (g : Guard) (d a b : VReg) (rm : RM)
  /-- R135: FMA_F64. -/
  | fmaF64 (g : Guard) (d a b c : VReg) (rm : RM)
  /-- R136: FADD_F16X2. -/
  | faddF16x2 (o : VBin) (rm : RM)
  /-- R136: FMUL_F16X2. -/
  | fmulF16x2 (o : VBin) (rm : RM)
  /-- R136: FMA_F16X2. -/
  | fmaF16x2 (o : V3) (rm : RM)
  /-- R136: FMA_BF16X2. -/
  | fmaBf16x2 (o : V3) (rm : RM)
  /-- R136: FDOT2_F16. -/
  | fdot2F16 (o : V3) (rm : RM)
  /-- R136: FDOT2_BF16. -/
  | fdot2Bf16 (o : V3) (rm : RM)
  /-- R137: CVT_F32_I32. -/
  | cvtF32I32 (o : VUn) (rm : RM)
  /-- R137: CVT_F32_N32. -/
  | cvtF32N32 (o : VUn) (rm : RM)
  /-- R137: CVT_I32_F32. -/
  | cvtI32F32 (o : VUn) (rm : RM)
  /-- R137: CVT_N32_F32. -/
  | cvtN32F32 (o : VUn) (rm : RM)
  /-- R137: CVT_F32_F64. -/
  | cvtF32F64 (g : Guard) (d a : VReg) (rm : RM)
  /-- R137: CVT_F64_F32. -/
  | cvtF64F32 (o : VUn)
  /-- R137: CVT_F16X2_F32. -/
  | cvtF16x2F32 (o : V2) (rm : RM)
  /-- R137: CVT_F32_F16. -/
  | cvtF32F16 (o : VUn) (half : Bool)
  /-- R137: CVT_BF16X2_F32. -/
  | cvtBf16x2F32 (o : V2) (rm : RM)
  /-- R137: CVT_F32_BF16. -/
  | cvtF32Bf16 (o : VUn) (half : Bool)
  /-- R138: CVT_T8_F32. -/
  | cvtT8F32 (o : VScl)
  /-- R138: CVT_F32_T8. -/
  | cvtF32T8 (o : VScl) (rm : RM)
  /-- R138: CVT_T6_F32. -/
  | cvtT6F32 (o : VScl)
  /-- R138: CVT_F32_T6. -/
  | cvtF32T6 (o : VScl) (rm : RM)
  /-- R139: BLKPACK_T8. -/
  | blkpackT8 (g : Guard) (a : SReg) (e : BitVec 10) (b : HReg) (c : SReg)
  /-- R139: BLKPACK_T6. -/
  | blkpackT6 (g : Guard) (a : SReg) (e : BitVec 10) (b : HReg) (c : SReg)
  /-- R140: BLKUNPK. -/
  | blkunpk (g : Guard) (d : VReg) (a : SReg) (e : BitVec 10) (rm : RM)
  /-- R141: FRCP. -/
  | frcp (o : VUn)
  /-- R141: FRSQ. -/
  | frsq (o : VUn)
  /-- R141: FSQRT. -/
  | fsqrt (o : VUn)
  /-- R141: FDIV. -/
  | fdiv (o : V2)
  /-- R141: FEXP2. -/
  | fexp2 (o : VUn)
  /-- R141: FLOG2. -/
  | flog2 (o : VUn)
  /-- R141: FSIN. -/
  | fsin (o : VUn)
  /-- R141: FCOS. -/
  | fcos (o : VUn)
  /-- R141: FTANH. -/
  | ftanh (o : VUn)
  /-- R141: FSIGM. -/
  | fsigm (o : VUn)
  /-- R142: IDIV_I32. -/
  | idivI32 (o : VBin)
  /-- R142: IDIV_N32. -/
  | idivN32 (o : VBin)
  /-- R142: IREM_I32. -/
  | iremI32 (o : VBin)
  /-- R142: IREM_N32. -/
  | iremN32 (o : VBin)
  /-- R156: LD_L1. -/
  | ldL1 (g : Guard) (d : VReg) (m : MemRef) (w : Width)
  /-- R156: LD_L2. -/
  | ldL2 (g : Guard) (d : VReg) (m : MemRef) (w : Width)
  /-- R156: LD_L3. -/
  | ldL3 (g : Guard) (d : VReg) (m : MemRef) (w : Width)
  /-- R156: ST_L1. -/
  | stL1 (g : Guard) (d : HReg) (m : MemRef) (w : Width)
  /-- R156: ST_L2. -/
  | stL2 (g : Guard) (d : HReg) (m : MemRef) (w : Width)
  /-- R156: ST_L3. -/
  | stL3 (g : Guard) (d : HReg) (m : MemRef) (w : Width)
  /-- R157: LDU_L1. -/
  | lduL1 (d : SReg) (m : MemRef) (w : Width)
  /-- R157: LDU_L2. -/
  | lduL2 (d : SReg) (m : MemRef) (w : Width)
  /-- R157: LDU_L3. -/
  | lduL3 (d : SReg) (m : MemRef) (w : Width)
  /-- R159: AT_ADD. -/
  | atAdd (o : AtOps)
  /-- R159: AT_MIN_I32. -/
  | atMinI32 (o : AtOps)
  /-- R159: AT_MAX_I32. -/
  | atMaxI32 (o : AtOps)
  /-- R159: AT_MIN_N32. -/
  | atMinN32 (o : AtOps)
  /-- R159: AT_MAX_N32. -/
  | atMaxN32 (o : AtOps)
  /-- R159: AT_AND. -/
  | atAnd (o : AtOps)
  /-- R159: AT_OR. -/
  | atOr (o : AtOps)
  /-- R159: AT_XOR. -/
  | atXor (o : AtOps)
  /-- R159: AT_XCHG. -/
  | atXchg (o : AtOps)
  /-- R159: AT_XCHG64. -/
  | atXchg64 (o : AtOps)
  /-- R159: AT_CAS. -/
  | atCas (o : AtOps) (f : HReg)
  /-- R159: AT_CAS64. -/
  | atCas64 (o : AtOps) (f : HReg)
  /-- R159: AT_FADD. -/
  | atFadd (o : AtOps)
  /-- R159: AT_AMAXX. -/
  | atAmaxx (o : AtOps)
  /-- R161: SPINFO. -/
  | spinfo (d : SReg) (n : BitVec 2)
  /-- R179: LD_GM. -/
  | ldGm (g : Guard) (d : VReg) (m : MemRef) (w : Width)
  /-- R179: LDU_GM. -/
  | lduGm (d : SReg) (m : MemRef) (w : Width)
  /-- R180: ST_GM. -/
  | stGm (g : Guard) (d : HReg) (m : MemRef) (w : Width)
  /-- R179: LD_GM_ACQ. -/
  | ldGmAcq (g : Guard) (d : VReg) (m : MemRef) (w : Width)
  /-- R181: ST_GM_REL. -/
  | stGmRel (g : Guard) (d : HReg) (m : MemRef) (w : Width)
  /-- R182: PHASE. -/
  | phase
  /-- R183: FENCE_O. -/
  | fenceO
  /-- R184: FENCE_R. -/
  | fenceR (d : SReg) (m : FenceSel)
  /-- R298: EVPOST. -/
  | evpost (a : SReg) (e : BitVec 10)
  /-- R298: EVPOST_NB. -/
  | evpostNb (d a : SReg) (e : BitVec 10)
  /-- R298: EVWM. -/
  | evwm (a : SReg) (e : BitVec 10)
  /-- R299: STREAMQ_TAIL. -/
  | streamqTail (d a : SReg) (e : BitVec 10)
  /-- R299: STREAMQ_REL. -/
  | streamqRel (d a : SReg) (e : BitVec 10)
  /-- R299: STREAMQ_WM. -/
  | streamqWm (d a : SReg) (e : BitVec 10)
  /-- R299: STREAMQ_LATE. -/
  | streamqLate (d a : SReg) (e : BitVec 10)
  /-- R294: AUTOMAP. -/
  | automap (a : SReg) (e : BitVec 10)
  /-- R294: AUTOUNMAP. -/
  | autounmap (a : SReg) (e : BitVec 10)
  /-- R299: AUTOQ_ST. -/
  | autoqSt (d a : SReg)
  /-- R299: AUTOQ_ACC. -/
  | autoqAcc (d a : SReg)
  /-- R299: AUTOQ_OVF. -/
  | autoqOvf (d a : SReg)
  /-- R299: AUTOQ_EXP. -/
  | autoqExp (d a : SReg)
  /-- R295: SVCALL. -/
  | svcall (a : SReg) (e : BitVec 10)
  /-- R314: CHIME. -/
  | chime (d a : SReg) (b : ChPayload) (v : BitVec 6)
  /-- R315: CHWAIT. -/
  | chwait
  /-- R316: CHRET. -/
  | chret
  /-- R317: CHPERM_DES. -/
  | chpermDes (d a : SReg)
  /-- R317: CHPERM_SET. -/
  | chpermSet (d a b : SReg) (n : BitVec 5)
  /-- R317: CHPERM_VEC. -/
  | chpermVec (d a : SReg) (v : BitVec 6)
  /-- R317: CHPERM_EN. -/
  | chpermEn (d a : SReg)
  /-- R318: CHINFO_PEND. -/
  | chinfoPend (d : SReg)
  /-- R318: CHINFO_EN. -/
  | chinfoEn (d : SReg)
  /-- R318: CHINFO_DENY. -/
  | chinfoDeny (d : SReg)
  /-- R318: CHINFO_VEC. -/
  | chinfoVec (d : SReg) (v : BitVec 6)
  /-- R318: CHINFO_VEC_TAKE. -/
  | chinfoVecTake (d : SReg) (v : BitVec 6)
  /-- R374: PERFCLASS. -/
  | perfclass (d : SReg) (n : BitVec 2)
  /-- R374: PERFQ. -/
  | perfq (d : SReg)
  /-- R200: TMOV. -/
  | tmov (d a : SReg) (e : BitVec 10)
  /-- R208: TMOV_V. -/
  | tmovV (d a : SReg) (e : BitVec 10)
  /-- R211: TMOV_W. -/
  | tmovW (d a : SReg) (e : BitVec 10)
  /-- R206: TMOV_R. -/
  | tmovR (d a : SReg) (e : BitVec 10)
  /-- R201: TMOV_Z. -/
  | tmovZ (d a : SReg) (e : BitVec 10)
  /-- R205: RAINIT. -/
  | rainit (a b c : SReg) (n : BitVec 7)
  /-- R207: RAWAIT. -/
  | rawait (d a : SReg)
  /-- R207: RAREL. -/
  | rarel (d a : SReg)
  /-- R214: GATH. -/
  | gath (a : SReg) (e : BitVec 10)
  /-- R214: SCAT. -/
  | scat (a : SReg) (e : BitVec 10)
  /-- R217: COLL_AR. -/
  | collAr (a : SReg) (e : BitVec 10)
  /-- R217: COLL_AG. -/
  | collAg (a : SReg) (e : BitVec 10)
  /-- R217: COLL_RS. -/
  | collRs (a : SReg) (e : BitVec 10)
  /-- R217: COLL_BC. -/
  | collBc (a : SReg) (e : BitVec 10)
  /-- R217: COLL_A2A. -/
  | collA2a (a : SReg) (e : BitVec 10)
  /-- R190: WAITOC. -/
  | waitoc (cls : BitVec 2) (n : BitVec 6)
  /-- R192: OCRD. -/
  | ocrd (cls : BitVec 2) (d : SReg)
  /-- R203: PSLEEP. -/
  | psleep (a : SReg)
  /-- R219: CPYDEC. -/
  | cpydec (a : SReg) (e : BitVec 10)
  /-- R220: CPYENC. -/
  | cpyenc (a : SReg) (e : BitVec 10)
  /-- R232: MOVTS. -/
  | movts (d : TReg) (b : ShapeSrc)
  /-- R233: TWR. -/
  | twr (g : Guard) (d : TReg) (a : HReg) (b : SReg)
  /-- R233: TRD. -/
  | trd (g : Guard) (d : VReg) (a : TReg) (b : SReg)
  /-- R233: TRD_T. -/
  | trdT (g : Guard) (d : VReg) (a : TReg) (b : SReg)
  /-- R233: TZERO. -/
  | tzero (d : TReg)
  /-- R234: SQGO. -/
  | sqgo (d a : SReg)
  /-- R235: SQSIG. -/
  | sqsig (k : BitVec 4)
  /-- R235: SQWAIT. -/
  | sqwait (k : BitVec 4)
  /-- R236: SQSTAT. -/
  | sqstat (d : SReg)
  /-- R267: DIALLD. -/
  | dialld (d : DReg) (a : SReg) (e : BitVec 10)
  /-- R268: DIALQ. -/
  | dialq (d : SReg) (a : DReg)
  /-- R269: DSADD. -/
  | dsadd (o : V2) (c : DReg)
  /-- R269: DSSUB. -/
  | dssub (o : V2) (c : DReg)
  /-- R269: DSMUL. -/
  | dsmul (o : V2) (c : DReg)
  /-- R269: DSDIV. -/
  | dsdiv (o : V2) (c : DReg)
  /-- R270: DSNEG. -/
  | dsneg (o : VUn)
  /-- R269: DSRCP. -/
  | dsrcp (o : VUn) (c : DReg)
  /-- R269: DSSQR. -/
  | dssqr (o : VUn) (c : DReg)
  /-- R270: DSUNI. -/
  | dsuni (o : V2)
  /-- R270: DSINT. -/
  | dsint (o : V2)
  /-- R270: DSCPL. -/
  | dscpl (o : VUn)
  /-- R271: DSHULL. -/
  | dshull (o : VUn)
  /-- R271: DSEXP. -/
  | dsexp (o : VUn)
  /-- R271: DSEXP_BLOCK. -/
  | dsexpBlock (g : Guard) (d : VReg) (a : SReg) (c : DReg) (e : BitVec 10)
  /-- R272: DSFROM. -/
  | dsfrom (o : VUn) (c : DReg)
  /-- R272: DSFROM_ARC. -/
  | dsfromArc (o : V2) (c : DReg)
  /-- R272: DSLO. -/
  | dslo (o : VUn) (c : DReg)
  /-- R272: DSHI. -/
  | dshi (o : VUn) (c : DReg)
  /-- R273: DSTEST_MEET. -/
  | dstestMeet (g : Guard) (d : PReg) (a b : HReg)
  /-- R273: DSTEST_IN. -/
  | dstestIn (g : Guard) (d : PReg) (a b : HReg)
  /-- R273: DSRED_UNI. -/
  | dsredUni (g : Guard) (d : SReg) (a : HReg)
  /-- R273: DSRED_INT. -/
  | dsredInt (g : Guard) (d : SReg) (a : HReg)
  /-- R50: PAIR. -/
  | pair (h0 h1 : Half)
  /-- R238: SQNOP (sequencer word). -/
  | sqnop
  /-- R238: SQARR (sequencer word). -/
  | sqarr (k : TReg)
  /-- R238: SQWT (sequencer word). -/
  | sqwt (k : TReg) (n : BitVec 16)
  /-- R238: SQJMP (sequencer word). -/
  | sqjmp (off : BitVec 32)
  /-- R238: SQLOOP (sequencer word). -/
  | sqloop (c : BitVec 2) (off : BitVec 16) (n : BitVec 16)
  /-- R238: SQEND (sequencer word). -/
  | sqend
  /-- R239: TLDQ (sequencer word). -/
  | tldq (td : TReg) (sm : BitVec 8) (sk : BitVec 32)
  /-- R239: TSTQ (sequencer word). -/
  | tstq (td : TReg) (sm : BitVec 8) (sk : BitVec 32)
  /-- R239: TZQ (sequencer word). -/
  | tzq (td : TReg)
  /-- R240: MMA_T8 (sequencer word). -/
  | mmaT8 (td ta tb : TReg) (z : Bool)
  /-- R240: MMA_T6 (sequencer word). -/
  | mmaT6 (td ta tb : TReg) (z : Bool)
  /-- R240: MMA_F16 (sequencer word). -/
  | mmaF16 (td ta tb : TReg) (z : Bool)
  /-- R240: MMA_BF16 (sequencer word). -/
  | mmaBf16 (td ta tb : TReg) (z : Bool)
  /-- R240: MMA_F32 (sequencer word). -/
  | mmaF32 (td ta tb : TReg) (z : Bool)
  /-- R241: MMAS_T8 (sequencer word). -/
  | mmasT8 (td ta tb : TReg) (z : Bool)
  /-- R241: MMAS_T6 (sequencer word). -/
  | mmasT6 (td ta tb : TReg) (z : Bool)
  /-- R242: GMMA_T8 (sequencer word). -/
  | gmmaT8 (td ta tb : TReg) (tx : BitVec 4) (z : Bool) (sk : BitVec 32)
  /-- R242: GMMA_T6 (sequencer word). -/
  | gmmaT6 (td ta tb : TReg) (tx : BitVec 4) (z : Bool) (sk : BitVec 32)
  /-- R242: GMMA_F16 (sequencer word). -/
  | gmmaF16 (td ta tb : TReg) (tx : BitVec 4) (z : Bool) (sk : BitVec 32)
  /-- R242: GMMA_BF16 (sequencer word). -/
  | gmmaBf16 (td ta tb : TReg) (tx : BitVec 4) (z : Bool) (sk : BitVec 32)
  /-- R243: TADD (sequencer word). -/
  | tadd (td ta tb : TReg)
  /-- R243: TSCALE (sequencer word). -/
  | tscale (td ta : TReg) (sk : BitVec 32)
  /-- R244: TAMAX (sequencer word). -/
  | tamax (ta : TReg) (sk : BitVec 32)
  /-- R244: TAMAX_RST (sequencer word). -/
  | tamaxRst (sk : BitVec 32)
  /-- R245: TCVT_T8 (sequencer word). -/
  | tcvtT8 (td ta : TReg) (q : BitVec 8)
  /-- R245: TCVT_T6 (sequencer word). -/
  | tcvtT6 (td ta : TReg) (q : BitVec 8)
  /-- R245: TCVT_F16 (sequencer word). -/
  | tcvtF16 (td ta : TReg) (q : BitVec 8)
  /-- R245: TCVT_BF16 (sequencer word). -/
  | tcvtBf16 (td ta : TReg) (q : BitVec 8)
  /-- R366: SK_EVPOST. Orangery hart posts an event from a post record as EVPOST. -/
  | skEvpost (d a : BitVec 5)
  /-- R366: SK_EVWM. Orangery hart raises a watermark from a mark record as EVWM. -/
  | skEvwm (d a : BitVec 5)
  /-- R365: SKCTX_WRITE. HS-mode write of the hart's context CSR. -/
  | skctxWrite (h : Nat) (v : Word64)
  /-- R168: GLOBAL_LOAD_PERFORM. Load step taking a lane's bytes from the buffer or memory once its gates open. -/
  | globalLoadPerform (p g : Nat) (n : Nat) (lane : Nat)
  /-- R168: BUFFER_DRAIN. Drain step writing one buffer entry indivisibly to memory. -/
  | bufferDrain (p g : Nat) (line : Nat)
  /-- R168: BOUNDARY_ACKNOWLEDGE. Completes a pending boundary once the buffer is empty and writes are performed. -/
  | boundaryAcknowledge (p g : Nat)
  /-- R174: GM_ATOMIC_PERFORM. Performs one atomic lane at the owner. -/
  | gmAtomicPerform (p g : Nat)
  /-- R168: ENGINE_ACCESS. One engine read or write performed directly at memory. -/
  | engineAccess (p g : Nat) (cls : BitVec 2) (n : Nat)
  /-- R188: ENGINE_COMPLETE. An engine or EV operation completes, writes its status and lowers its class counter. -/
  | engineComplete (p g : Nat) (cls : BitVec 2)
  /-- R184: FENCE_R_FORCED_POINT. A FENCE.R target begins a boundary at its next instruction boundary. -/
  | fenceRForcedPoint (p g : Nat)
  /-- R323: TABLE_WALK. The owner walks the context's tables for an access and fills its TLB. -/
  | tableWalk (owner ctx off : Nat) (k : AccKind)
  /-- R329: EXTENT_COUNTER_APPEND. An extent access counter reaches its threshold and appends a COUNTER entry. -/
  | extentCounterAppend (owner ctx extent die part : Nat)
  /-- R326: VERDICT_RETRY. Driver verdict that resends every access waiting on a fault id. -/
  | verdictRetry (fid : BitVec 32)
  /-- R326: VERDICT_DENY. Driver verdict that denies every access waiting on a fault id. -/
  | verdictDeny (fid : BitVec 32)
  /-- R327: DEFERRED_TRAP. Takes a deferred MEMORY_FAULT at the gang's next boundary after a denial. -/
  | deferredTrap (p g : Nat)
  /-- R320: TLB_INVALIDATE. Supervisor invalidate command at one owner. -/
  | tlbInvalidate (owner ctx off : Nat)
  /-- R331: MIGRATION_START. Firmware sets MIG on a leaf and starts copying the page. -/
  | migrationStart (owner ctx off : Nat) (newPa : Nat)
  /-- R331: MIGRATION_COMMIT. Copy done: commits the new frame and releases held accesses. -/
  | migrationCommit (owner ctx off : Nat)
  /-- R332: MIGRATION_ABORT. Aborts a migration on a fault or poison, keeping the old frame. -/
  | migrationAbort (owner ctx off : Nat) (poison : Bool)
  /-- R66: JOIN_RESOLVE. Each cycle applies the first JOIN rule that holds for a waiting slot. -/
  | joinResolve (p g : Nat)
  /-- R83: BAR_PH_ARRIVAL. A BAR.PH arrives and is checked once its boundary is acknowledged. -/
  | barPhArrival (p g : Nat)
  /-- R81: SLEEP_EXPIRE. The SLEEP count runs out and the slot continues. -/
  | sleepExpire (p g : Nat) (sl : SlotId)
  /-- R82: WAITC_RECHECK. A write at the watched word makes WAITC read again. -/
  | waitcRecheck (p g : Nat) (sl : SlotId)
  /-- R107: CLAIM_GRANT. Grants the head claim when the reserve covers it, zeroing the new registers. -/
  | claimGrant (p : Nat)
  /-- R143: SFQ_ENTRY_COMPLETE. A special-function queue entry writes its result. -/
  | sfqEntryComplete (core : Nat)
  /-- R203: PSLEEP_WAKE. PSLEEP ends when its due time passes or its operation completes. -/
  | psleepWake (p g : Nat) (sl : SlotId)
  /-- R342: SPIN_DEMOTE. A slot's spin count reaches 32 and it is demoted. -/
  | spinDemote (p g : Nat) (sl : SlotId)
  /-- R342: SPIN_DEMOTION_TIMEOUT. Demotion ends 4,096 cycles after it began. -/
  | spinDemotionTimeout (p g : Nat) (sl : SlotId)
  /-- R337: SWAP_ELIGIBLE. A slot waiting 2,000 cycles in WAITC or CHWAIT becomes swap-eligible. -/
  | swapEligible (p g : Nat) (sl : SlotId)
  /-- R69: GANG_DRAIN_COMPLETE. A gang finishes draining after its last exit. -/
  | gangDrainComplete (p g : Nat)
  /-- R70: ARMED_DECREMENT. Performs the armed atomic decrement after the drain, then returns registers. -/
  | armedDecrement (p g : Nat)
  /-- R255: DIAL_COMPILE_COMPLETE. A dial compile into a slot ends. -/
  | dialCompileComplete (core : Nat) (k : DReg)
  /-- R206: TMOV_R_RESERVE. A waiting ring copy reserves the next free slot. -/
  | tmovRReserve (p g : Nat) (n : Nat)
  /-- R206: TMOV_R_FILL. A ring copy marks its slot filled in reservation order. -/
  | tmovRFill (p g : Nat) (n : Nat)
  /-- R208: TMOV_V_CLAIM. Indivisible version check and claim at the version word. -/
  | tmovVClaim (p g : Nat) (n : Nat)
  /-- R219: CPYDEC_CHECK. Counter and tag check at the security engine for a decrypting copy. -/
  | cpydecCheck (p g : Nat) (n : Nat)
  /-- R238: SQWT_RESUME. The stream leaves WAIT when the signal count reaches n. -/
  | sqwtResume (p : Nat)
  /-- R246: STREAM_GRANULE_STOP. The stream stops at its next granule boundary for pre-emption. -/
  | streamGranuleStop (p : Nat)
  /-- R278: NOTIFY. A notify write at the hub raises a stream's tail and watermark. -/
  | notify (f : BusFn) (off : Nat) (bytes : List Byte)
  /-- R185: STREAM_FETCH. The Escapement reads the expected slot and consumes it if its sequence matches. -/
  | streamFetch (n : Nat)
  /-- R281: REPLAY_EMIT. A REPLAY stream emits its next permuted record. -/
  | replayEmit (n : Nat)
  /-- R287: EVENT_RELEASE. Releases an event to an automaton once the horizon reaches its timestamp. -/
  | eventRelease (slot : Nat)
  /-- R287: VIRTUAL_EVENT_FIRE. A candidate's timeout or expiry fires once the horizon passes its deadline. -/
  | virtualEventFire (slot : Nat)
  /-- R291: LAUNCH_BACKLOG_ENTRY. A held launch enters its priority backlog. -/
  | launchBacklogEntry (slot : Nat)
  /-- R408: POST_ACTION. An accepting post action takes its step at the hub. -/
  | postAction (slot : Nat)
  /-- R298: POST_AT_HUB. A queued post is checked and written into its ring at the hub. -/
  | postAtHub (p g : Nat)
  /-- R356: ERROR_OVERFLOW_RECORD. Writes the OVERFLOW record once ERROR-stream space frees. -/
  | errorOverflowRecord (n : Nat)
  /-- R335: ADMISSION. Admits the head launch or runnable saved plot onto a core. -/
  | admission (core : Nat) (grant : Bool)
  /-- R336: PREEMPT_FOR_HEAD. After a head waits 20 µs, picks and pre-empts a victim plot. -/
  | preemptForHead
  /-- R352: PREEMPTION_HALT. Brings a core to a halt for a pre-emption request. -/
  | preemptionHalt (core : Nat)
  /-- R353: SAVE_RECORD. Writes a plot's save record after the halt. -/
  | saveRecord (p : Nat)
  /-- R337: SWAP_SAVE. Saves a swap-eligible plot for a waiting head. -/
  | swapSave
  /-- R391: WAITC_WATCH_FIRE. A write at a swapped plot's WAITC word makes it runnable. -/
  | waitcWatchFire (p : Nat) (addr : Nat)
  /-- R306: CHIME_STEP. A chime is applied to the target table at the hub. -/
  | chimeStep (p g : Nat)
  /-- R307: DOORBELL_WRITE. A 16-byte doorbell write from a host or Orangery core rings a chime. -/
  | doorbellWrite (f : BusFn) (off : Nat) (bytes : List Byte)
  /-- R309: CHIME_DELIVERY. Enters the chime handler at the handler gang's boundary. -/
  | chimeDelivery (p g : Nat)
  /-- R147: SCRATCH_GRANT. The scratch-grant service grants or releases a pavilion or conservatory grant. -/
  | scratchGrant (p g : Nat) (n : Nat) (accept : Bool) (share : Option Nat)
  /-- R148: GRANT_REVOKE. The service revokes a grant after issued accesses complete. -/
  | grantRevoke (p : Nat) (level : BitVec 2)
  /-- R295: STREAM_CREATE. The stream service creates a stream. -/
  | streamCreate (n : Nat) (c : StreamCfg)
  /-- R295: STREAM_DELETE. The stream service deletes a stream. -/
  | streamDelete (n : Nat)
  /-- R295: CAPABILITY_ISSUE. The stream service issues a capability with a subset of rights. -/
  | capabilityIssue (n : Nat) (rights : BitVec 4) (ctx addr : Nat)
  /-- R277: GEN_RAISE. The stream service raises GEN, revoking earlier capabilities. -/
  | genRaise (n : Nat)
  /-- R293: REGISTRATION_DELETE. The stream service deletes a record's reader registrations. -/
  | registrationDelete (ctx : Nat) (rid : Word64)
  /-- R217: GROUP_ABORT. The group service aborts a collective group. -/
  | groupAbort (handle : Word)
  /-- R46: CODE_LOAD. The code-load service loads code and invalidates instruction caches. -/
  | codeLoad (ctx addr : Nat) (bytes : List Byte)
  /-- R371: CURRENT_GRANT_EVAL. Firmware re-evaluates the class-2 current grants every 100 µs. -/
  | currentGrantEval (budget : Nat)
  /-- R372: CLASS_CHANGE. A cluster switches performance class after emptying its lanes. -/
  | classChange (cluster : Nat)
  /-- R376: TEMPERATURE_REPORT. A cluster's millisecond temperature report, acted on by firmware. -/
  | temperatureReport (cluster : Nat) (temp : Nat)
  /-- R376: THERMAL_CEILING_STEP. Every 10 ms a thermal ceiling drops or rises one step. -/
  | thermalCeilingStep
  /-- R387: SOFT_TRIP. Soft thermal trip triggers emergency saves. -/
  | softTrip
  /-- R387: HARD_TRIP. Hard thermal trip cuts module power. -/
  | hardTrip
  /-- R378: RESET_BOOT. Reset: the boot ROM wipes, reads and verifies the image. -/
  | resetBoot
  /-- R380: RECOVERY_IMAGE_WRITE. The recovery loader writes a new image from the mailbox and resets. -/
  | recoveryImageWrite (img : List Byte) (ok : Bool)
  /-- R381: LIFECYCLE_TRANSITION. A signed request moves the life-cycle state, wiping and resetting. -/
  | lifecycleTransition (signed : Bool)
  /-- R379: SVN_RAISE. Raises the fused minimum SVN on host request. -/
  | svnRaise
  /-- R382: LOCKSTEP_MISMATCH. Governor comparison mismatch halts, logs LOST and resets. -/
  | lockstepMismatch
  /-- R355: ROUTING_CLAIM. Claims a routing-table entry indivisibly or returns BUSY. -/
  | routingClaim (src : RouteSrc) (who : Claimant)
  /-- R355: ROUTING_VEC_WRITE. The owner writes an entry's vector. -/
  | routingVecWrite (src : RouteSrc) (who : Claimant) (v : Word)
  /-- R355: ROUTING_RELEASE. The owner releases a routing-table entry. -/
  | routingRelease (src : RouteSrc) (who : Claimant)
  /-- R388: MONITOR_CONTROL_WRITE. Writes a monitor's control word, zeroing results when CLR is 1. -/
  | monitorControlWrite (cluster n : Nat) (v : Word64)
  /-- R385: SCRUB_PASS. The scrubber reads all HBM once per 24 hours. -/
  | scrubPass
  /-- R386: UNCORRECTABLE_STATE_ERROR. An uncorrectable register or tile error suspends the plot. -/
  | uncorrectableStateError (p g : Nat) (sl : Option SlotId) (tile : Bool)
  /-- R360: LOCK_INTERFACE. TDISP message to a virtual function's interface, freezing its configuration. -/
  | lockInterface (vf : Nat)
  /-- R360: START_INTERFACE. TDISP message entering RUN. -/
  | startInterface (vf : Nat)
  /-- R360: STOP_INTERFACE. TDISP message erasing key slots and wiping confidential frames. -/
  | stopInterface (vf : Nat)
  /-- R360: TDISP_ERROR. A change to frozen configuration puts the interface in ERROR. -/
  | tdispError (vf : Nat)
  /-- R361: IDE_INTEGRITY_FAILURE. An IDE failure puts every interface of the stream into ERROR. -/
  | ideIntegrityFailure (ide : Nat)
  /-- R363: KEY_INSTALL. Installs a key slot from a secured-session message. -/
  | keyInstall (vf : Nat) (slot : BitVec 3) (key : BitVec 256) (salt : Word)
  /-- R384: GET_MEASUREMENTS. Answers with a signed attestation report. -/
  | getMeasurements (vf : Nat) (nonce : BitVec 256)
  /-- R358: APERTURE_BIND. The runtime binds a BAR4 aperture to a context and address. -/
  | apertureBind (n : Nat) (ctx addr : Nat)
  /-- R358: APERTURE_ACCESS. A PCI Express access through a memory aperture. -/
  | apertureAccess (vf ide : Option Nat) (port off : Nat) (r : BusReq)
  /-- R367: FLIT_CRC_RETRY. A peer-link flit failing its CRC is retried. -/
  | flitCrcRetry (link : Nat)
  /-- R368: DOMAIN_FORM. Firmware forms the load-store domain and its routes. -/
  | domainForm (partno : BitVec 4) (parts : List Nat)
  /-- R369: PART_LEAVES_DOMAIN. A part becomes absent and accesses to it fail. -/
  | partLeavesDomain (part : Nat)
  /-- R371: SUPERVISOR_REGISTER_WRITE. Write to a supervisor setting that has no row of its own. -/
  | supervisorRegisterWrite (w : SupWrite)
  /-- R347: SUSPENDED_PLOT_RESUME. The runtime resumes a suspended plot through the supervisor interface, making it runnable to restart the trapping word. -/
  | suspendedPlotResume (p : Nat) (by_ : SupBy)
  /-- R347: PLOT_DESTROY. The runtime destroys a suspended plot and frees its save record. -/
  | plotDestroy (p : Nat)
  /-- R326: CONTEXT_DESTROY. Destroying a context denies every fault it has outstanding. -/
  | contextDestroy (ctx : Nat)
  /-- R356: ERROR_STREAM_ACKNOWLEDGE. The stream service sets an ERROR stream's acknowledged index, freeing space, and may clear its sticky overflow bit. -/
  | errorStreamAcknowledge (n : Nat) (idx : Word64) (clear : Bool)
  /-- R375: DRAW_ACCUMULATOR_WINDOW. Each cluster cycle the draw accumulator drops charges older than 32 cycles, entering or leaving pairing and the hold at its thresholds. -/
  | drawAccumulatorWindow (cluster : Nat)
  /-- R293: FIRMWARE_RECORD_REMAP. Firmware unmaps and remaps an automaton record on its own account. -/
  | firmwareRecordRemap (slot newSlot : Nat)
  /-- R364: ORANGERY_MEMORY_ACCESS. An Orangery hart load, store or atomic to part memory, translated by its MMU and then by the owner, performed at the owner in RVWMO order. -/
  | orangeryMemoryAccess (h : Nat) (addr : Word64) (r : BusReq)
  deriving DecidableEq, Repr

end Sys2Proof

namespace Sys2Proof.Machine

/-- The operations of an atomic (R159). -/
inductive AtomFn where
  | add | minI | maxI | minN | maxN | and | or | xor | xchg | xchg64 | cas | cas64 | fadd | amaxx
  deriving DecidableEq, Repr

end Sys2Proof.Machine

namespace Sys2Proof

/-- What a peer part's request asks of this part, over the links (R167, R173, R307, R367): an access at an owner, for a gang
or for an engine; a notify; a chime; a post or a mark on a stream of this part. -/
inductive PeerReq where
  | load (ctx addr n : Nat) (engine : Bool)
  | store (ctx addr : Nat) (bytes : List Byte) (engine : Bool)
  | atomic (ctx addr : Nat) (fn : Machine.AtomFn) (c e : Word64)
  | notify (page off : Nat) (bytes : List Byte)
  | chime (ctx tid vec : Nat) (payload : Word) (sid : BitVec 24)
  | post (cap ev : List Byte)
  | mark (rec_ : List Byte)
  deriving DecidableEq, Repr

/-- A soft error (R385): one that ECC corrects, an uncorrectable 64-bit word of HBM, of a plot's bower or of a granted
region, or an uncorrectable line of an instruction cache. -/
inductive SoftError where
  | corrected
  | hbm (a : Nat)
  | bower (p a : Nat)
  | pad (n a : Nat)
  | icache (core ctx line : Nat)
  deriving DecidableEq, Repr

/-- A choice that R168 and R339 leave to the part, or an act of the outside world: which agent moves next. -/
inductive Turn where
  /-- A PC slot of a gang issues. -/
  | issue (p g : Nat) (sl : SlotId)
  /-- A PC slot of a gang fetches the line of its next word (R46). -/
  | fetch (p g : Nat) (sl : SlotId)
  /-- A plot's tile sequencer executes a word. -/
  | stream (p : Nat)
  /-- An Orangery hart executes an instruction. -/
  | hart (h : Nat)
  /-- A request of a peer part is performed at the owner (R173, R368). -/
  | peer (part : Nat) (q : PeerReq)
  /-- A held posted write is tried again (R302, R359). -/
  | posted (k : Nat)
  /-- A service fails or restarts: its pending calls end (R295). -/
  | serviceFail (service : Nat)
  /-- A worker core hands the governors a parsed request (R382). -/
  | worker (i : Instr)
  /-- The governors check and perform the oldest request of their queue (R382). -/
  | governor
  /-- A soft error (R385). -/
  | softError (e : SoftError)
  /-- A machine step or outside event of the opcode table. -/
  | event (i : Instr)
  deriving DecidableEq, Repr

end Sys2Proof
end

