-- ==== Sys2Proof/Machine/State.lean ====
section
/-! DEFINITION. Machine/State.lean: everything the spec gives the machine, as plain data, and the state after reset.
A part is one of up to 16 in a load-store domain (R368); this is the state of one part. -/

namespace Sys2Proof.Machine

/-- Why a step can stop. -/
inductive Fault where
  /-- Raised by every step after the hard thermal trip has cut the module's power (R387). Safe: nothing runs on. -/
  | powerOff
  deriving DecidableEq, Repr

/-- Where the model gives no meaning. -/
inductive Refusal where
  /-- Raised by an arm of `exec` that has no meaning yet. Safe. -/
  | notModelled (mnemonic : String)
  /-- Raised when a gang, sequencer or hart word is executed with no such agent in the cursor: no agent issues it, so
  the spec gives it no effect. Safe. -/
  | noIssuer
    deriving DecidableEq, Repr

/-- Memory as pairs of an address and a byte, in canonical form: addresses strictly rise and no listed byte is 0,
which is what an unlisted address reads as (R378, R381: a reset wipes every SRAM and HBM location to zero). -/
abbrev Memory := List Host.Cell

/-- The canonical form: every address is above `lo`, addresses rise, no byte is 0. -/
def Memory.wfFrom : Nat → Memory → Bool
  | _, [] => true
  | lo, (a, b) :: m => decide (lo ≤ a) && (b != 0) && Memory.wfFrom (a + 1) m

/-- Memory is in canonical form. -/
def Memory.wf (m : Memory) : Bool := Memory.wfFrom 0 m

/-- A storage: its bytes, and its poisoned aligned 4-byte words by word number (R385). -/
structure Store where
  mem    : Memory
  poison : List Nat
  deriving DecidableEq, Repr

/-- The agent whose word is executing. -/
inductive Agent where
  | none
  | gang (p g : Nat) (sl : SlotId)
  | stream (p : Nat)
  | hart (h : Nat)
  deriving DecidableEq, Repr

/-- The comparison of a WAITC (R82). -/
inductive WaitCond where
  | eq | ne | ge
  deriving DecidableEq, Repr

/-- What a PC slot waits for (R73, R407). Counts are cluster cycles or issue numbers. -/
inductive Wait where
  | none
  /-- At a JOIN, since an issue number (R66). -/
  | join (since : Nat)
  /-- In SLEEP until a cycle (R81). -/
  | sleep (till : Nat)
  /-- In WAITC since a cycle; address, comparison, compare value and destination (R82); its read is performed
  behind the boundaries begun before issue number `seq`; its word has `len` bytes. -/
  | waitc (since : Nat) (addr : Nat) (c : WaitCond) (v : Word64) (d : SReg) (seq len : Nat)
  /-- In CHWAIT since a cycle (R315). -/
  | chwait (since : Nat)
  /-- In VCLAIM (R107), WAITOC (R190), RAWAIT (R207), SQWAIT (R235), PSLEEP with its promise register (R203). -/
  | vclaim
  | waitoc
  | rawait
  | sqwait
  | psleep (a : SReg)
  /-- On a full post queue, since an issue number; the record's bower offset (R298, R390). -/
  | evpost (since off : Nat)
  /-- In FENCE.R: the count of its targets, and each target with how far it has come: 0 to be forced, 1 forced,
  2 acknowledged (R184). -/
  | fence (n : Nat) (own : Bool) (targets : List (Nat × Nat))
  /-- A word that waits until a slot holds a dial, named by its marks (R254, R267). -/
  | dial (k : Nat) (m : List Word)
  /-- Arrived at a circle barrier and waiting for the generation (R84). -/
  | bar (c : Nat)
  /-- In BAR.PH before its arrival: waiting for its boundary (R83). -/
  | barPh (c : Nat)
  /-- In ST.GM, or in ST.GM.REL, with these lanes still to be buffered or performed, each with its address and value
  (R170, R181): the access size and the word's length. -/
  | store (rel : Bool) (size len : Nat) (lanes : List (Nat × Nat × Nat))
  deriving DecidableEq, Repr

/-- One live PC slot (R62), with its spin state (R342) and its swap eligibility (R337). -/
structure PcSlot where
  pc       : Word64
  mask     : Mask
  wait     : Wait
  swap     : Bool
  spin     : Nat
  spinTgt  : Option Word64
  demoted  : Option Nat
  issued   : Option Nat
  fid      : Option Nat
  deriving DecidableEq, Repr

/-- What an entry saves (R74): which handler it entered, both slots and the base. -/
inductive Handler where
  | trap | chime
  deriving DecidableEq, Repr

structure Frame where
  kind : Handler
  a    : Option PcSlot
  b    : Option PcSlot
  base : Nat
  deriving DecidableEq, Repr

/-- An operand latch that is valid: its register and that register's lanes (R95). -/
structure Latch where
  reg : Nat
  val : Lanes
  deriving DecidableEq, Repr

/-- A completed operation whose status counts as a failure and that no WAITOC has covered (R190, R196). -/
structure OpFail where
  num  : Word64
  code : Byte
  sub  : Byte
  off  : Word64
  deriving DecidableEq, Repr

/-- One class of a gang (R188, R189, R192): the counter, the operations issued, the cover mark, the operations
completed and the uncovered failures, lowest number first; `late` counts the completions that have come since the plot's save began
(R221, R300). -/
structure ClassState where
  count  : Nat
  issued : Word64
  cover  : Word64
  done   : Word64
  fails  : List OpFail
  late   : Nat
  deriving DecidableEq, Repr

/-- A line of the store buffer (R167): its 64-byte line number and its valid bytes by offset. -/
structure BufLine where
  line  : Nat
  bytes : List (Nat × Byte)
  fid   : Option Nat
  deriving DecidableEq, Repr

/-- What begins a boundary (R171). -/
inductive BoundKind where
  | phase | rel | barPh | exit | trap | save | implicit | atomic | overlap | fenceOwn | forced
  deriving DecidableEq, Repr

/-- A boundary that has begun and is not acknowledged (R168): accesses issued at or after `seq` wait for it; a forced
one waits for the loads issued before `seq` (R184). -/
structure Boundary where
  kind : BoundKind
  seq  : Nat
  deriving DecidableEq, Repr

/-- Where a load writes its value; `autoSt` is AUTOQ.ST on a record in memory (R299). The forms in `Sh` name the copy of s56
to s60 that is not selected: an entry or a return has exchanged the copies since the load issued (R89, R96). -/
inductive LoadDest where
  | vec (d : VReg) | pair (d : VReg) | scl (d : SReg) | autoSt (d : SReg) | sclSh (d : SReg) | autoStSh (d : SReg)
  deriving DecidableEq, Repr

/-- An issued global load with lanes still to perform, the faults its lanes wait on, and its issue cycle (R168, R169). -/
structure LoadOp where
  id    : Nat
  seq   : Nat
  slot  : SlotId
  pc    : Word64
  acq   : Bool
  dest  : LoadDest
  size  : Nat
  lanes : List (Nat × Nat)
  fids  : List Nat
  at_   : Nat
  deriving DecidableEq, Repr

/-- One lane of an atomic: the lane, its address and its operands. -/
structure AtomLane where
  lane : Nat
  addr : Nat
  c    : Word64
  e    : Word64
  deriving DecidableEq, Repr

/-- An issued GM atomic with lanes still to perform (R168, R174). -/
structure AtomOp where
  id    : Nat
  seq   : Nat
  slot  : SlotId
  pc    : Word64
  acq   : Bool
  fn    : AtomFn
  dest  : VReg
  lanes : List AtomLane
  fids  : List Nat
  at_   : Nat
  deriving DecidableEq, Repr

/-- A deferred trap that is due (R327): its cause code, the operation that it belongs to, and what it reports. -/
structure Deferred where
  code   : Nat
  op     : Nat
  entry  : Nat
  fid    : Nat
  addr   : Word64
  lanes  : Mask
  slot   : SlotId
  pc     : Word64
  store  : Bool
  deriving DecidableEq, Repr

/-- What a word asks of the hub's target table on its way there: CHIME (R314), the modes of CHPERM (R317) but for DES, those of CHINFO
(R318). -/
inductive HubAct where
  | ring (target : Word) (vec : Nat) (payload : Word)
  | perm (n : Nat) (sid : BitVec 24) (mask : Word64)
  | mode (v : Nat) (m : BitVec 2)
  | enable (e : Word64)
  | infoPend | infoEn | infoDeny
  | infoVec (v : Nat) (take : Bool)
  deriving DecidableEq, Repr

/-- A word on its way to the hub's target table (R314, R317, R318); `sh` says that its destination is the copy that is not
selected (R89, R96). -/
structure ChimeReq where
  seq    : Nat
  what   : HubAct
  dest   : SReg
  sh     : Bool
  deriving DecidableEq, Repr

/-- The engine operations (R187). -/
inductive EngKind where
  | tmov | tmovV | tmovW | tmovR | tmovZ | gath | scat | collAr | collAg | collRs | collBc | collA2a | cpydec | cpyenc
  | evpost | evwm | automap | autounmap | svcall
  deriving DecidableEq, Repr

/-- Where an access is performed: part memory, host memory (a bus address), or a peer part (the whole address). -/
inductive Loc where
  | hbm (a : Nat) | host (a : Nat) | peer (a : Nat)
  deriving DecidableEq, Repr

/-- How far an engine operation has come. -/
inductive EngPhase where
  | start | index | reserve | read | claim | check | ready | write | fill | wait | finished
  deriving DecidableEq, Repr

/-- An outstanding engine operation (R167): its number in its class, its descriptor as read at issue, how far it has
come, what it has read, and the status it will end with. -/
structure EngOp where
  num   : Word64
  kind  : EngKind
  seq   : Nat
  off   : Nat
  desc  : List Byte
  phase : EngPhase
  k     : Nat
  ring  : Nat
  data  : List Byte
  code  : Byte
  sub   : Byte
  elem  : Word
  fid   : Option Nat
  at_   : Nat
  deriving DecidableEq, Repr

/-- Where a gang stands between its launch and the return of its registers (R69, R70). -/
inductive Life where
  | running | draining | drained | returned
  deriving DecidableEq, Repr

/-- One gang (R62, R88, R91, R167). Its window is v0 to v(NV-1), NV the length of `v`. -/
structure Gang where
  plot    : Nat
  idx     : Nat
  a       : Option PcSlot
  b       : Option PcSlot
  depth   : Nat
  base    : Nat
  exited  : Mask
  frames  : List Frame
  s       : Vector Word64 64
  shadow  : Vector Word64 5
  swapped : Bool
  p       : Vector Mask 8
  v       : List Lanes
  latchA  : Option Latch
  latchB  : Option Latch
  latchC  : Option Latch
  tentry  : Word64
  tcause  : Word64
  tpca    : Word64
  tpcb    : Word64
  tinfo   : Word64
  taddr   : Word64
  tlane0  : Word64
  tlane1  : Word64
  chentry : Word64
  chpca   : Word64
  chpcb   : Word64
  cp      : ClassState
  gs      : ClassState
  cl      : ClassState
  ev      : ClassState
  engCp   : List EngOp
  engGs   : List EngOp
  engCl   : List EngOp
  engEv   : List EngOp
  postq   : Nat
  sbuf    : List BufLine
  pend    : Option Boundary
  seq     : Nat
  loads   : List LoadOp
  atoms   : List AtomOp
  oplog   : List (Nat × Nat)
  defer   : List Deferred
  chimes  : List ChimeReq
  sw      : Vector Word 16
  open_   : List (Nat × Bool)
  life    : Life
  armed   : Option Word64
  decFid  : Option Nat
  decPc   : Word64
  decSlot : SlotId
  handoff : Option Word64
  lastIssue : Option Nat
  since   : Nat
  deriving DecidableEq, Repr

/-- A tile register (R223, R224): its shape and its 16 KiB. -/
structure Tile where
  shape : Word
  mem   : Memory
  deriving DecidableEq, Repr

/-- A matrix word under way (R240, R242, R246): whether groups begin at zero, A and the groups still to do (first row,
rows, B) as they were when the word began, C's tile and shape, and the next granule. -/
structure MatRun where
  z      : Bool
  a      : Tile
  groups : List (Nat × Nat × Tile)
  td     : Nat
  cshape : Word
  gran   : Nat
  deriving DecidableEq, Repr

/-- The states of a tile stream (R227). -/
inductive SqState where
  | idle | run | wait | done | fault
  deriving DecidableEq, Repr

/-- A plot's tile stream (R227, R228, R230, R246); `want` is the barrier and the count of the SQWT it waits in, `line` the
64-byte line that it executes from (R46), `word` the matrix word that is under way with `mat`. -/
structure SeqStream where
  state  : SqState
  start  : Word64
  pc     : Word64
  lc     : Vector Nat 4
  sg     : Vector Nat 16
  sa     : Vector Word 16
  cause  : Byte
  reason : Byte
  faddr  : Word64
  seen   : Bool
  want   : Option (Nat × Nat)
  line   : Option (Nat × List Byte)
  word   : Option (BitVec 64)
  mat    : Option MatRun
  stop   : Bool
  fid    : Option Nat
  deriving DecidableEq, Repr

/-- An arrival in a circle's open generation (R83, R85). -/
structure Arrival where
  gang    : Nat
  op      : Nat
  payload : Word64
  dest    : Option SReg
  blocks  : Bool
  deriving DecidableEq, Repr

/-- A circle of a plot (R60, R61) with its open generation. -/
structure Circle where
  id      : Nat
  members : BitVec 16
  gen     : List Arrival
  deriving DecidableEq, Repr

/-- A claim in a plot's queue (R99). -/
structure Claim where
  gang : Nat
  slot : SlotId
  n    : Nat
  deriving DecidableEq, Repr

/-- The seven marks of a dial, as their FP32 patterns (R249, R251). -/
abbrev Marks := List Word

/-- A scratchpad grant (R147): the shared storage it names and its span code. -/
structure Grant where
  pad  : Nat
  size : Nat
  span : Nat
  deriving DecidableEq, Repr

/-- A granted pavilion or conservatory region (R146, R147): its home (cluster or die) and its bytes. -/
structure Pad where
  level : Nat
  home  : Nat
  ctx   : Nat
  size  : Nat
  store : Store
  deriving DecidableEq, Repr

/-- The fields of a launch template that a plot keeps (R289). -/
structure Template where
  entry   : Word64
  seqa    : Word64
  gangs   : Nat
  vregs   : Nat
  budget  : Nat
  l1s     : Nat
  span    : Nat
  tiles   : Nat
  prio    : Nat
  handoff : Bool
  l2s     : Nat
  circles : List (Nat × BitVec 16)
  deriving DecidableEq, Repr

/-- Where a plot stands (R334, R347, R352, R353): on its core, halted for a save, or in a save record. -/
inductive Place where
  | resident | halted | saved
  deriving DecidableEq, Repr

/-- A save record being written (R353): its address, its SEQ, its bytes, and how many of them are written. -/
structure Saving where
  at_   : Nat
  seq   : Nat
  bytes : List Byte
  done  : Nat
  deriving DecidableEq, Repr

/-- A plot (R56): the state that its gangs share. `id` is its key in the state's table, `lid` its context-local id;
`moveTo` is the cluster to which a thermal migration restricts its admission (R376), and `late` are the block
writes of engine operations that have completed while it is saved (R221, R300). -/
structure Plot where
  id      : Nat
  lid     : Nat
  ctx     : Nat
  core    : Nat
  pslot   : Nat
  tmpl    : Template
  entry   : Word64
  budget  : Nat
  reserve : Nat
  claims  : List Claim
  circles : List Circle
  bower   : Store
  bowerAt : Nat
  pav     : Option Grant
  cons    : Option Grant
  tiles   : List Tile
  stream  : SeqStream
  dials   : Vector (Option Marks) 4
  req     : Nat
  ats     : Word64
  target  : Option Nat
  handler : Nat
  place   : Place
  suspended : Bool
  emergency : Bool
  runnable : Bool
  watches : List Nat
  order   : Nat
  admitted : Nat
  lastMove : Option Nat
  moveTo  : Option Nat
  rec_    : Nat
  saveSeq : Nat
  saving  : Option Saving
  late    : List (Nat × List Byte)
  trapper : Option (Nat × Bool)
  deriving DecidableEq, Repr

/-- A queued special function or division (R143): the gang, the destination, the lanes recorded at entry, the values. -/
structure SfqEntry where
  gang : Nat
  dest : VReg
  mask : Mask
  val  : Lanes
  deriving DecidableEq, Repr

/-- A core (R8): its instruction cache lines by context and line number, at most 1,024 of them, its dial slots and compile requests (R253,
R255), its special-function queue (R143). -/
structure Core where
  icache  : List ((Nat × Nat) × List Byte)
  dials   : Vector (Option Marks) 4
  compile : List (Nat × Marks)
  sfq     : List SfqEntry
  deriving DecidableEq, Repr

/-- A monitor (R388, R389). -/
structure Monitor where
  ctl   : Word64
  min   : Nat
  max   : Nat
  count : Nat
  bins  : List Nat
  deriving DecidableEq, Repr

/-- A cluster's class, grants, heat, draw accumulator and monitors (R370 to R376, R388). Charges are those of the last
32 cycles up to cycle `winAt`, newest first; `coming` are those of the beats of the cycles after it, soonest first; `drawn` is
the sum of all charges since the last evaluation of the grants. The last lane array is free at cycle `lanesTill`, and `pausing` says
that a change of class pends (R372). -/
structure Cluster where
  cls     : Nat
  grant   : Nat
  therm   : Nat
  temp    : Nat
  limit   : Nat
  charges : List Nat
  coming  : List Nat
  winAt   : Nat
  lanesTill : Nat
  pairing : Bool
  hold    : Bool
  pausing : Bool
  budget  : Nat
  drawn   : Nat
  mons    : List Monitor
  deriving DecidableEq, Repr

/-- A consumed event that is not late and that some reader has not passed (R279, R280, R282). -/
structure EvEntry where
  idx   : Nat
  bytes : List Byte
  deriving DecidableEq, Repr

/-- A registered reader of a stream (R282, R293). -/
structure Reader where
  ctx : Nat
  rid : Word64
  pos : Nat
  deriving DecidableEq, Repr

/-- A stream (R275, R280 to R283, R356). `marks` holds the marks that wait for the entries notified before them. -/
structure Stream where
  kind    : Nat
  ring    : Nat
  log2    : Nat
  gen     : Nat
  ctx     : Nat
  tail    : Nat
  e       : Nat
  w       : Nat
  weff    : Nat
  marks   : List (Nat × Nat)
  lateness : Nat
  late    : Nat
  pending : Bool
  overrun : Bool
  readers : List Reader
  evq     : List EvEntry
  nrec    : Nat
  seed    : Word64
  epoch0  : Nat
  epochs  : Nat
  acked   : Nat
  sticky  : Bool
  lost    : Nat
  lostKind : Nat
  lostW0  : Word
  lostTs  : Nat
  deriving DecidableEq, Repr

/-- A live candidate (R286, R288, R396). `uid` tells candidates of one BIRTH apart. `spent` is set when its timeout has fired into a deadline already past and no clock
has been reset since, `fired` is the instant of its last virtual event, and `due` says that it was restored with its virtual
event at or below HDONE. -/
structure Cand where
  uid   : Nat
  birth : Nat
  state : Nat
  key   : Word
  bound : Bool
  binds : List (Option (Nat × List Byte))
  xreset : List Nat
  spent : Bool
  fired : Option Int
  due   : Bool
  deriving DecidableEq, Repr

/-- A launch on its way to admission (R289). -/
structure Launch where
  ctx     : Nat
  slot    : Nat
  aseq    : Nat
  tmplAt  : Nat
  prio    : Nat
  binds   : List (Option (Nat × List Byte))
  streams : List Word
  key     : Word
  xclk    : List Nat
  at_     : Nat
  ats     : Nat
  rid     : Word64
  ogroup  : Nat
  deriving DecidableEq, Repr

/-- A derived event that an accepting post action has made (R285, R408). -/
structure Post where
  aseq  : Nat
  cap   : Nat
  bytes : List Byte
  held  : Bool
  deriving DecidableEq, Repr

/-- A mapped automaton (R284, R293): the record as mapped and its live values. `seen` holds the events, by source and
index, that have been offered at or above their SRCPOS; `launches` and `posts` are those accepted and not yet taken, `diags` the
diagnostic events that wait for a translation, and `diagFails` counts those that have failed (R290). -/
structure Automaton where
  ctx     : Nat
  addr    : Nat
  raw     : List Byte
  cands   : List Cand
  srcpos  : List Nat
  seen    : List (Nat × Nat)
  hdone   : Nat
  accepts : Nat
  nextCand : Nat
  nextUid : Nat
  overflows : Nat
  expired : Nat
  launches : List Launch
  posts   : List Post
  diags   : List (List Byte)
  diagFails : Nat
  deriving DecidableEq, Repr

/-- A record that is registered as a reader (R291, R293), with its order group and the HDONE saved in it. -/
structure Member where
  ctx    : Nat
  rid    : Word64
  ogroup : Nat
  hdone  : Nat
  deriving DecidableEq, Repr

/-- What waits for admission (R335). -/
inductive Entry where
  | launch (l : Launch)
  | plot (p : Nat)
  deriving DecidableEq, Repr

structure Backlog where
  prio  : Nat
  ord   : Nat
  what  : Entry
  since : Nat
  deriving DecidableEq, Repr

/-- A vector entry of a chime block (R303), with the cycle since which it is pending. -/
structure ChVec where
  payload : Word
  count   : Nat
  mode    : BitVec 2
  lsid    : BitVec 24
  at_     : Nat
  deriving DecidableEq, Repr

/-- A designated chime target's live copy at the hub (R302, R304). -/
structure Target where
  ctx     : Nat
  plot    : Nat
  gang    : Nat
  block   : Nat
  pend    : Word64
  enable  : Word64
  vecs    : List ChVec
  perms   : List (BitVec 24 × Word64)
  denied  : Nat
  discard : Nat
  deriving DecidableEq, Repr

/-- TDISP states (R360). -/
inductive Tdisp where
  | unlocked | locked | run | error
  deriving DecidableEq, Repr

/-- A virtual function of port 0 that is bound, a TDISP device interface: its context, its state, its IDE stream (R360, R361). -/
structure Interface where
  ctx   : Nat
  tdisp : Tdisp
  ide   : Option Nat
  deriving DecidableEq, Repr

/-- A key slot (R363). -/
structure KeySlot where
  key  : BitVec 256
  salt : Word
  recv : Nat
  send : Nat
  gen  : Nat
  deriving DecidableEq, Repr

/-- A context: what the supervisor, the runtime and the part hold for it. `counters` holds, by owner and extent, the count of
R329 and the SRC of the access that brought it to the threshold (R330). -/
structure Context where
  clusters : List Nat
  errStream : Option Nat
  saveArea : Nat
  saveSeq  : Nat
  emergency : Nat
  emergencyEnd : Nat
  nextPlot : Nat
  nextTarget : Nat
  conf     : Bool
  keys     : List (Option KeySlot)
  keyGen   : Nat
  extT     : Nat
  extAddr  : Nat
  extN     : Nat
  counters : List ((Nat × Nat) × (Nat × Nat))
  ceilings : List (Nat × Nat)
  calls    : List ((Nat × Nat × Word64) × Word64)
  alive    : Bool
  deriving DecidableEq, Repr

/-- A translation that a memory-side TLB holds (R320, R323). -/
structure TlbEntry where
  owner : Nat
  ctx   : Nat
  base  : Nat
  size  : Nat
  pte   : Word64
  deriving DecidableEq, Repr

/-- A fault that waits for a verdict, or that a verdict has denied (R326, R328): its page and the page's size, its record's
key and payload; `user` names the access where it is none of a gang's or an engine's. -/
structure FaultRec where
  fid  : Nat
  ctx  : Nat
  page : Nat
  size : Nat
  key  : Nat
  payload : List Byte
  user : List Nat
  denied : Bool
  deriving DecidableEq, Repr

/-- A page migration in progress (R331): the page's first offset and size, its leaf's address, and the new frame. -/
structure Migration where
  owner : Nat
  ctx   : Nat
  off   : Nat
  size  : Nat
  leaf  : Nat
  newPa : Nat
  deriving DecidableEq, Repr

/-- A collective group (R216): its context, its ranks as part and context-local plot id, and the operations issued on it
by each rank. -/
structure Group where
  ctx    : Nat
  handle : Word
  ranks  : List (Nat × Nat)
  issued : List Nat
  deriving DecidableEq, Repr

/-- The modes of a hart with the hypervisor extension (R364, R365): machine, HS, user, VS and VU. -/
inductive Priv where
  | m | hs | u | vs | vu
  deriving DecidableEq, Repr

/-- An Orangery hart (R364, R365): an RV64GCH core, with its integer and floating-point registers, its control and status registers by
number, unlisted ones 0, and its reservation, by address, size and the value that LR has read. -/
structure Hart where
  pc     : Word64
  x      : Vector Word64 32
  f      : Vector Word64 32
  skctx  : Word64
  priv   : Priv
  csrs   : Tbl Word64
  resv   : Option (Nat × Nat × Nat)
  deriving DecidableEq, Repr

/-- Where the firmware stands (R378, R380). -/
inductive Boot where
  | reset | loader | running
  deriving DecidableEq, Repr

/-- The life-cycle states (R381). -/
inductive LifeCycle where
  | blank | develop | production | decommissioned
  deriving DecidableEq, Repr

/-- The outcomes of the recovery log (R354). -/
inductive Recovery where
  | lost | restorable
  deriving DecidableEq, Repr

/-- What the firmware complex has last answered a request (R355, R360, R383). -/
inductive Answer where
  | none | ok | busy | tdispError | denied
  deriving DecidableEq, Repr

/-- The firmware complex, the security engine and the hub's tables (R355, R357 to R360, R378 to R384). `areas` are the emergency areas,
by context, that firmware has still to read since the power came up (R354); `identity` says that the identity key exists (R381,
R384); `corrected` counts the errors that ECC has corrected (R385); `queue` holds the parsed requests of the worker cores (R382). -/
structure Firmware where
  boot      : Boot
  flash     : List Byte
  reason    : Nat
  life      : LifeCycle
  minSvn    : Nat
  runSvn    : Nat
  streamKey : BitVec 256
  recovery  : List (Nat × Recovery)
  areas     : Option (List (Nat × Nat))
  routing   : List (RouteSrc × (Word × Option Claimant))
  access    : List ((Nat × Nat) × BitVec 3)
  raised    : List (RouteSrc × (Word × Option Claimant))
  report    : List Byte
  answer    : Answer
  identity  : Bool
  corrected : Nat
  queue     : List Instr
  deriving DecidableEq, Repr

/-- A posted write that waits at its owner, and what the same requester has sent behind it (R359): a write through an aperture, a
notify, a doorbell; or the hub's write of a chime block (R302). -/
inductive PostedReq where
  | aperture (off : Nat) (bytes : List Byte)
  | notify (page off : Nat) (bytes : List Byte)
  | doorbell (page off : Nat) (bytes : List Byte)
  | block (ctx addr : Nat) (bytes : List Byte)
  deriving DecidableEq, Repr

structure Posted where
  fn   : Option BusFn
  what : PostedReq
  deriving DecidableEq, Repr

/-- The state of one part. `orphans` are the launches that wait on their order group while their record is no longer mapped (R291, R294). -/
structure State where
  time     : Word64
  ticks    : Nat
  cur      : Agent
  agenda   : List Turn
  free     : Nat
  power    : Bool
  partno   : Nat
  domain   : List Nat
  hbm      : Store
  host     : Store
  peers    : Store
  roots    : List ((Nat × Nat) × Nat)
  frames   : List ((Nat × Nat) × Nat)
  tlb      : List TlbEntry
  faults   : List FaultRec
  fidNext  : List (Nat × Nat)
  migrations : List Migration
  plots    : Tbl Plot
  gangs    : Tbl Gang
  nextKey  : Nat
  cores    : Tbl Core
  clusters : Tbl Cluster
  pads     : Tbl Pad
  streams  : Tbl Stream
  scan     : Nat
  autos    : Tbl Automaton
  members  : List Member
  orphans  : List Launch
  backlog  : List Backlog
  ordNext  : Nat
  headSince : Option (Nat × Nat)
  targets  : List ((Nat × Nat) × Target)
  contexts : Tbl Context
  groups   : List Group
  notifyPages : Tbl Nat
  doorbells : Tbl (Nat × BitVec 24)
  doorbellErrors : Nat
  apertures : Tbl (Nat × Nat)
  vfs      : Tbl Interface
  posted   : List Posted
  portErrors : List (Nat × Nat)
  ideDropped : Nat
  lastRead : List Byte
  harts    : Tbl Hart
  fw       : Firmware
  deriving DecidableEq, Repr

/-- The routing table after reset: every entry unclaimed (R355). -/
def Firmware.routingReset : List (RouteSrc × (Word × Option Claimant)) :=
  [(.errorStream, (0, none)), (.thermal, (0, none)), (.power, (0, none)), (.linkFault, (0, none)), (.monitor, (0, none))]

/-- The firmware complex after reset, before the boot ROM has read an image (R378). -/
def Firmware.reset : Firmware :=
  ⟨.reset, [], 0, .blank, 0, 0, Config.streamKey, [], none, Firmware.routingReset, [], [], [], .none, false, 0, []⟩

/-- The machine right after reset: TIME and the cycle count are 0 (R4), every SRAM and HBM location is zero (R381),
every stream, slot, target and table is empty, no plot exists (R6) and no agent has moved. -/
def State.reset : State where
  time := 0
  ticks := 0
  cur := .none
  agenda := []
  free := 0
  power := true
  partno := 0
  domain := [0]
  hbm := ⟨[], []⟩
  host := ⟨[], []⟩
  peers := ⟨[], []⟩
  roots := []
  frames := []
  tlb := []
  faults := []
  fidNext := []
  migrations := []
  plots := []
  gangs := []
  nextKey := 0
  cores := []
  clusters := []
  pads := []
  streams := []
  scan := 0
  autos := []
  members := []
  orphans := []
  backlog := []
  ordNext := 0
  headSince := none
  targets := []
  contexts := []
  groups := []
  notifyPages := []
  doorbells := []
  doorbellErrors := 0
  apertures := []
  vfs := []
  posted := []
  portErrors := []
  ideDropped := 0
  lastRead := []
  harts := []
  fw := Firmware.reset

end Sys2Proof.Machine
end

