-- ==== Sys2Proof/Machine/Ops.lean ====
section
/-! DEFINITION. Machine/Ops.lean: the named operations over memory, registers, PC slots, the divergence stack, the
claim queue, phase boundaries, and taking a trap and returning from a handler. -/

namespace Sys2Proof.Machine

/-- What a meaning answers. -/
abbrev Res := Host.Outcome State Fault Refusal

/-! ### Bytes -/

/-- The bytes of a value, lowest first (R3). -/
def leOf (n w : Nat) : List Byte :=
  match n with
  | 0 => []
  | k + 1 => BitVec.ofNat 8 w :: leOf k (w / 256)

/-- The value of bytes, lowest first (R3). -/
def natOf : List Byte → Nat
  | [] => 0
  | b :: bs => b.toNat + 256 * natOf bs

/-- `n` bytes of a byte list from an offset; bytes past its end read 0. -/
def bytesAt (bs : List Byte) (off n : Nat) : List Byte :=
  (List.range n).map fun i => bs.getD (off + i) 0

/-- The field of `n` bytes at an offset of a descriptor. -/
def fieldAt (bs : List Byte) (off n : Nat) : Nat := natOf (bytesAt bs off n)

/-- Replaces the bytes from an offset. -/
def putAt (bs : List Byte) (off : Nat) (new : List Byte) : List Byte :=
  bs.take off ++ new ++ bs.drop (off + new.length)

/-- A value's signed reading in `n` bits. -/
def signed (n w : Nat) : Int := (BitVec.ofNat n w).toInt

/-! ### Memory (canonical form; an unlisted byte is 0) -/

/-- One byte. -/
def Memory.read : Memory → Nat → Byte
  | [], _ => 0
  | (k, v) :: m, a => if k = a then v else Memory.read m a

/-- Writes one byte and keeps the canonical form. -/
def Memory.write : Memory → Nat → Byte → Memory
  | [], a, b => if b = 0 then [] else [(a, b)]
  | (k, v) :: m, a, b =>
    if a < k then (if b = 0 then (k, v) :: m else (a, b) :: (k, v) :: m)
    else if a = k then (if b = 0 then m else (a, b) :: m)
    else (k, v) :: Memory.write m a b

/-- `n` bytes from an address. -/
def Memory.readN (m : Memory) (a : Nat) : Nat → List Byte
  | 0 => []
  | n + 1 => Memory.read m a :: Memory.readN m (a + 1) n

/-- Writes bytes from an address. -/
def Memory.writeN (m : Memory) (a : Nat) : List Byte → Memory
  | [] => m
  | b :: bs => Memory.writeN (Memory.write m a b) (a + 1) bs

def Store.empty : Store := ⟨[], []⟩
def Store.readN (t : Store) (a n : Nat) : List Byte := t.mem.readN a n
/-- The little-endian value of `n` bytes. -/
def Store.nat (t : Store) (a n : Nat) : Nat := natOf (t.mem.readN a n)

/-- Some of the bytes lie in a poisoned word. -/
def Store.poisoned (t : Store) (a n : Nat) : Bool :=
  t.poison.any fun w => decide (4 * w < a + n) && decide (a < 4 * w + 4)

/-- Writes bytes; a poisoned word that the write covers whole becomes sound (R150, R180). -/
def Store.writeN (t : Store) (a : Nat) (bs : List Byte) : Store :=
  ⟨t.mem.writeN a bs, t.poison.filter fun w => !(decide (a ≤ 4 * w) && decide (4 * w + 4 ≤ a + bs.length))⟩

/-- The byte at an address is among some writes. -/
def writesCover (ws : List (Nat × List Byte)) (a : Nat) : Bool := ws.any fun w => decide (w.1 ≤ a) && decide (a < w.1 + w.2.length)

/-- Writes, in order; a poisoned word that they cover whole between them becomes sound. -/
def Store.writes (t : Store) (ws : List (Nat × List Byte)) : Store :=
  ⟨ws.foldl (fun m w => m.writeN w.1 w.2) t.mem, t.poison.filter fun x => !((List.range 4).all fun i => writesCover ws (4 * x + i))⟩

/-- A write of `n` bytes would leave a poisoned word poisoned. -/
def Store.poisonLeft (t : Store) (a n : Nat) : Bool :=
  t.poison.any fun w => decide (4 * w < a + n) && decide (a < 4 * w + 4) && !(decide (a ≤ 4 * w) && decide (4 * w + 4 ≤ a + n))

/-! ### Lanes and masks -/

/-- A vector register from a function of the lane. -/
def lanesOf (f : Nat → Word) : Lanes := Vector.ofFn fun i => f i.val

def lanesZero : Lanes := Vector.replicate 96 0

/-- One lane's value; the callers' lane numbers are below 96. -/
def laneAt (x : Lanes) (i : Nat) : Word := x.toList.getD i 0

def maskNat (f : Nat → Bool) : Nat → Nat
  | 0 => 0
  | n + 1 => maskNat f n + if f n then 2 ^ n else 0

/-- The mask of the lanes that satisfy a test. -/
def maskOf (f : Nat → Bool) : Mask := BitVec.ofNat 96 (maskNat f 96)

/-- The lanes of a mask, ascending. -/
def maskLanes (m : Mask) : List Nat := (List.range 96).filter fun i => m.getLsbD i

def maskCount (m : Mask) : Nat := (maskLanes m).length

/-- New values in the active lanes, the old ones elsewhere (R90). -/
def lanesMerge (m : Mask) (new old : Lanes) : Lanes :=
  Vector.ofFn fun i => if m.getLsbD i.val then new[i] else old[i]

/-! ### Lookups -/

/-- The key of a gang in the state's table. -/
def gangKey (p g : Nat) : Nat := p * 16 + g

def State.plot? (s : State) (p : Nat) : Option Plot := s.plots.find p
def State.gang? (s : State) (p g : Nat) : Option Gang := s.gangs.find (gangKey p g)
def State.setPlot (s : State) (P : Plot) : State := { s with plots := s.plots.put P.id P }
def State.setGang (s : State) (G : Gang) : State := { s with gangs := s.gangs.put (gangKey G.plot G.idx) G }

/-- The gangs of a plot, by ascending index. -/
def State.gangsOf (s : State) (p : Nat) : List Gang := (List.range 16).filterMap fun g => s.gang? p g

def Core.fresh : Core := ⟨[], Vector.replicate 4 none, [], []⟩
def State.core (s : State) (c : Nat) : Core := (s.cores.find c).getD Core.fresh
def State.setCore (s : State) (c : Nat) (x : Core) : State := { s with cores := s.cores.put c x }

/-- A context that the runtime has not set up. -/
def Context.fresh : Context where
  clusters := []
  errStream := none
  saveArea := 0
  saveSeq := 0
  emergency := 0
  emergencyEnd := 0
  nextPlot := 0
  nextTarget := 0
  conf := false
  keys := List.replicate 8 none
  keyGen := 0
  extT := 0
  extAddr := 0
  extN := 0
  counters := []
  ceilings := []
  calls := []
  alive := false

def State.context (s : State) (c : Nat) : Context := (s.contexts.find c).getD Context.fresh
def State.setContext (s : State) (c : Nat) (x : Context) : State := { s with contexts := s.contexts.put c x }

/-- A fresh free value's number, and the state that has used it. -/
def State.takeFree (s : State) : Nat × State := (s.free, { s with free := s.free + 1 })

/-- The firmware runs: plots are admitted, streams are served and the links are up only then (R378, R380). -/
def State.booted (s : State) : Bool := s.fw.boot == .running

/-! ### PC slots -/

def PcSlot.fresh (pc : Word64) (mask : Mask) : PcSlot := ⟨pc, mask, .none, false, 0, none, none, none, none⟩

/-- No spin count and no demotion (R342). -/
def PcSlot.calm (S : PcSlot) : PcSlot := { S with spin := 0, spinTgt := none, demoted := none }

/-- The slot goes on past a word of `n` bytes. -/
def PcSlot.skip (S : PcSlot) (n : Nat) : PcSlot :=
  { S with pc := S.pc + BitVec.ofNat 64 n, wait := .none, swap := false, fid := none }

def otherSlot : SlotId → SlotId
  | .A => .B
  | .B => .A

def slotBit : SlotId → Nat
  | .A => 0
  | .B => 1

def Gang.slot (G : Gang) : SlotId → Option PcSlot
  | .A => G.a
  | .B => G.b

def Gang.setSlot (G : Gang) (sl : SlotId) (S : Option PcSlot) : Gang :=
  match sl with
  | .A => { G with a := S }
  | .B => { G with b := S }

/-- The slot waits. -/
def Gang.block (G : Gang) (sl : SlotId) (S : PcSlot) (w : Wait) : Gang := G.setSlot sl (some { S with wait := w })

/-- The slot goes on past its word. -/
def Gang.skip (G : Gang) (sl : SlotId) (n : Nat) : Gang := G.setSlot sl ((G.slot sl).map fun S => S.skip n)

/-- Every lane that has not exited. -/
def Gang.alive (G : Gang) : Mask := ~~~ G.exited

def Gang.calm (G : Gang) : Gang := { G with a := G.a.map PcSlot.calm, b := G.b.map PcSlot.calm }

/-- R342: a register that takes a different value ends the spin counts. -/
def Gang.noteChange (G : Gang) (changed : Bool) : Gang := if changed then G.calm else G

/-! ### Registers -/

/-- The window's size NV (R88). -/
def Gang.nv (G : Gang) : Nat := G.v.length

/-- A vector register; the callers have checked its number against NV. -/
def Gang.vreg (G : Gang) (n : Nat) : Lanes := G.v.getD n lanesZero

/-- A beat mask of a slot (R63). -/
def beatMask (m : Mask) (beat : Nat) : Word64 := (m.extractLsb' (32 * beat) 32).setWidth 64

/-- A scalar register, read in a slot: s0 reads 0, s61 to s63 the slot's mask (R63, R88). -/
def Gang.rs (G : Gang) (S : PcSlot) (n : SReg) : Word64 :=
  if n = 0 then 0 else if 61 ≤ n.toNat then beatMask S.mask (n.toNat - 61) else G.s[n.toNat]

/-- Writes a scalar register: writes to s0 and s61 to s63 are discarded. -/
def Gang.ws (G : Gang) (n : SReg) (x : Word64) : Gang :=
  if n = 0 ∨ 61 ≤ n.toNat then G
  else { G.noteChange (G.s[n.toNat] != x) with s := G.s.set n.toNat x }

/-- A predicate register: p0 reads all ones (R88). -/
def Gang.rp (G : Gang) (n : PReg) : Mask := if n = 0 then BitVec.allOnes 96 else G.p[n.toNat]

/-- Writes a predicate register: writes to p0 are discarded. -/
def Gang.wp (G : Gang) (n : PReg) (x : Mask) : Gang :=
  if n = 0 then G else { G.noteChange (G.p[n.toNat] != x) with p := G.p.set n.toNat x }

/-- A latch that holds a register whose value changes is invalid (R95). -/
def latchDrop (l : Option Latch) (n : Nat) : Option Latch :=
  match l with
  | some x => if x.reg = n then none else l
  | none => none

/-- Writes the lanes of a mask of a vector register, and invalidates the latches that hold it. -/
def Gang.wv (G : Gang) (n : Nat) (m : Mask) (x : Lanes) : Gang :=
  if m = 0 then G
  else
    let new := lanesMerge m x (G.vreg n)
    { G.noteChange (new != G.vreg n) with
      v := G.v.set n new
      latchA := latchDrop G.latchA n
      latchB := latchDrop G.latchB n
      latchC := latchDrop G.latchC n }

def Gang.dropLatches (G : Gang) : Gang := { G with latchA := none, latchB := none, latchC := none }

/-- The register is one of s56 to s60, which have two copies (R89). -/
def banked (n : SReg) : Bool := decide (56 ≤ n.toNat) && decide (n.toNat ≤ 60)

/-- The destination of a load as an exchange of the copies leaves it: the load still writes the copy that was selected when it
issued (R89, R96). -/
def LoadDest.exchange (d : LoadDest) : LoadDest :=
  match d with
  | .scl r => if banked r then .sclSh r else d
  | .sclSh r => .scl r
  | .autoSt r => if banked r then .autoStSh r else d
  | .autoStSh r => .autoSt r
  | _ => d

def ChimeReq.exchange (c : ChimeReq) : ChimeReq := if banked c.dest then { c with sh := !c.sh } else c

/-- Writes the copy of a register that is not selected, if it has two. -/
def Gang.wsh (G : Gang) (n : SReg) (x : Word64) : Gang :=
  if banked n then { G with shadow := G.shadow.set! (n.toNat - 56) x } else G

/-- Exchanges the two copies of s56 to s60 (R89). Results that are outstanding go to the copy that they issued for (R96). -/
def Gang.exchange (G : Gang) : Gang :=
  { G with
    loads := G.loads.map fun l => { l with dest := l.dest.exchange }
    chimes := G.chimes.map ChimeReq.exchange
    s := ((((G.s.set 56 G.shadow[0]).set 57 G.shadow[1]).set 58 G.shadow[2]).set 59 G.shadow[3]).set 60 G.shadow[4]
    shadow := #v[G.s[56], G.s[57], G.s[58], G.s[59], G.s[60]]
    swapped := !G.swapped }

/-- The lanes that a guard selects among a slot's (R27, R38). -/
def Gang.active (G : Gang) (S : PcSlot) (g : Guard) : Mask :=
  S.mask &&& (if g.inv then ~~~ G.rp g.pred else G.rp g.pred)

/-! ### The scoreboard (R96) -/

def LoadDest.holdsV (d : LoadDest) (n : Nat) : Bool :=
  match d with
  | .vec r => r.toNat == n
  | .pair r => r.toNat == n || r.toNat + 1 == n
  | _ => false

def LoadDest.holdsS (d : LoadDest) (n : Nat) : Bool :=
  match d with
  | .scl r => r.toNat == n && n != 0 && decide (n < 61)
  | .autoSt r => r.toNat == n && n != 0 && decide (n < 61)
  | _ => false

def AtomFn.wide : AtomFn → Bool
  | .xchg64 => true
  | .cas64 => true
  | _ => false

def AtomOp.holdsV (o : AtomOp) (n : Nat) : Bool := o.dest.toNat == n || (o.fn.wide && o.dest.toNat + 1 == n)

/-- A vector register waits for a load, an atomic or a special-function result. -/
def State.busyV (s : State) (core : Nat) (G : Gang) (n : Nat) : Bool :=
  G.loads.any (fun l => l.dest.holdsV n) || G.atoms.any (fun o => o.holdsV n) ||
    (s.core core).sfq.any fun e => e.gang == gangKey G.plot G.idx && e.dest.toNat == n

/-- A scalar register waits for a load or a chime's result. -/
def Gang.busyS (G : Gang) (n : Nat) : Bool :=
  G.loads.any (fun l => l.dest.holdsS n) || G.chimes.any fun c => !c.sh && c.dest.toNat == n && n != 0 && decide (n < 61)

/-! ### The pool and the claim queue (R97 to R99, R107) -/

/-- The slot is blocked in VCLAIM. -/
def PcSlot.inClaim (S : PcSlot) : Bool := S.wait == .vclaim

/-- Withdraws the claims of a gang (R407). -/
def Plot.withdraw (P : Plot) (g : Nat) : Plot := { P with claims := P.claims.filter fun c => c.gang != g }

/-- A granted window: n registers of zeros at the top (R107). -/
def Gang.grow (G : Gang) (n : Nat) : Gang := ({ G with v := G.v ++ List.replicate n lanesZero }).dropLatches

/-- Grants the head claim while the reserve holds its count and the window has room (R99, R107). -/
def State.serveClaims (s : State) (p : Nat) : Nat → State
  | 0 => s
  | fuel + 1 =>
    match s.plot? p with
    | none => s
    | some P =>
      match P.claims with
      | [] => s
      | c :: cs =>
        match s.gang? p c.gang with
        | none => s
        | some G =>
          if c.n ≤ P.reserve ∧ G.nv + c.n ≤ 192 then
            ((s.setPlot { P with claims := cs, reserve := P.reserve - c.n }).setGang
              (((G.grow c.n).skip c.slot 8).noteChange true)).serveClaims p fuel
          else s

def Plot.circle? (P : Plot) (c : Nat) : Option Circle := P.circles.find? fun x => x.id == c

/-- The members whose arrival a generation lacks. -/
def Circle.missing (c : Circle) : List Nat :=
  (List.range 16).filter fun g => c.members.getLsbD g && !(c.gen.any fun a => a.gang == g)

/-- A slot blocked in VCLAIM, or at a barrier whose generation lacks the arrival of a held gang. -/
def Plot.slotHeld (P : Plot) (held : List Nat) (S : PcSlot) : Bool :=
  S.inClaim ||
    match S.wait with
    | .bar c => (P.circle? c).any fun x => x.missing.any fun g => held.contains g
    | _ => false

/-- The closure of R99: one more round of held gangs. A gang in a trap handler is not held. -/
def heldRound (P : Plot) (gs : List Gang) (held : List Nat) : List Nat :=
  (gs.filter fun G =>
    !(G.frames.any fun f => f.kind == .trap) && (G.a.isSome || G.b.isSome) && G.a.all (P.slotHeld held) &&
      G.b.all (P.slotHeld held)).map (·.idx)

def heldGangs (P : Plot) (gs : List Gang) : Nat → List Nat
  | 0 => []
  | n + 1 => heldRound P gs (heldGangs P gs n)

/-- The condition of CLAIM_DEADLOCK (R99). -/
def deadlocked (P : Plot) (gs : List Gang) : Bool :=
  match P.claims with
  | [] => false
  | c :: _ =>
    let running := gs.filter fun G => G.life == .running
    let held := heldGangs P running 17
    decide (P.reserve < c.n) && running.all (fun G => held.contains G.idx) &&
      !(P.tmpl.handoff && gs.any fun G => G.life == .draining || G.life == .drained)

/-! ### Phase boundaries (R171) -/

/-- The number from which accesses wait for a boundary that begins now: a word's own number, or the next word's where the boundary
begins at an instruction boundary (R169, R171, R184). -/
def Gang.boundarySeq (G : Gang) (k : BoundKind) : Nat :=
  match k with
  | .trap => G.seq + 1
  | .save => G.seq + 1
  | .forced => G.seq + 1
  | _ => G.seq

/-- Begins a boundary. A boundary that is already pending covers this point too: nothing has been buffered since. With an
empty buffer the acknowledgement is immediate (R182). -/
def Gang.beginBoundary (G : Gang) (k : BoundKind) : Gang :=
  match G.pend with
  | some _ => G
  | none => if G.sbuf.isEmpty then G else { G with pend := some ⟨k, G.boundarySeq k⟩ }

/-! ### Traps (R343 to R347) -/

/-- What a trap reports (R344, R345). -/
structure TrapInfo where
  code  : Nat
  info  : Word64 := 0
  addr  : Word64 := 0
  lanes : Mask := 0
  half  : Bool := false
  deriving DecidableEq, Repr

/-- REG_BOUNDS of VREL, VCLAIM and VCLAIM.NB (R345). -/
def countTrap (nv n : Nat) : TrapInfo := { code := 0x03, info := BitVec.ofNat 64 (0xFF + 256 * nv + 65536 * n) }

/-- R407: a wait of a slot at an entry. A sleep is over, a CHWAIT is over at a chime's entry, a JOIN wait is kept, and
every other word will issue again. -/
def PcSlot.endWait (S : PcSlot) (k : Handler) : PcSlot :=
  match S.wait with
  | .join _ => S.calm
  | .sleep _ => (S.skip 8).calm
  | .chwait _ => if k = .chime then (S.skip 8).calm else { S.calm with wait := .none, swap := false }
  | _ => { S.calm with wait := .none, swap := false, fid := none }

/-- The PC that a slot's register reports, 0 when the slot is free (R91). -/
def pcOf (o : Option PcSlot) : Word64 := (o.map (·.pc)).getD 0

/-- A gang inside a trap handler, and inside a chime handler. -/
def Gang.inTrap (G : Gang) : Bool := G.frames.any fun f => f.kind == .trap
def Gang.inChime (G : Gang) : Bool := G.frames.any fun f => f.kind == .chime

/-- The handler's start (R74, R343): both slots and the base are saved, the base is the depth, slot A runs from the
entry with every lane that has not exited, and slot B is free. -/
def Gang.enter (G : Gang) (k : Handler) (a b : Option PcSlot) (entry : Word64) : Gang :=
  ({ G.exchange with
     frames := ⟨k, a, b, G.base⟩ :: G.frames
     base := G.depth
     a := some (PcSlot.fresh entry G.alive)
     b := none }).dropLatches

/-- The TCAUSE word (R344). -/
def causeWord (t : TrapInfo) (sl : SlotId) (inch next : Bool) : Word64 :=
  BitVec.ofNat 64 (t.code + 256 * slotBit sl + (if t.half then 512 else 0) + (if inch then 1024 else 0) + (if next then 2048 else 0))

/-- The trap-state registers that R344 and R345 give. -/
def Gang.trapState (G : Gang) (t : TrapInfo) (sl : SlotId) (next : Bool) : Gang :=
  { G with
    tcause := causeWord t sl G.inChime next
    tinfo := t.info
    taddr := t.addr
    tlane0 := t.lanes.extractLsb' 0 64
    tlane1 := (t.lanes.extractLsb' 64 32).setWidth 64 }

/-- Entry into the user handler (R343). `a` and `b` are the slots as they will resume. -/
def Gang.trapEntry (G : Gang) (t : TrapInfo) (sl : SlotId) (next : Bool) (wordPc : Word64) (a b : Option PcSlot) : Gang :=
  let G1 := { G.trapState t sl next with tpca := pcOf a, tpcb := pcOf b }
  let G2 := G1.enter .trap a b G1.tentry
  ((((G2.ws 56 G1.tcause).ws 57 t.info).ws 58 t.addr).ws 59 wordPc).beginBoundary .trap

/-- The plot's state stands in its save record, or is being written there (R353). -/
def Plot.away (P : Plot) : Bool := P.place == .saved || P.saving.isSome

/-- The plot is suspended (R347): every gang halts, and the plot waits to be saved. The first trap of a plot that suspends is the one
its TRAP record names. -/
def Plot.suspend (P : Plot) (g : Nat) (nested : Bool) : Plot :=
  { P with place := if P.place = .resident then .halted else P.place, suspended := true, runnable := false,
           trapper := if P.suspended ∧ P.trapper.isSome then P.trapper else some (g, nested) }

/-- The trap of the head claim, if it has one: REG_BOUNDS where the gang's window has grown past it since it was queued,
CLAIM_DEADLOCK while the condition of R99 holds. -/
def headTrap (P : Plot) (gs : List Gang) : Option TrapInfo :=
  match P.claims with
  | [] => none
  | c :: _ =>
    match gs.find? fun G => G.idx == c.gang with
    | none => none
    | some G =>
      if c.n ≤ P.reserve ∧ 192 < G.nv + c.n then some (countTrap G.nv c.n)
      else if deadlocked P gs then some { code := 0x0E, info := BitVec.ofNat 64 (c.n / 8 + 65536 * P.reserve) }
      else none

/-- Serves the claim queue, and gives the head claim its trap: the trap is precise at its VCLAIM. -/
def State.settle (s : State) (p : Nat) : Nat → State
  | 0 => s
  | fuel + 1 =>
    let s := s.serveClaims p 64
    match s.plot? p with
    | none => s
    | some P =>
      match headTrap P (s.gangsOf p), P.claims with
      | some t, c :: cs =>
        let P1 := { P with claims := cs }
        match s.gang? p c.gang with
        | none => s.setPlot P1
        | some G =>
          match G.slot c.slot with
          | none => s.setPlot P1
          | some S =>
            if G.inTrap || G.tentry == 0 then
              ((s.setPlot (P1.suspend c.gang G.inTrap)).setGang ((G.trapState t c.slot false).block c.slot S .none)).serveClaims p 64
            else
              let G1 := G.trapEntry t c.slot false S.pc (G.a.map fun x => x.endWait .trap) (G.b.map fun x => x.endWait .trap)
              (((s.setPlot (P1.withdraw c.gang)).setGang G1)).settle p fuel
      | _, _ => s

/-- Settles the claims of a plot. -/
def State.settled (s : State) (p : Nat) : State := s.settle p 33

/-- Raises a trap of a gang's slot (R343): with `next`, the slot resumes past the word. A trap without a user entry, or
inside a trap handler, suspends the plot. -/
def State.raise (s : State) (P : Plot) (G : Gang) (sl : SlotId) (t : TrapInfo) (next : Bool) (wordPc : Word64) : State :=
  if G.inTrap || G.tentry == 0 then
    (s.setPlot (P.suspend G.idx G.inTrap)).setGang (G.trapState t sl next)
  else
    let resume (x : SlotId) (o : Option PcSlot) : Option PcSlot :=
      o.map fun S => if x = sl ∧ next then (S.endWait .trap).skip 8 else S.endWait .trap
    State.settled ((s.setPlot (P.withdraw G.idx)).setGang (G.trapEntry t sl next wordPc (resume .A G.a) (resume .B G.b))) P.id

/-- A precise trap of the word that a slot issues (R346): SOFTWARE and PROMISE_MISSED resume past the word. -/
def State.trap (s : State) (P : Plot) (G : Gang) (sl : SlotId) (S : PcSlot) (t : TrapInfo) : State :=
  s.raise P G sl t (t.code == 0x14 || t.code == 0x0F) S.pc

/-! ### The divergence stack (R64, R67) -/

/-- The bower offset of entry k of a gang's stack. -/
def stackAt (P : Plot) (g k : Nat) : Nat := P.tmpl.l1s - 1024 * (g + 1) + 16 * k

def readEntry (P : Plot) (g k : Nat) : Word64 × Mask :=
  (P.entry + BitVec.ofInt 64 (4 * signed 32 (P.bower.nat (stackAt P g k + 12) 4)),
   BitVec.ofNat 96 (P.bower.nat (stackAt P g k) 12))

/-- PCREL of R64 for an address. -/
def pcRel (P : Plot) (a : Word64) : Int := ((a.toNat : Int) - P.entry.toNat) / 4

def writeEntry (P : Plot) (g k : Nat) (pc : Word64) (m : Mask) : Plot :=
  let e := leOf 12 m.toNat ++ leOf 4 (BitVec.ofInt 32 (pcRel P pc)).toNat
  { P with bower := P.bower.writeN (stackAt P g k) e }

/-- The slot becomes free and pops while entries stand above the base and the popped mask is empty (R67). -/
def Gang.free (G : Gang) (P : Plot) (sl : SlotId) : Nat → Gang
  | 0 => G.setSlot sl none
  | fuel + 1 =>
    if G.base < G.depth then
      let e := readEntry P G.idx (G.depth - 1)
      let m := e.2 &&& G.alive
      let G1 := { G with depth := G.depth - 1 }
      if m = 0 then G1.free P sl fuel else G1.setSlot sl (some (PcSlot.fresh e.1 m))
    else G.setSlot sl none

/-- A slot takes a mask; an empty one frees it. -/
def Gang.keep (G : Gang) (P : Plot) (sl : SlotId) (S : PcSlot) : Gang :=
  if S.mask = 0 then G.free P sl 65 else G.setSlot sl (some S)

/-! ### Return from a handler (R351) -/

/-- Restores what the innermost frame saved, with the slot PCs that the saved-PC registers hold. -/
def Gang.leave (G : Gang) (P : Plot) (f : Frame) (rest : List Frame) (pca pcb : Word64) : Gang :=
  let cut (o : Option PcSlot) (pc : Word64) : Option PcSlot :=
    o.map fun S => { S.calm with pc := pc, mask := S.mask &&& G.alive }
  let G1 := ({ G with depth := G.base, base := f.base, frames := rest, a := none, b := none }).exchange.dropLatches
  let G2 := match cut f.a pca with
    | some S => G1.keep P .A S
    | none => G1
  match cut f.b pcb with
    | some S => G2.keep P .B S
    | none => G2

end Sys2Proof.Machine
end

