-- ==== Sys2Proof/Machine/Crypto.lean ====
section
/-! DEFINITION. Machine/Crypto.lean: AES-256 (FIPS 197), its CMAC (R277) and GCM (R218 to R220), CRC-32C (R210) and
SHA-384 (R384).
Byte strings are lists in the order of memory; a key's byte 0 is its least significant byte (R3). -/

namespace Sys2Proof.Machine

/-! ### The field GF(2^8) -/

/-- Multiplication by x. -/
def gfDouble (a : Byte) : Byte := if a.getLsbD 7 then (a <<< 1) ^^^ 0x1B else a <<< 1

/-- The product, over the bits of `b` from bit `8 - n` up. -/
def gfMulFrom (a b acc : Byte) : Nat → Byte
  | 0 => acc
  | n + 1 => gfMulFrom (gfDouble a) (b >>> 1) (if b.getLsbD 0 then acc ^^^ a else acc) n

def gfMul (a b : Byte) : Byte := gfMulFrom a b 0 8

/-- a^(2^n - 1), squared at each step: n = 7 gives a^254, the inverse, after one more squaring. -/
def gfInvFrom (a acc : Byte) : Nat → Byte
  | 0 => gfMul acc acc
  | n + 1 => gfInvFrom a (gfMul (gfMul acc acc) a) n

def gfInv (a : Byte) : Byte := gfInvFrom a 1 7

/-- The S-box. -/
def sbox (a : Byte) : Byte :=
  let b := gfInv a
  b ^^^ b.rotateLeft 1 ^^^ b.rotateLeft 2 ^^^ b.rotateLeft 3 ^^^ b.rotateLeft 4 ^^^ 0x63

/-! ### AES-256 -/

def xorBytes (a b : List Byte) : List Byte := List.zipWith (fun x y => x ^^^ y) a b

/-- The round constant of key-schedule word 8i. -/
def rcon (i : Nat) : Byte := (1 : Byte) <<< (i - 1)

/-- Key-schedule words, 4 bytes each, from the words before, newest first. -/
def nextKeyWord (ws : List (List Byte)) : List Byte :=
  let i := ws.length
  let last := ws.headD []
  let old := ws.getD 7 []
  let t :=
    if i % 8 = 0 then
      let r := (last.drop 1 ++ last.take 1).map sbox
      match r with
      | x :: xs => (x ^^^ rcon (i / 8)) :: xs
      | [] => []
    else if i % 8 = 4 then last.map sbox
    else last
  xorBytes old t

def growKey (ws : List (List Byte)) : Nat → List (List Byte)
  | 0 => ws
  | n + 1 => growKey (nextKeyWord ws :: ws) n

/-- The 15 round keys of a 32-byte key. -/
def roundKeys (key : List Byte) : List (List Byte) :=
  let first := (List.range 8).map fun i => bytesAt key (4 * i) 4
  let ws := (growKey first.reverse 52).reverse
  (List.range 15).map fun r => (List.range 4).flatMap fun k => ws.getD (4 * r + k) []

/-- SubBytes and ShiftRows; byte i of the state is row i mod 4, column i / 4. -/
def subShift (s : List Byte) : List Byte :=
  (List.range 16).map fun i => sbox (s.getD ((i + 4 * (i % 4)) % 16) 0)

def mixColumn (c : List Byte) : List Byte :=
  (List.range 4).map fun i =>
    gfMul 2 (c.getD i 0) ^^^ gfMul 3 (c.getD ((i + 1) % 4) 0) ^^^ c.getD ((i + 2) % 4) 0 ^^^ c.getD ((i + 3) % 4) 0

def mixColumns (s : List Byte) : List Byte := (List.range 4).flatMap fun k => mixColumn (bytesAt s (4 * k) 4)

/-- The cipher on one 16-byte block. -/
def aesBlock (ks : List (List Byte)) (b : List Byte) : List Byte :=
  let s0 := xorBytes b (ks.getD 0 [])
  let s := ((List.range 13).map (· + 1)).foldl (fun s r => xorBytes (mixColumns (subShift s)) (ks.getD r [])) s0
  xorBytes (subShift s) (ks.getD 14 [])

def keyBytes (k : BitVec 256) : List Byte := leOf 32 k.toNat

/-! ### 128-bit blocks as big-endian numbers -/

def beNat (bs : List Byte) : Nat := natOf bs.reverse
def beBytes (n w : Nat) : List Byte := (leOf n w).reverse

/-- The 16-byte pieces of a byte string, the last one short. -/
def blocks16 (bs : List Byte) : List (List Byte) :=
  (List.range ((bs.length + 15) / 16)).map fun i => (bs.drop (16 * i)).take 16

/-! ### CMAC -/

/-- A subkey step: doubling in GF(2^128). -/
def cmacDouble (w : BitVec 128) : BitVec 128 := if w.getLsbD 127 then (w <<< 1) ^^^ 0x87 else w <<< 1

/-- The AES-256 CMAC of a byte string. -/
def cmac (key msg : List Byte) : List Byte :=
  let ks := roundKeys key
  let l : BitVec 128 := BitVec.ofNat 128 (beNat (aesBlock ks (List.replicate 16 0)))
  let k1 := cmacDouble l
  let k2 := cmacDouble k1
  let n := (msg.length + 15) / 16 - 1
  let head := (List.range n).map fun i => bytesAt msg (16 * i) 16
  let last := msg.drop (16 * n)
  let fin :=
    if last.length = 16 then xorBytes last (beBytes 16 k1.toNat)
    else xorBytes (bytesAt (last ++ [0x80]) 0 16) (beBytes 16 k2.toNat)
  (head ++ [fin]).foldl (fun x b => aesBlock ks (xorBytes x b)) (List.replicate 16 0)

/-! ### GCM with empty additional data (R218) -/

/-- The product of GHASH, over the bits of x from the most significant down. -/
def ghashMulFrom (x v z : BitVec 128) : Nat → BitVec 128
  | 0 => z
  | n + 1 =>
    let z := if x.getLsbD n then z ^^^ v else z
    let v := if v.getLsbD 0 then (v >>> 1) ^^^ (0xE1#128 <<< 120) else v >>> 1
    ghashMulFrom x v z n

def ghash (h : BitVec 128) (blocks : List (List Byte)) : BitVec 128 :=
  blocks.foldl (fun y b => ghashMulFrom (y ^^^ BitVec.ofNat 128 (beNat b)) h 0 128) 0

/-- The counter-mode text: the same function encrypts and decrypts. -/
def gcmText (key iv text : List Byte) : List Byte :=
  let ks := roundKeys key
  let bs := blocks16 text
  (List.range bs.length).flatMap fun i => xorBytes (bs.getD i []) (aesBlock ks (iv ++ beBytes 4 (i + 2)))

/-- The tag of a ciphertext. -/
def gcmTag (key iv cipher : List Byte) : List Byte :=
  let ks := roundKeys key
  let h : BitVec 128 := BitVec.ofNat 128 (beNat (aesBlock ks (List.replicate 16 0)))
  let body := (blocks16 cipher).map fun b => bytesAt b 0 16
  let s := ghash h (body ++ [beBytes 16 (8 * cipher.length)])
  xorBytes (beBytes 16 s.toNat) (aesBlock ks (iv ++ beBytes 4 1))

/-! ### CRC-32C -/

def crcBits (c : Word) : Nat → Word
  | 0 => c
  | n + 1 => crcBits (if c.getLsbD 0 then (c >>> 1) ^^^ 0x82F63B78 else c >>> 1) n

/-- The Castagnoli CRC of a byte string. -/
def crc32c (bs : List Byte) : Word := ~~~ (bs.foldl (fun c b => crcBits (c ^^^ b.setWidth 32) 8) 0xFFFFFFFF)

/-! ### SHA-384 (FIPS 180-4), for the attestation report (R384) -/

/-- The round constants. -/
def shaK0 : List (BitVec 64) := [
  0x428A2F98D728AE22, 0x7137449123EF65CD, 0xB5C0FBCFEC4D3B2F, 0xE9B5DBA58189DBBC, 0x3956C25BF348B538,
  0x59F111F1B605D019, 0x923F82A4AF194F9B, 0xAB1C5ED5DA6D8118, 0xD807AA98A3030242, 0x12835B0145706FBE,
  0x243185BE4EE4B28C, 0x550C7DC3D5FFB4E2, 0x72BE5D74F27B896F, 0x80DEB1FE3B1696B1, 0x9BDC06A725C71235,
  0xC19BF174CF692694, 0xE49B69C19EF14AD2, 0xEFBE4786384F25E3, 0x0FC19DC68B8CD5B5, 0x240CA1CC77AC9C65,
  0x2DE92C6F592B0275, 0x4A7484AA6EA6E483, 0x5CB0A9DCBD41FBD4, 0x76F988DA831153B5, 0x983E5152EE66DFAB,
  0xA831C66D2DB43210, 0xB00327C898FB213F, 0xBF597FC7BEEF0EE4, 0xC6E00BF33DA88FC2, 0xD5A79147930AA725,
  0x06CA6351E003826F, 0x142929670A0E6E70, 0x27B70A8546D22FFC, 0x2E1B21385C26C926, 0x4D2C6DFC5AC42AED,
  0x53380D139D95B3DF, 0x650A73548BAF63DE, 0x766A0ABB3C77B2A8, 0x81C2C92E47EDAEE6, 0x92722C851482353B]

def shaK1 : List (BitVec 64) := [
  0xA2BFE8A14CF10364, 0xA81A664BBC423001, 0xC24B8B70D0F89791, 0xC76C51A30654BE30, 0xD192E819D6EF5218,
  0xD69906245565A910, 0xF40E35855771202A, 0x106AA07032BBD1B8, 0x19A4C116B8D2D0C8, 0x1E376C085141AB53,
  0x2748774CDF8EEB99, 0x34B0BCB5E19B48A8, 0x391C0CB3C5C95A63, 0x4ED8AA4AE3418ACB, 0x5B9CCA4F7763E373,
  0x682E6FF3D6B2B8A3, 0x748F82EE5DEFB2FC, 0x78A5636F43172F60, 0x84C87814A1F0AB72, 0x8CC702081A6439EC,
  0x90BEFFFA23631E28, 0xA4506CEBDE82BDE9, 0xBEF9A3F7B2C67915, 0xC67178F2E372532B, 0xCA273ECEEA26619C,
  0xD186B8C721C0C207, 0xEADA7DD6CDE0EB1E, 0xF57D4F7FEE6ED178, 0x06F067AA72176FBA, 0x0A637DC5A2C898A6,
  0x113F9804BEF90DAE, 0x1B710B35131C471B, 0x28DB77F523047D84, 0x32CAAB7B40C72493, 0x3C9EBE0A15C9BEBC,
  0x431D67C49C100D4C, 0x4CC5D4BECB3E42B6, 0x597F299CFC657E2A, 0x5FCB6FAB3AD6FAEC, 0x6C44198C4A475817]

/-- The initial hash value. -/
def shaInit : List (BitVec 64) := [
  0xCBBB9D5DC1059ED8, 0x629A292A367CD507, 0x9159015A3070DD17, 0x152FECD8F70E5939, 0x67332667FFC00B31,
  0x8EB44A8768581511, 0xDB0C2E0D64F98FA7, 0x47B5481DBEFA4FA4]

/-- A 64-bit word from 8 bytes, highest first. -/
def beWord (bs : List Byte) : BitVec 64 := bs.foldl (fun w b => w <<< 8 ||| b.setWidth 64) 0

/-- 8 bytes of a word, highest first. -/
def wordBe (w : BitVec 64) : List Byte := (List.range 8).map fun i => (w >>> (56 - 8 * i)).setWidth 8

/-- The message schedule, newest word first. -/
def shaSchedule (ws : List (BitVec 64)) : Nat → List (BitVec 64)
  | 0 => ws
  | n + 1 =>
    let a := ws.getD 1 0
    let b := ws.getD 14 0
    let s1 := a.rotateRight 19 ^^^ a.rotateRight 61 ^^^ a >>> 6
    let s0 := b.rotateRight 1 ^^^ b.rotateRight 8 ^^^ b >>> 7
    shaSchedule ((s1 + ws.getD 6 0 + s0 + ws.getD 15 0) :: ws) n

/-- One round on the eight working variables. -/
def shaRound (v : List (BitVec 64)) (kw : BitVec 64) : List (BitVec 64) :=
  let a := v.getD 0 0
  let b := v.getD 1 0
  let c := v.getD 2 0
  let e := v.getD 4 0
  let t1 := v.getD 7 0 + (e.rotateRight 14 ^^^ e.rotateRight 18 ^^^ e.rotateRight 41) + ((e &&& v.getD 5 0) ^^^ (~~~e &&& v.getD 6 0)) + kw
  let t2 := (a.rotateRight 28 ^^^ a.rotateRight 34 ^^^ a.rotateRight 39) + ((a &&& b) ^^^ (a &&& c) ^^^ (b &&& c))
  [t1 + t2, a, b, c, v.getD 3 0 + t1, e, v.getD 5 0, v.getD 6 0]

/-- One block of 128 bytes. -/
def shaBlock (h : List (BitVec 64)) (blk : List Byte) : List (BitVec 64) :=
  let w := (shaSchedule (((List.range 16).map fun i => beWord (bytesAt blk (8 * i) 8)).reverse) 64).reverse
  let kw := List.zipWith (· + ·) (shaK0 ++ shaK1) w
  List.zipWith (· + ·) h (kw.foldl shaRound h)

/-- The padded message. -/
def shaPad (m : List Byte) : List Byte :=
  m ++ [0x80] ++ List.replicate ((239 - m.length % 128) % 128) 0 ++ List.replicate 8 0 ++ wordBe (BitVec.ofNat 64 (8 * m.length))

def sha384 (m : List Byte) : List Byte :=
  let p := shaPad m
  (((List.range (p.length / 128)).foldl (fun h i => shaBlock h (bytesAt p (128 * i) 128)) shaInit).take 6).flatMap wordBe

end Sys2Proof.Machine
end

