-- ==== Sys2Proof/Machine/Monitor.lean ====
section
/-! DEFINITION. Machine/Monitor.lean: the clusters (R370 to R376), the window of the draw accumulator and the monitors
(R388, R389). -/

namespace Sys2Proof.Machine

/-- A monitor with its results zeroed (R388, R389). -/
def Monitor.cleared (ctl : Word64) : Monitor := ⟨ctl, 2 ^ 32 - 1, 0, 0, List.replicate 16 0⟩

/-- A cluster after reset. -/
def Cluster.fresh (c : Nat) : Cluster where
  cls := 0
  grant := 2
  therm := 2
  temp := (Config.freeTemp c).toNat
  limit := 95
  charges := []
  coming := []
  winAt := 0
  lanesTill := 0
  pairing := false
  hold := false
  pausing := false
  budget := Config.freeBudget c
  drawn := 0
  mons := List.replicate 8 (Monitor.cleared 0xF0)

def State.cluster (s : State) (c : Nat) : Cluster := (s.clusters.find c).getD (Cluster.fresh c)
def State.setCluster (s : State) (c : Nat) (x : Cluster) : State := { s with clusters := s.clusters.put c x }

/-! ### The draw accumulator (R375) -/

/-- A: the sum of the charges of the last 32 cycles. -/
def Cluster.draw (x : Cluster) : Nat := x.charges.sum

/-- Pairing and the hold begin at their thresholds and end together below the first. -/
def Cluster.judge (x : Cluster) : Cluster :=
  let a := x.draw
  if 4 * a < 3 * x.budget then { x with pairing := false, hold := false }
  else { x with pairing := true, hold := x.hold || decide (7 * x.budget ≤ 8 * a) }

/-- One cluster cycle: the charge of the cycle's beats comes in, one older than 32 cycles falls out. -/
def Cluster.cycle (x : Cluster) : Cluster :=
  Cluster.judge { x with charges := (x.coming.headD 0 :: x.charges).take 32, coming := x.coming.tail }

def Cluster.cycles (x : Cluster) : Nat → Cluster
  | 0 => x
  | n + 1 => x.cycle.cycles n

/-- The cluster at a later cycle. After 32 cycles and those of the beats to come, the window is empty for good. -/
def Cluster.upTo (x : Cluster) (now : Nat) : Cluster :=
  let y := x.cycles (min (now - x.winAt) (32 + x.coming.length))
  { x with charges := y.charges, coming := y.coming, pairing := y.pairing, hold := y.hold, winAt := now }

/-- Adds charges, the first to the present cycle and the next to those that follow. -/
def Cluster.charge (x : Cluster) (cs : List Nat) : Cluster :=
  match cs with
  | [] => x
  | c :: rest =>
    Cluster.judge { x with
      charges := match x.charges with
        | [] => [c]
        | y :: ys => (y + c) :: ys
      coming := (List.range (max rest.length x.coming.length)).map fun i => rest.getD i 0 + x.coming.getD i 0
      drawn := x.drawn + cs.sum }

/-- A cluster now: its window has moved on to the present cycle. -/
def State.clusterNow (s : State) (c : Nat) : Cluster := (s.cluster c).upTo s.ticks

/-- The bin of a sample (R389). -/
def binOf (v : Nat) : Nat := if v = 0 then 0 else min (v.log2 + 1) 15

/-- A monitor takes one sample. -/
def Monitor.take (m : Monitor) (v : Nat) : Monitor :=
  let b := binOf v
  { m with
    min := Nat.min m.min v
    max := Nat.min (Nat.max m.max v) (2 ^ 32 - 1)
    count := Nat.min (m.count + 1) (2 ^ 64 - 1)
    bins := m.bins.set b (Nat.min (m.bins.getD b 0 + 1) (2 ^ 32 - 1)) }

/-- The monitor is on and watches the event on the core (R388). -/
def Monitor.watches (m : Monitor) (ev core : Nat) : Bool :=
  m.ctl.getLsbD 0 && (m.ctl.toNat / 256 % 256 == ev) && (m.ctl.toNat / 16 % 16 == core || m.ctl.toNat / 16 % 16 == 15)

/-- A sample of an event on a core of the part. -/
def State.sample (s : State) (core ev v : Nat) : State :=
  let c := core / 12
  match s.clusters.find c with
  | none => s
  | some x => s.setCluster c { x with mons := x.mons.map fun m => if m.watches ev (core % 12) then m.take v else m }

/-- An entry joins a core's special-function queue (R143); the occupancy is a sample (R388). -/
def State.enqueueSfq (s : State) (core : Nat) (e : SfqEntry) : State :=
  let c := s.core core
  (s.setCore core { c with sfq := c.sfq ++ [e] }).sample core 6 (c.sfq.length + 1)

end Sys2Proof.Machine
end

