-- ==== Sys2Proof/Machine/Operands.lean ====
section
/-! DEFINITION. Machine/Operands.lean: how a word finds its issuer, waits for its registers, is checked against the
gang's window, and reads its operands in every form: registers through the operand latches (R95), immediates (R40,
R101), memory operands (R41, R149). -/

namespace Sys2Proof.Machine

/-- The plot, gang and PC slot that issue the word. -/
structure Issuer where
  P  : Plot
  G  : Gang
  sl : SlotId
  S  : PcSlot

/-- The issuer that the state's cursor names. -/
def State.issuer (s : State) : Option Issuer :=
  match s.cur with
  | .gang p g sl =>
    match s.plot? p, s.gang? p g with
    | some P, some G => (G.slot sl).map fun S => ⟨P, G, sl, S⟩
    | _, _ => none
  | _ => none

/-- The issue of a word is counted: the gang's issue number, and the cycle of the gang's and the slot's last issue (R339). -/
def Gang.stamp (G : Gang) (sl : SlotId) (now : Nat) : Gang :=
  { G.setSlot sl ((G.slot sl).map fun S => { S with issued := some now }) with seq := G.seq + 1, lastIssue := some now }

/-- The lowest-numbered register at or above NV among those that the word names (R43, R345). -/
def Gang.beyond (G : Gang) (vs : List Nat) : Option Nat := (vs.filter fun v => decide (G.nv ≤ v)).min?

/-- REG_BOUNDS of a word that names register `v` (R345). -/
def boundsTrap (v nv : Nat) : TrapInfo := { code := 0x03, info := BitVec.ofNat 64 (v + 256 * nv) }

/-- The registers that a word names have no outstanding result (R96). -/
def State.settledRegs (s : State) (x : Issuer) (vs ss : List Nat) : Bool :=
  !(vs.any (s.busyV x.P.core x.G) || ss.any x.G.busyS)

/-- A word that names the vector registers `vs` and scalar registers `ss` issues: it waits on the scoreboard (R96), then
passes the register-bound check (R43), and then has its own checks and effect. -/
def State.issue (s : State) (vs ss : List Nat) (f : Issuer → State) : Res :=
  match s.issuer with
  | none => .refused .noIssuer
  | some x =>
    if s.settledRegs x vs ss then
      let x := { x with G := x.G.stamp x.sl s.ticks, S := { x.S with issued := some s.ticks } }
      match x.G.beyond vs with
      | some v => .next (s.trap x.P x.G x.sl x.S (boundsTrap v x.G.nv))
      | none => .next (f x)
    else .next s

/-- The word ends and its slot goes on past `len` bytes. -/
def State.done (s : State) (x : Issuer) (G : Gang) (len : Nat) : State := s.setGang (G.skip x.sl len)

/-! ### Vector sources and the latches (R95) -/

def latchHit (l : Option Latch) (n : Nat) : Option Lanes :=
  match l with
  | some x => if x.reg = n then some x.val else none
  | none => none

/-- The operand at a position: from the latch if it holds the register, else from the banks. -/
def Gang.operand (G : Gang) (l : Option Latch) (r : Option HReg) : Lanes :=
  match r with
  | none => lanesZero
  | some r => (latchHit l r.n.toNat).getD (G.vreg r.n.toNat)

/-- The latch after the word. -/
def latchNext (l : Option Latch) (r : Option HReg) (val : Lanes) : Option Latch :=
  match r with
  | none => l
  | some r => if r.hold then some ⟨r.n.toNat, val⟩ else none

/-- A word with vector sources at positions a, b and c: the operands are read, the latches move on, and `f` gives the
gang with the results written. `vs` and `ss` are the further registers that the word names. -/
def State.vec (s : State) (len : Nat) (ra rb rc : Option HReg) (vs ss : List Nat)
    (f : Issuer → Lanes → Lanes → Lanes → Gang → Gang) : Res :=
  s.issue ([ra, rb, rc].filterMap (·.map (·.n.toNat)) ++ vs) ss fun x =>
    let a := x.G.operand x.G.latchA ra
    let b := x.G.operand x.G.latchB rb
    let c := x.G.operand x.G.latchC rc
    let G := { x.G with latchA := latchNext x.G.latchA ra a, latchB := latchNext x.G.latchB rb b,
                        latchC := latchNext x.G.latchC rc c }
    s.done x (f x a b c G) len

end Sys2Proof.Machine

namespace Sys2Proof

/-! ### Immediates -/

def VSrc.reg? : VSrc → Option HReg
  | .reg r => some r
  | _ => none

/-- The immediate in place of slot B (R101): E is sign-extended, K is taken whole. -/
def VSrc.imm : VSrc → Word
  | .reg _ => 0
  | .e10 e => e.signExtend 32
  | .k32 k => k

/-- The word's length with this source. -/
def VSrc.len : VSrc → Nat
  | .k32 _ => 12
  | _ => 8

/-- The operand in every lane: the register's value that was read, or the immediate. -/
def VSrc.pick (b : VSrc) (read : Lanes) : Lanes :=
  match b with
  | .reg _ => read
  | .e10 e => Vector.replicate 96 (e.signExtend 32)
  | .k32 k => Vector.replicate 96 k

def SSrc.len : SSrc → Nat
  | .k32 _ => 12
  | _ => 8

/-- A scalar source (R109): immediates are sign-extended to 64 bits. -/
def SSrc.read (b : SSrc) (G : Machine.Gang) (S : Machine.PcSlot) : Word64 :=
  match b with
  | .reg n => G.rs S n
  | .e10 e => e.signExtend 64
  | .k32 k => k.signExtend 64

def SSrc.uses : SSrc → List Nat
  | .reg n => [n.toNat]
  | _ => []

def MovImm.word : MovImm → Word
  | .i26 k => k.signExtend 32
  | .k32 k => k

def MovImm.len : MovImm → Nat
  | .i26 _ => 8
  | .k32 _ => 12

def SMovImm.word : SMovImm → Word64
  | .i26 k => k.signExtend 64
  | .i58 k => k.signExtend 64
  | .q64 k => k

def SMovImm.len : SMovImm → Nat
  | .i26 _ => 8
  | .i58 _ => 12
  | .q64 _ => 16

/-! ### Memory operands (R41, R149) -/

def MOff.len : MOff → Nat
  | .k14 _ => 8
  | .k32 _ => 12

def MOff.value : MOff → Int
  | .k14 k => k.toInt
  | .k32 k => k.toInt

def Idx.reg? : Idx → Option HReg
  | .vec r => some r
  | _ => Option.none

def Idx.uses : Idx → List Nat
  | .scl n => [n.toNat]
  | _ => []

/-- idx(i): 0, the zero-extended lane, or the signed scalar. -/
def Idx.value (x : Idx) (G : Machine.Gang) (S : Machine.PcSlot) (b : Lanes) (i : Nat) : Int :=
  match x with
  | .none => 0
  | .vec _ => (Machine.laneAt b i).toNat
  | .scl n => (G.rs S n).toInt

end Sys2Proof

namespace Sys2Proof.Machine

/-- addr(i) := sA + idx(i) × 2^SC + K, exactly. The base is signed (R149, R178). -/
def laneAddr (base : Int) (idx : Idx) (sc : BitVec 2) (k : Int) (G : Gang) (S : PcSlot) (b : Lanes) (i : Nat) : Int :=
  base + idx.value G S b i * (2 ^ sc.toNat : Nat) + k

/-! ### The shapes of lane-wise words (R102) -/

def lanes1 (f : Word → Word) (a : Lanes) : Lanes := Vector.ofFn fun i => f a[i]
def lanes2 (f : Word → Word → Word) (a b : Lanes) : Lanes := Vector.ofFn fun i => f a[i] b[i]
def lanes3 (f : Word → Word → Word → Word) (a b d : Lanes) : Lanes := Vector.ofFn fun i => f a[i] b[i] d[i]

/-- vD[i] := f(vA[i], vB[i] or the immediate). -/
def vecBin (o : VBin) (f : Word → Word → Word) (s : State) : Res :=
  s.vec o.b.len (some o.a) o.b.reg? none [o.d.toNat] [] fun x a b _ G =>
    G.wv o.d.toNat (x.G.active x.S o.g) (lanes2 f a (o.b.pick b))

/-- vD[i] := f(vA[i], vB[i] or the immediate, vC[i]). -/
def vecTri (o : VTri) (f : Word → Word → Word → Word) (s : State) : Res :=
  s.vec o.b.len (some o.a) o.b.reg? (some o.c) [o.d.toNat] [] fun x a b c G =>
    G.wv o.d.toNat (x.G.active x.S o.g) (lanes3 f a (o.b.pick b) c)

def vecUn (o : VUn) (f : Word → Word) (s : State) : Res :=
  s.vec 8 (some o.a) none none [o.d.toNat] [] fun x a _ _ G => G.wv o.d.toNat (x.G.active x.S o.g) (lanes1 f a)

def vec2 (o : V2) (f : Word → Word → Word) (s : State) : Res :=
  s.vec 8 (some o.a) (some o.b) none [o.d.toNat] [] fun x a b _ G => G.wv o.d.toNat (x.G.active x.S o.g) (lanes2 f a b)

def vec3 (o : V3) (f : Word → Word → Word → Word) (s : State) : Res :=
  s.vec 8 (some o.a) (some o.b) (some o.c) [o.d.toNat] [] fun x a b c G =>
    G.wv o.d.toNat (x.G.active x.S o.g) (lanes3 f a b c)

/-- A scalar word: sD := f(sA, sB or the immediate). -/
def sclBin (o : SBin) (f : Word64 → Word64 → Word64) (s : State) : Res :=
  s.issue [] ([o.d.toNat, o.a.toNat] ++ o.b.uses) fun x =>
    s.done x (x.G.ws o.d (f (x.G.rs x.S o.a) (o.b.read x.G x.S))) o.b.len

def sclUn (d a : SReg) (f : Word64 → Word64) (s : State) : Res :=
  s.issue [] [d.toNat, a.toNat] fun x => s.done x (x.G.ws d (f (x.G.rs x.S a))) 8

end Sys2Proof.Machine
end

