-- ==== Sys2Proof/Machine/Trans.lean ====
section
/-! DEFINITION. Machine/Trans.lean: global addresses and their checks (R164 to R166), the owner's table walk and its
TLB (R320 to R323), FAULT records, the ERROR streams and the extent lists (R283, R325, R329, R330, R356). -/

namespace Sys2Proof.Machine

/-! ### Address checks (R165) -/

/-- How an access uses its address, for R165 and R166. `hostOp`: an atomic that is sent as a PCI Express AtomicOp. -/
inductive GAcc where
  | load | store | atomic (hostOp : Bool)
  deriving DecidableEq, Repr

def partOf (a : Nat) : Nat := a / 2 ^ 52 % 16
def ownerOf (a : Nat) : Nat := a / 2 ^ 48 % 16
def offOf (a : Nat) : Nat := a % 2 ^ 48

/-- The hub's ranges (R166). -/
inductive HubRange where
  | host | notify | doorbell | reserved
  deriving DecidableEq, Repr

def hubRange (off : Nat) : HubRange :=
  if off < 0x800000000000 then .host
  else if off < 0x800100000000 then .notify
  else if off < 0x800200000000 then .doorbell
  else .reserved

/-- Check k of R165 fails. -/
def addrFails (domain : List Nat) (k : Nat) (a : Int) (z : Nat) (op : GAcc) : Bool :=
  let n := a.toNat
  match k with
  | 1 => decide (a < 0) || decide (2 ^ 64 ≤ a)
  | 2 => n / 2 ^ 56 != 0
  | 3 => !(decide (ownerOf n < 4) || ownerOf n == 8)
  | 4 => !(domain.contains (partOf n))
  | 5 => ownerOf n == 8 && hubRange (offOf n) == .reserved
  | 6 => n % z != 0
  | _ => ownerOf n == 8 && (hubRange (offOf n) != .host || op == .atomic false)

/-- The first failing check of R165 over the lanes, with the lanes that fail it. -/
def firstFail (domain : List Nat) (lanes : List (Nat × Int)) (z : Nat) (op : GAcc) : List Nat → Option (Nat × List (Nat × Int))
  | [] => none
  | k :: ks =>
    match lanes.filter fun l => addrFails domain k l.2 z op with
    | [] => firstFail domain lanes z op ks
    | bad => some (k, bad)

def GAcc.writes : GAcc → Bool
  | .load => false
  | _ => true

/-- The cause and TINFO[7:3] of a failing check. -/
def checkCause (k : Nat) : Nat × Nat :=
  match k with
  | 1 => (0x07, 5) | 2 => (0x07, 1) | 3 => (0x07, 2) | 4 => (0x07, 3) | 5 => (0x07, 4) | 6 => (0x04, 0) | _ => (0x08, 0)

def lanesMask (l : List Nat) : Mask := maskOf fun i => l.contains i

/-- The trap of R165: TINFO[1:0] = 0b11, TINFO[2] for a store or an atomic, TINFO[7:3] the reason. -/
def globalTrap (code reason : Nat) (op : GAcc) (addr : Int) (lanes : Mask) : TrapInfo :=
  { code := code, info := BitVec.ofNat 64 (3 + (if op.writes then 4 else 0) + 8 * reason), addr := BitVec.ofInt 64 addr, lanes := lanes }

/-- R165 on the active lanes of an access. -/
def State.gmCheck (s : State) (lanes : List (Nat × Int)) (z : Nat) (op : GAcc) : Option TrapInfo :=
  (firstFail s.domain lanes z op [1, 2, 3, 4, 5, 6, 7]).map fun f =>
    globalTrap (checkCause f.1).1 (checkCause f.1).2 op ((f.2.head?.map (·.2)).getD 0) (lanesMask (f.2.map (·.1)))

/-- R165 on one scalar address: TLANE0 and TLANE1 read 0 (R80). -/
def State.gmCheck1 (s : State) (a : Int) (z : Nat) (op : GAcc) : Option TrapInfo :=
  (s.gmCheck [(0, a)] z op).map fun t => { t with lanes := 0 }

/-! ### Places in memory -/

def Loc.add : Loc → Nat → Loc
  | .hbm a, n => .hbm (a + n)
  | .host a, n => .host (a + n)
  | .peer a, n => .peer (a + n)

def State.storeOf (s : State) : Loc → Store × Nat
  | .hbm a => (s.hbm, a)
  | .host a => (s.host, a)
  | .peer a => (s.peers, a)

def State.readLoc (s : State) (l : Loc) (n : Nat) : List Byte := (s.storeOf l).1.readN (s.storeOf l).2 n

def State.poisonedLoc (s : State) (l : Loc) (n : Nat) : Bool := (s.storeOf l).1.poisoned (s.storeOf l).2 n

/-- Performs a write at the owner. -/
def State.writeLoc (s : State) (l : Loc) (bs : List Byte) : State :=
  match l with
  | .hbm a => { s with hbm := s.hbm.writeN a bs }
  | .host a => { s with host := s.host.writeN a bs }
  | .peer a => { s with peers := s.peers.writeN a bs }

/-- The place of a physical address at an owner: array die d's memory follows that of die d - 1; owner 8's is a bus
address (R322). -/
def placeOf (owner pa : Nat) : Loc := if owner = 8 then .host pa else .hbm (owner * 2 ^ 37 + pa)

/-! ### Page-table entries (R322) -/

def bitOf (e : Nat) (k : Nat) : Bool := e / 2 ^ k % 2 == 1
def fieldOf (e lo w : Nat) : Nat := e / 2 ^ lo % 2 ^ w

def pteLeaf (e : Nat) : Bool := bitOf e 1

/-- The malformed cases of R322 for an entry with V = 1 read at a level. -/
def malformed (owner level e : Nat) : Bool :=
  if pteLeaf e then
    fieldOf e 52 12 != 0 || fieldOf e 12 4 != 0 || bitOf e 2 || (owner != 8 && bitOf e 8) || level == 0 ||
      (level == 2 && fieldOf e 16 5 != 0) || (level == 1 && fieldOf e 16 14 != 0) || (owner != 8 && fieldOf e 37 15 != 0)
  else
    fieldOf e 52 12 != 0 || fieldOf e 2 6 != 0 || level == 3 || (level < 2 && fieldOf e 8 4 != 0) || fieldOf e 37 15 != 0

/-- The size that a leaf at a level maps. -/
def leafSize (level : Nat) : Nat := if level = 1 then 2 ^ 30 else if level = 2 then 2 ^ 21 else 2 ^ 16

/-- Entry index at a level (R321). -/
def tableIndex (level off : Nat) : Nat :=
  match level with
  | 0 => fieldOf off 39 9
  | 1 => fieldOf off 30 9
  | 2 => fieldOf off 21 9
  | _ => fieldOf off 16 5

end Sys2Proof.Machine

namespace Sys2Proof

/-- ACC of R325. -/
def AccKind.code : AccKind → Nat
  | .load => 0 | .store => 1 | .atomic => 2 | .fetch => 3 | .engRead => 4 | .engWrite => 5 | .seqFetch => 6
  | .decrement => 7 | .waitc => 8 | .migCopy => 9

/-- The access writes (R323). -/
def AccKind.writes : AccKind → Bool
  | .store => true | .engWrite => true | .atomic => true | .decrement => true
  | _ => false

/-- The rights of R323: RD is bit 3, W bit 4, X bit 5. -/
def AccKind.allowed (k : AccKind) (e : Nat) : Bool :=
  match k with
  | .load => Machine.bitOf e 3
  | .waitc => Machine.bitOf e 3
  | .engRead => Machine.bitOf e 3
  | .store => Machine.bitOf e 4
  | .engWrite => Machine.bitOf e 4
  | .atomic => Machine.bitOf e 3 && Machine.bitOf e 4
  | .decrement => Machine.bitOf e 3 && Machine.bitOf e 4
  | .fetch => Machine.bitOf e 5
  | .seqFetch => Machine.bitOf e 5
  | .migCopy => true

/-- The bit of the per-master access table that the access needs (R383): RDA 0, WR 1, AT 2. -/
def AccKind.tableBit : AccKind → Nat
  | .store => 1 | .engWrite => 1 | .atomic => 2 | .decrement => 2
  | _ => 0

end Sys2Proof

namespace Sys2Proof.Machine

/-- The master classes of R383, in the order listed. -/
inductive Master where
  | cores | engines | escapement | harts | port0pf | port0vf | port1 | links | workers | governors
  deriving DecidableEq, Repr

def Master.num : Master → Nat
  | .cores => 0 | .engines => 1 | .escapement => 2 | .harts => 3 | .port0pf => 4 | .port0vf => 5 | .port1 => 6
  | .links => 7 | .workers => 8 | .governors => 9

/-- The masters that reach a confidential frame of their context: gangs, engines and Orangery harts (R362). -/
def Master.inside : Master → Bool
  | .cores => true | .engines => true | .harts => true
  | _ => false

/-- Finds an entry of an association list. -/
def assoc {α β : Type} [DecidableEq α] (l : List (α × β)) (k : α) : Option β := (l.find? fun e => decide (e.1 = k)).map (·.2)

/-- Replaces or adds an entry of an association list. -/
def assocPut {α β : Type} [DecidableEq α] : List (α × β) → α → β → List (α × β)
  | [], k, v => [(k, v)]
  | (a, b) :: l, k, v => if a = k then (k, v) :: l else (a, b) :: assocPut l k v

/-- The targets of R383 besides the memory controller of each array die (0 to 3): the hub windows, the supervisor interface and
the security engine. -/
def targetHub : Nat := 8
def targetSupervisor : Nat := 9
def targetSecurity : Nat := 10

/-- The access table of a target allows a master's access (R383). -/
def State.tableAllows (s : State) (target : Nat) (m : Master) (k : AccKind) : Bool :=
  ((assoc s.fw.access (target, m.num)).getD 0).getLsbD k.tableBit

/-- What the firmware complex answers a request. -/
def State.answered (s : State) (a : Answer) : State := { s with fw := { s.fw with answer := a } }

/-- A write to the supervisor interface: nothing answers before the firmware runs (R380), and one of the masters that may be its writer
must have the right to write there (R383). -/
def State.supervised (s : State) (ms : List Master) (go : State) : State :=
  if !s.booted then s
  else if ms.any fun m => s.tableAllows targetSupervisor m .store then go.answered .ok
  else s.answered .denied

/-- The frame of a leaf may be used by the context and master (R323, R362). -/
def State.frameAllows (s : State) (owner ctx pa : Nat) (m : Master) (e : Nat) : Bool :=
  !bitOf e 10 || (m.inside && assoc s.frames (owner, pa / 65536) == some ctx)

/-- The outcome of a translation (R323, R324). -/
inductive Xl where
  | ok (l : Loc) (pte : Nat)
  | fault (type level : Nat)
  | deny (type level : Nat)
  | refuse
  | hold
  | absent
  deriving DecidableEq, Repr

/-- The walk of R323, without effect: the leaf, its level and its entry's address, or how it ends. -/
inductive WalkEnd where
  | leaf (level addr e : Nat)
  | fault (type level : Nat)
  | deny (type level : Nat)
  deriving DecidableEq, Repr

/-- Reads the tables from a level on: `t` is the table's address, `levels` the number of levels left. -/
def walkFrom (tables : Store) (base owner off t level : Nat) : Nat → WalkEnd
  | 0 => .deny 3 3
  | n + 1 =>
    let a := base + t + 8 * tableIndex level off
    if tables.poisoned a 8 then .deny 4 level
    else
      let e := tables.nat a 8
      if !bitOf e 0 then .fault 1 level
      else if malformed owner level e then .deny 3 level
      else if pteLeaf e then .leaf level a e
      else walkFrom tables base owner off (fieldOf e 8 44 * 256) (level + 1) n

/-- The tables of an owner lie in its own memory, owner 8's in die 0's (R320). -/
def tableBase (owner : Nat) : Nat := if owner = 8 then 0 else owner * 2 ^ 37

/-- What a leaf gives an access, once the walk or the TLB has found it (R323). -/
def State.useLeaf (s : State) (ctx owner off level e : Nat) (k : AccKind) (m : Master) : Xl :=
  let pa := fieldOf e 16 36 * 65536 + off % leafSize level
  if !k.allowed e then .fault 2 level
  else if !s.frameAllows owner ctx pa m e || !s.tableAllows owner m k then .refuse
  else if bitOf e 11 && k.writes then .hold
  else if owner = 8 ∧ k.tableBit = 2 ∧ !bitOf e 8 then .refuse
  else .ok (placeOf owner pa) e

/-- A TLB entry that serves the access: it has the right, and D if the access writes (R323). -/
def State.tlbHit (s : State) (ctx owner off : Nat) (k : AccKind) : Option TlbEntry :=
  s.tlb.find? fun t => t.owner == owner && t.ctx == ctx && decide (t.base ≤ off) && decide (off < t.base + t.size) &&
    k.allowed t.pte.toNat && (!k.writes || (bitOf t.pte.toNat 7 && !bitOf t.pte.toNat 11))

/-- The level of a leaf of a size. -/
def levelOf (size : Nat) : Nat := if size = 2 ^ 30 then 1 else if size = 2 ^ 21 then 2 else 3

/-- Translates at the owner (R323): a TLB entry serves, or the tables are walked, A and D are set by CAS, and the TLB
is filled. The CAS of a walk that is one step never fails. -/
def State.lookup (s : State) (ctx addr : Nat) (k : AccKind) (m : Master) : Xl × State :=
  let owner := ownerOf addr
  let off := offOf addr
  if partOf addr ≠ s.partno then
    (if s.domain.contains (partOf addr) then .ok (.peer addr) 0 else .absent, s)
  else
    match s.tlbHit ctx owner off k with
    | some t => (s.useLeaf ctx owner off (levelOf t.size) t.pte.toNat k m, s)
    | none =>
      match assoc s.roots (ctx, owner) with
      | none => (.fault 1 0, s)
      | some root =>
        match walkFrom s.hbm (tableBase owner) owner off root 0 4 with
        | .fault ty lv => (.fault ty lv, s)
        | .deny ty lv => (.deny ty lv, s)
        | .leaf lv a e =>
          match s.useLeaf ctx owner off lv e k m with
          | .ok l _ =>
            let n := e ||| 0x40 ||| (if k.writes then 0x80 else 0)
            let base := off - off % leafSize lv
            let rest := s.tlb.filter fun t => !(t.owner == owner && t.ctx == ctx && t.base == base)
            (.ok l n, { s with
              hbm := if n = e then s.hbm else s.hbm.writeN a (leOf 8 n)
              tlb := ⟨owner, ctx, base, leafSize lv, BitVec.ofNat 64 n⟩ :: rest })
          | x => (x, s)

/-! ### The home of a word -/

/-- The leaf that maps an offset: its level, address and value. -/
def State.leafOf (s : State) (owner ctx off : Nat) : Option (Nat × Nat × Nat) :=
  match assoc s.roots (ctx, owner) with
  | none => none
  | some root =>
    match walkFrom s.hbm (tableBase owner) owner off root 0 4 with
    | .leaf lv a e => some (lv, a, e)
    | _ => none

/-- The place that a context's address names now. -/
def State.homeOf (s : State) (ctx addr : Nat) : Option Loc :=
  if partOf addr ≠ s.partno then some (.peer addr)
  else (s.leafOf (ownerOf addr) ctx (offOf addr)).map fun x =>
    placeOf (ownerOf addr) (fieldOf x.2.2 16 36 * 65536 + offOf addr % leafSize x.1)

/-- Two ranges of places meet. -/
def Loc.meets (l : Loc) (n : Nat) (k : Loc) (m : Nat) : Bool :=
  match l, k with
  | .hbm a, .hbm b => decide (a < b + m) && decide (b < a + n)
  | .host a, .host b => decide (a < b + m) && decide (b < a + n)
  | .peer a, .peer b => decide (a < b + m) && decide (b < a + n)
  | _, _ => false

/-! ### The order of admission, and the watches of swapped plots -/

/-- The head of admission: the highest priority, and within it the order of entry (R335). -/
def headOf : List Backlog → Option Backlog
  | [] => none
  | b :: bs =>
    match headOf bs with
    | some c => if b.prio < c.prio ∨ (b.prio = c.prio ∧ c.ord < b.ord) then some c else some b
    | none => some b

/-- Notes since when the head has been the head (R336). -/
def State.noteHead (s : State) : State :=
  match headOf s.backlog with
  | none => { s with headSince := none }
  | some b => if (s.headSince.map (·.1)) = some b.ord then s else { s with headSince := some (b.ord, s.ticks) }

/-- An entry joins the order of its priority (R335). -/
def State.enqueueEntry (s : State) (prio : Nat) (e : Entry) : State :=
  State.noteHead { s with backlog := s.backlog ++ [⟨prio, s.ordNext, e, s.time.toNat⟩], ordNext := s.ordNext + 1 }

/-- A saved plot that is not suspended becomes runnable and enters the order of its priority (R310, R335). One that halts for its
save will do so once it is saved. -/
def State.makeRunnable (s : State) (p : Nat) : State :=
  match s.plot? p with
  | some P =>
    if P.suspended ∨ P.runnable then s
    else match P.place with
      | .saved => (s.setPlot { P with runnable := true }).enqueueEntry P.tmpl.prio (.plot p)
      | .halted => s.setPlot { P with runnable := true }
      | .resident => s
  | none => s

/-- A write of `n` bytes has been performed at a place: the watches of swapped plots at the words that it meets fire (R337, R338,
R391). -/
def State.fire (s : State) (l : Loc) (n : Nat) : State :=
  (s.plots.filter fun q => q.2.place != .resident && q.2.watches.any fun a =>
    (s.homeOf q.2.ctx a).any fun h => h.meets 8 l n).foldl (fun s q => s.makeRunnable q.1) s

/-! ### Accesses that the part makes for itself and that never wait -/

/-- Writes through translation; where translation does not allow it, nothing is written (false). -/
def State.tryWrite (s : State) (ctx addr : Nat) (bs : List Byte) (m : Master) : Bool × State :=
  match s.lookup ctx addr .engWrite m with
  | (.ok l _, s) => (true, (s.writeLoc l bs).fire l bs.length)
  | (_, s) => (false, s)

/-- Reads through translation; none where translation does not allow it. -/
def State.tryRead (s : State) (ctx addr n : Nat) (m : Master) : Option (List Byte) × State :=
  match s.lookup ctx addr .engRead m with
  | (.ok l _, s) => (if s.poisonedLoc l n then none else some (s.readLoc l n), s)
  | (_, s) => (none, s)

/-! ### ERROR streams (R283, R356) -/

/-- The 64 bytes of an event (R276). -/
def eventBytes (ts seq kind flags key : Nat) (payload : List Byte) : List Byte :=
  leOf 8 ts ++ leOf 8 seq ++ leOf 2 kind ++ leOf 2 flags ++ leOf 4 key ++ bytesAt payload 0 40

def wordBytes (ws : List Nat) : List Byte := ws.flatMap (leOf 4)

/-- The address of slot q of a stream's ring. -/
def slotAddr (st : Stream) (q : Nat) : Nat := st.ring + 64 * (q % 2 ^ st.log2)

/-- Saturating count in 32 bits. -/
def satInc (n : Nat) : Nat := min (n + 1) (2 ^ 32 - 1)

/-- A record that finds no room is lost and counted (R356). -/
def Stream.lose (st : Stream) (kind w0 ts : Nat) : Stream :=
  { st with sticky := true, late := satInc st.late, lost := satInc st.lost,
            lostKind := if st.lost = 0 then kind else st.lostKind
            lostW0 := if st.lost = 0 then BitVec.ofNat 32 w0 else st.lostW0
            lostTs := if st.lost = 0 then ts else st.lostTs }

/-- The OVERFLOW record's payload (R356). -/
def Stream.overflowPayload (st : Stream) : List Byte :=
  wordBytes [st.lost, st.lostKind, st.lostW0.toNat, st.lostTs % 2 ^ 32, st.lostTs / 2 ^ 32]

/-- The kinds of R275. -/
def kLive : Nat := 0
def kOrdered : Nat := 1
def kReplay : Nat := 2
def kError : Nat := 3

/-- The next event of a reader at a position: late events, which the buffer does not hold, are passed over. -/
def Stream.nextAt (st : Stream) (pos : Nat) : Nat :=
  ((st.evq.filter fun v => decide (pos ≤ v.idx)).map (·.idx)).min?.getD (max pos st.e)

/-- The released index r (R282, R356). -/
def Stream.released (st : Stream) : Nat :=
  let rs := st.readers.map fun r => st.nextAt r.pos
  ((if st.kind = kError then st.acked :: rs else rs).min?).getD st.e

/-- Slots that producers may write lie below this index. -/
def Stream.room (st : Stream) : Nat := st.released + 2 ^ st.log2

/-- There is room for one more record of an ERROR stream (R356). -/
def Stream.errRoom (st : Stream) : Bool := decide (st.tail < st.room)

/-- An entry of the routing table: VEC and OWNER (R355). -/
def Firmware.route (f : Firmware) (src : RouteSrc) : Word × Option Claimant := (assoc f.routing src).getD (0, none)

/-- A source of the routing table is raised: its entry's vector goes to the entry's owner (R355). What stands in `raised` stands there
once. -/
def State.raiseSource (s : State) (src : RouteSrc) : State :=
  let x := (src, s.fw.route src)
  { s with fw := { s.fw with raised := if s.fw.raised.contains x then s.fw.raised else s.fw.raised ++ [x] } }

/-- Appends one record at the tail, and raises the ERROR-stream notice (R355); where the ring cannot be written the record is
lost. -/
def State.appendErr (s : State) (n : Nat) (st : Stream) (kind key : Nat) (payload : List Byte) : State :=
  match s.tryWrite st.ctx (slotAddr st st.tail) (eventBytes s.time.toNat st.tail kind 0 key payload) .escapement with
  | (true, s) => State.raiseSource { s with streams := s.streams.put n { st with tail := st.tail + 1, pending := true } } .errorStream
  | (false, s) => { s with streams := s.streams.put n (st.lose kind (fieldAt payload 0 4) s.time.toNat) }

/-- Writes the OVERFLOW record of a stream that has lost records, if there is room (R356). -/
def State.flushOverflow (s : State) (n : Nat) : State :=
  match s.streams.find n with
  | some st =>
    if 0 < st.lost ∧ st.errRoom then
      let s := s.appendErr n st 0x00FF 0 st.overflowPayload
      match s.streams.find n with
      | some st' => if st'.tail = st.tail then s
        else { s with streams := s.streams.put n { st' with lost := 0, lostKind := 0, lostW0 := 0, lostTs := 0 } }
      | none => s
    else s
  | none => s

/-- Writes a record to a context's ERROR stream (R283). -/
def State.errRecord (s : State) (ctx kind key : Nat) (payload : List Byte) : State :=
  match (s.context ctx).errStream with
  | none => s
  | some n =>
    let s := s.flushOverflow n
    match s.streams.find n with
    | none => s
    | some st =>
      if st.errRoom ∧ st.lost = 0 then s.appendErr n st kind key payload
      else { s with streams := s.streams.put n (st.lose kind (fieldAt payload 0 4) s.time.toNat) }

/-! ### Extent lists (R329, R330) -/

/-- Appends an entry to a context's extent list; the 64-byte header precedes the ring, and HEAD moves on only past an entry that
is written. -/
def State.extentAppend (s : State) (ctx addr count fid src : Nat) : State :=
  let c := s.context ctx
  if c.extN = 0 then s
  else
    match s.tryRead ctx (c.extAddr - 64) 64 .governors with
    | (none, s) => s
    | (some h, s) =>
      let head := fieldAt h 0 8
      let tail := fieldAt h 8 8
      if head - tail < 2 ^ c.extN then
        let e := leOf 8 src ++ leOf 4 fid ++ leOf 4 count ++ leOf 8 addr ++ leOf 8 s.time.toNat
        match s.tryWrite ctx (c.extAddr + 32 * (head % 2 ^ c.extN)) e .governors with
        | (true, s) => (s.tryWrite ctx (c.extAddr - 64) (leOf 8 (head + 1)) .governors).2
        | (false, s) => s
      else
        let s := (s.tryWrite ctx (c.extAddr - 48) [h.getD 16 0 ||| 1] .governors).2
        (s.tryWrite ctx (c.extAddr - 44) (leOf 4 (satInc (fieldAt h 20 4))) .governors).2

/-- The requester of an access, for the counters of R329 and SRC of R330. -/
inductive Requester where
  | die (d : Nat) | peer (part : Nat) | other
  deriving DecidableEq, Repr

def Requester.src (r : Requester) (part : Nat) : Nat :=
  match r with
  | .die d => 4 * d + 64 * part
  | .peer q => 4 * 15 + 64 * q
  | .other => 4 * 15 + 64 * part

/-- The global address of an offset of an owner on this part. -/
def State.globalOf (s : State) (owner off : Nat) : Nat := s.partno * 2 ^ 52 + owner * 2 ^ 48 + off

/-- Counts an access that comes from another array die or from a peer part; the counter that reaches its threshold keeps the
requester that brought it there (R329, R330). -/
def State.countAccess (s : State) (ctx addr : Nat) (r : Requester) : State :=
  let owner := ownerOf addr
  let far := match r with
    | .die d => d != owner
    | .peer _ => true
    | .other => false
  let c := s.context ctx
  if far && c.extT != 0 then
    let key := (owner, offOf addr / 2 ^ 21)
    let old := (assoc c.counters key).getD (0, 0)
    let src := if old.1 + 1 = 2 ^ c.extT then r.src s.partno else old.2
    s.setContext ctx { c with counters := assocPut c.counters key (old.1 + 1, src) }
  else s

/-! ### FAULT records (R325, R326) -/

/-- What a FAULT record says of the access. -/
structure FaultWho where
  plot : Nat
  who  : Nat
  pc   : Word64
  acc  : Nat
  deriving DecidableEq, Repr

/-- The size of the page that a fault is on: the leaf's where there is one, else 64 KiB, the smallest page (R322, R325). -/
def faultSize (type level : Nat) : Nat := if type = 2 then leafSize level else 2 ^ 16

/-- The address lies on a fault's page. -/
def FaultRec.covers (f : FaultRec) (addr : Nat) : Bool := decide (f.page ≤ addr) && decide (addr < f.page + f.size)

/-- The FID of an owner's fault number n (R325): the count in its low 28 bits is never 0, so that 0 stands for no FID (log 11). -/
def fidOf (owner n : Nat) : Nat := owner * 2 ^ 28 + (n % (2 ^ 28 - 1) + 1)

/-- Writes a FAULT record with a fresh FID; TYPE 1 and 2 wait for a verdict and also append a FAULT entry. -/
def State.faultRecord (s : State) (ctx addr type level : Nat) (w : FaultWho) (r : Requester) (user : List Nat) : Nat × State :=
  let owner := ownerOf addr
  let n := (assoc s.fidNext owner).getD 0
  let fid := fidOf owner n
  let s := { s with fidNext := assocPut s.fidNext owner (n + 1) }
  let payload := leOf 4 fid ++ leOf 4 (type + 16 * w.acc + 256 * level) ++ leOf 8 addr ++ leOf 8 w.pc.toNat ++ leOf 4 w.who
  let s := s.errRecord ctx 0x0002 w.plot payload
  if type = 1 ∨ type = 2 then
    let z := faultSize type level
    let s := { s with faults := ⟨fid, ctx, addr - addr % z, z, w.plot, payload, user, false⟩ :: s.faults }
    let ext := addr - addr % 2 ^ 21
    (fid, s.extentAppend ctx ext 1 fid (1 + r.src s.partno))
  else (fid, s)

/-- A fault that still waits for its verdict. -/
def State.faultOpen (s : State) (fid : Nat) : Bool := s.faults.any fun f => f.fid == fid && !f.denied

/-- A fault that its verdict has denied. -/
def State.faultDenied (s : State) (fid : Nat) : Bool := s.faults.any fun f => f.fid == fid && f.denied

/-- The open fault on an address's page among some FIDs: an access has one record per distinct page (R325). -/
def State.faultAmong (s : State) (fids : List Nat) (addr : Nat) : Option Nat :=
  (s.faults.find? fun f => fids.contains f.fid && f.covers addr && !f.denied).map (·.fid)

/-- The denied fault on an address's page among some FIDs. -/
def State.deniedAmong (s : State) (fids : List Nat) (addr : Nat) : Option FaultRec :=
  s.faults.find? fun f => fids.contains f.fid && f.covers addr && f.denied

/-- WHO of R325. -/
def whoWord (lanes low g : Nat) (sl : SlotId) (entry : Nat) : Nat :=
  lanes % 128 + 256 * low + 2 ^ 16 * g + 2 ^ 20 * slotBit sl + 2 ^ 21 * entry

/-! ### Accesses of the hub, the Escapement, the harts, the ports and the peers -/

/-- How an access that no gang's or engine's queue holds ends. -/
inductive PartEnd where
  | ok (l : Loc)
  | wait
  | denied

/-- Translates an access that no gang's queue holds (R323, R324). `id` tells its requester from the others of its master. While
its own fault is open it waits, and a verdict of DENY denies it; a fault or a denial writes its record. -/
def State.partAccess (s : State) (ctx addr : Nat) (k : AccKind) (m : Master) (w : FaultWho) (r : Requester) (id : List Nat) :
    PartEnd × State :=
  let user := m.num :: k.code :: addr :: id
  match s.faults.find? fun f => f.ctx == ctx && f.user == user with
  | some f => if f.denied then (.denied, { s with faults := s.faults.filter fun x => x.fid != f.fid }) else (.wait, s)
  | none =>
    match s.lookup ctx addr k m with
    | (.ok l _, s) => (.ok l, s.countAccess ctx addr r)
    | (.hold, s) => (.wait, s)
    | (.absent, s) => (.denied, s)
    | (.refuse, s) => (.denied, s)
    | (.fault ty lv, s) => (.wait, (s.faultRecord ctx addr ty lv w r user).2)
    | (.deny ty lv, s) => (.denied, (s.faultRecord ctx addr ty lv w r user).2)

/-- The record of an access that belongs to no gang. -/
def hubWho (k : AccKind) : FaultWho := ⟨0, whoWord 0 0 0 .A 7, 0, k.code⟩

/-- An earlier write of the hub to the same place is still held. -/
def State.blockHeld (s : State) (ctx addr : Nat) : Bool :=
  s.posted.any fun p => match p.what with
    | .block c a _ => c == ctx && a == addr
    | _ => false

/-- A write of the hub to a context's memory: while it waits at its owner, or behind an earlier one, it is kept (R324, R331). -/
def State.hubWrite (s : State) (ctx addr : Nat) (bs : List Byte) : State :=
  if s.blockHeld ctx addr then { s with posted := s.posted ++ [⟨none, .block ctx addr bs⟩] }
  else match s.partAccess ctx addr .engWrite .escapement (hubWho .engWrite) .other [] with
  | (.ok l, s) => (s.writeLoc l bs).fire l bs.length
  | (.wait, s) => { s with posted := s.posted ++ [⟨none, .block ctx addr bs⟩] }
  | (.denied, s) => s

end Sys2Proof.Machine
end

