-- ==== Sys2Proof/Machine/ChimeHub.lean ====
section
/-! DEFINITION. Machine/ChimeHub.lean: the hub's target table (R301 to R306, R309 to R311): the chime block, one chime's
step, the end of a designation, delivery to a gang, and how a saved plot becomes runnable. -/

namespace Sys2Proof.Machine

def assocDel {α β : Type} [DecidableEq α] : List (α × β) → α → List (α × β)
  | [], _ => []
  | (a, b) :: l, k => if a = k then l else (a, b) :: assocDel l k

/-- A live copy as it is after designation: every field zero (R302). -/
def Target.fresh (ctx plot gang block : Nat) : Target :=
  ⟨ctx, plot, gang, block, 0, 0, List.replicate 64 ⟨0, 0, 0, 0, 0⟩, List.replicate 32 (0, 0), 0, 0⟩

def ChVec.bytes (v : ChVec) : List Byte :=
  leOf 4 v.payload.toNat ++ leOf 2 v.count ++ leOf 2 v.mode.toNat ++ leOf 8 v.lsid.toNat

/-- The 2,048-byte chime block (R302 to R304). -/
def Target.bytes (t : Target) (tid : Nat) : List Byte :=
  leOf 8 t.pend.toNat ++ leOf 8 t.enable.toNat ++ leOf 4 tid ++ leOf 4 t.denied ++ leOf 4 t.discard ++ List.replicate 36 0 ++
    t.vecs.flatMap ChVec.bytes ++ t.perms.flatMap (fun p => leOf 8 p.2.toNat ++ leOf 8 p.1.toNat) ++ List.replicate 448 0

/-- The hub writes the live copy to the area (R302). -/
def State.writeBack (s : State) (tid : Nat) (t : Target) : State := s.hubWrite t.ctx t.block (t.bytes tid)

def State.target? (s : State) (ctx tid : Nat) : Option Target := assoc s.targets (ctx, tid)
def State.setTarget (s : State) (tid : Nat) (t : Target) : State := { s with targets := assocPut s.targets (t.ctx, tid) t }

/-- The four statuses of a chime (R314). -/
def stDelivered : Nat := 0
def stQueued : Nat := 1
def stDenied : Nat := 2
def stGone : Nat := 3

def ChVec.none : ChVec := ⟨0, 0, 0, 0, 0⟩

/-- The sender is permitted to ring the vector (R304). -/
def Target.permits (t : Target) (sid : BitVec 24) (v : Nat) : Bool :=
  t.perms.any fun p => p.1 == sid && p.2.getLsbD v

/-- One more chime on a vector (R306). -/
def Target.ring (t : Target) (v : Nat) (p : Word) (sid : BitVec 24) (now : Nat) : Target :=
  let e := t.vecs.getD v ChVec.none
  let e1 : ChVec :=
    if t.pend.getLsbD v then
      { e with
        payload := if e.mode = 0 then e.payload ||| p
          else if e.mode = 1 then BitVec.ofNat 32 (min (e.payload.toNat + p.toNat) (2 ^ 32 - 1))
          else if e.mode = 2 then p else e.payload
        lsid := if e.mode = 3 then e.lsid else sid
        count := min (e.count + 1) 65535 }
    else { e with payload := p, count := 1, lsid := sid, at_ := now }
  { t with vecs := t.vecs.set v e1, pend := t.pend ||| (1 <<< v) }

/-- The chime step of R306. -/
def State.chime (s : State) (ctx tid v : Nat) (p : Word) (sid : BitVec 24) : Nat × State :=
  match s.target? ctx tid with
  | none => (stGone, s)
  | some t =>
    if !t.permits sid v then (stDenied, s.setTarget tid { t with denied := satInc t.denied })
    else
      let s1 := s.setTarget tid (t.ring v p sid s.ticks)
      match s.plot? t.plot with
      | none => (stGone, s1)
      | some P =>
        (if P.place = .saved ∨ P.suspended then stQueued else stDelivered,
         if t.enable.getLsbD v then s1.makeRunnable P.id else s1)

/-- The sender id of a gang (R305). -/
def gangSid (partno plot : Nat) : BitVec 24 := BitVec.ofNat 24 (2 ^ 23 + 2 ^ 18 * (partno % 16) + plot % 2 ^ 18)

/-- The chimes pending on the vectors, by their counts (R311). -/
def Target.pendingCount (t : Target) : Nat :=
  (((List.range 64).filter fun v => t.pend.getLsbD v).map fun v => (t.vecs.getD v ChVec.none).count).sum

/-- The designation of a plot ends (R301, R311). -/
def State.endTarget (s : State) (p : Nat) : State :=
  match s.plot? p with
  | none => s
  | some P =>
    match P.target with
    | none => s
    | some tid =>
      let s1 := s.setPlot { P with target := none }
      match s.target? P.ctx tid with
      | none => s1
      | some t =>
        let t1 := { t with discard := min (t.discard + t.pendingCount) (2 ^ 32 - 1), pend := 0 }
        { s1.writeBack tid t1 with targets := assocDel s.targets (P.ctx, tid) }

/-- The next target id of a context on this part (R301); none when the counter is exhausted. -/
def State.nextTid (s : State) (ctx : Nat) : Option Nat :=
  let n := (s.context ctx).nextTarget
  if n < 0x0FFFFFFE then some (s.partno * 2 ^ 28 + (n + 1)) else none

/-- Designates a gang of a plot with its block (R302). -/
def State.designate (s : State) (P : Plot) (g block tid : Nat) : State :=
  let t := Target.fresh P.ctx P.id g block
  let c := s.context P.ctx
  let s1 := (s.setContext P.ctx { c with nextTarget := c.nextTarget + 1 }).setPlot { P with target := some tid, handler := g }
  (s1.setTarget tid t).writeBack tid t

/-! ### Delivery (R309) -/

def Wait.atBarrier (w : Wait) : Bool :=
  match w with
  | .bar _ => true
  | .barPh _ => true
  | _ => false

/-- The lowest vector that is pending and enabled. -/
def Target.due (t : Target) : Option Nat := (List.range 64).find? fun v => t.pend.getLsbD v && t.enable.getLsbD v

/-- The vector that R309 delivers to a gang now, with its target. -/
def State.chimeDue (s : State) (P : Plot) (G : Gang) : Option (Nat × Target × Nat) :=
  if P.handler = G.idx ∧ G.chentry ≠ 0 ∧ G.frames.isEmpty ∧ G.life = .running ∧
      !(G.a.any fun S => S.wait.atBarrier) ∧ !(G.b.any fun S => S.wait.atBarrier) then
    match P.target with
    | none => none
    | some tid =>
      match s.target? P.ctx tid with
      | none => none
      | some t => t.due.map fun v => (tid, t, v)
  else none

/-- Entry into the chime handler (R309). -/
def Gang.chimeEntry (G : Gang) (v : Nat) (e : ChVec) : Gang :=
  let a := G.a.map fun S => S.endWait .chime
  let b := G.b.map fun S => S.endWait .chime
  let G1 := { G with chpca := pcOf a, chpcb := pcOf b }
  let G2 := G1.enter .chime a b G1.chentry
  (((G2.ws 56 (BitVec.ofNat 64 v)).ws 57 (e.payload.setWidth 64)).ws 58 (BitVec.ofNat 64 e.count)).ws 59 (e.lsid.setWidth 64)

/-- Delivers a due chime: the vector is no longer pending, the gang's claims are withdrawn (R407), the handler starts. A plot that
halts for its save has its handler saved at its first instruction and is runnable (R310, R348). -/
def State.deliver (s : State) (P : Plot) (G : Gang) (tid : Nat) (t : Target) (v : Nat) : State :=
  let e := t.vecs.getD v ChVec.none
  let s1 := (s.setTarget tid { t with pend := t.pend &&& ~~~ ((1 : Word64) <<< v) }).sample P.core 5 ((s.ticks - e.at_) * 10 / 11)
  State.settled ((s1.setPlot { P.withdraw G.idx with runnable := P.runnable || P.place == .halted }).setGang (G.chimeEntry v e)) P.id

end Sys2Proof.Machine
end

