-- ==== Sys2Proof/Machine/Fp.lean ====
section
/-! DEFINITION. Machine/Fp.lean: the number formats (R112 to R119). A finite value is exact, a sign and a natural
number times a power of two; every result is rounded once from the exact value (R113). -/

namespace Sys2Proof.Machine

/-- A binary format of R112: exponent bits, fraction bits. -/
structure FFmt where
  eb : Nat
  fb : Nat
  deriving DecidableEq, Repr

def f32 : FFmt := ⟨8, 23⟩
def f64 : FFmt := ⟨11, 52⟩
def f16 : FFmt := ⟨5, 10⟩
def bf16 : FFmt := ⟨8, 7⟩

def FFmt.bias (F : FFmt) : Nat := 2 ^ (F.eb - 1) - 1
def FFmt.emax (F : FFmt) : Nat := 2 ^ F.eb - 1
/-- The exponent of the last place of a subnormal. -/
def FFmt.qmin (F : FFmt) : Int := 1 - (F.bias : Int) - F.fb
def FFmt.signBit (F : FFmt) : Nat := 2 ^ (F.eb + F.fb)
def FFmt.nan (F : FFmt) : Nat := F.emax * 2 ^ F.fb + 2 ^ (F.fb - 1)
def FFmt.inf (F : FFmt) (neg : Bool) : Nat := (if neg then F.signBit else 0) + F.emax * 2 ^ F.fb
def FFmt.zero (F : FFmt) (neg : Bool) : Nat := if neg then F.signBit else 0
/-- The largest finite value of a sign. -/
def FFmt.maxFin (F : FFmt) (neg : Bool) : Nat := (if neg then F.signBit else 0) + (F.emax * 2 ^ F.fb - 1)

/-- A value read exactly: `fin neg m e` is ± m × 2^e, and keeps the sign of a zero. -/
inductive FVal where
  | nan
  | inf (neg : Bool)
  | fin (neg : Bool) (m : Nat) (e : Int)
  deriving DecidableEq, Repr

/-- Reads a pattern of a format (R112, R113). -/
def FFmt.unpack (F : FFmt) (w : Nat) : FVal :=
  let neg := w / F.signBit % 2 == 1
  let ex := w / 2 ^ F.fb % 2 ^ F.eb
  let fr := w % 2 ^ F.fb
  if ex = F.emax then (if fr = 0 then .inf neg else .nan)
  else if ex = 0 then .fin neg fr F.qmin
  else .fin neg (2 ^ F.fb + fr) ((ex : Int) - F.bias - F.fb)

/-- Overflow by mode (R113). -/
def FFmt.overflow (F : FFmt) (rm : RM) (neg : Bool) : Nat :=
  match rm, neg with
  | .rn, _ => F.inf neg
  | .rz, _ => F.maxFin neg
  | .ru, false => F.inf false
  | .ru, true => F.maxFin true
  | .rd, false => F.maxFin false
  | .rd, true => F.inf true

/-- Whether a remainder `rem` of 2^d below the last place `n` rounds the magnitude up. -/
def roundUp (rm : RM) (neg : Bool) (n rem d : Nat) : Bool :=
  match rm with
  | .rn => decide (2 ^ d < 2 * rem) || (2 * rem == 2 ^ d && n % 2 == 1)
  | .rz => false
  | .ru => !neg && rem != 0
  | .rd => neg && rem != 0

/-- m × 2^e in units of 2^q, rounded to an integer. -/
def roundTo (rm : RM) (neg : Bool) (m : Nat) (e q : Int) : Nat :=
  if q ≤ e then m * 2 ^ (e - q).toNat
  else
    let d := (q - e).toNat
    let n := m / 2 ^ d
    if roundUp rm neg n (m % 2 ^ d) d then n + 1 else n

/-- The rounded pattern of ± m × 2^e; `sticky` says that the exact magnitude lies strictly between m and m + 1 units. -/
def FFmt.round (F : FFmt) (rm : RM) (neg : Bool) (m : Nat) (e : Int) (sticky : Bool := false) : Nat :=
  let (m, e) := if sticky then (4 * m + 1, e - 2) else (m, e)
  if m = 0 then F.zero neg
  else
    let q := max ((m.log2 : Int) + e - F.fb) F.qmin
    let n := roundTo rm neg m e q
    let (n, q) := if n = 2 ^ (F.fb + 1) then (2 ^ F.fb, q + 1) else (n, q)
    if n < 2 ^ F.fb then F.zero neg + n
    else
      let ex := q + F.fb + F.bias
      if (F.emax : Int) ≤ ex then F.overflow rm neg
      else F.zero neg + ex.toNat * 2 ^ F.fb + (n - 2 ^ F.fb)

/-- The pattern of a value. -/
def FFmt.pack (F : FFmt) (rm : RM) : FVal → Nat
  | .nan => F.nan
  | .inf neg => F.inf neg
  | .fin neg m e => F.round rm neg m e

/-! ### Exact arithmetic -/

def FVal.neg : FVal → FVal
  | .nan => .nan
  | .inf s => .inf (!s)
  | .fin s m e => .fin (!s) m e

def FVal.mul : FVal → FVal → FVal
  | .nan, _ => .nan
  | _, .nan => .nan
  | .inf s, .inf t => .inf (s != t)
  | .inf s, .fin t m _ => if m = 0 then .nan else .inf (s != t)
  | .fin s m _, .inf t => if m = 0 then .nan else .inf (s != t)
  | .fin s m e, .fin t n f => .fin (s != t) (m * n) (e + f)

def FVal.isNan : FVal → Bool
  | .nan => true
  | _ => false

def FVal.isInf (neg : Bool) : FVal → Bool
  | .inf s => s == neg
  | _ => false

def FVal.sign : FVal → Bool
  | .nan => false
  | .inf s => s
  | .fin s _ _ => s

def FVal.exp : FVal → Int
  | .fin _ _ e => e
  | _ => 0

/-- A finite value in units of 2^q, for q at or below its exponent. -/
def FVal.units (q : Int) : FVal → Int
  | .fin s m e => (if s then -1 else 1) * ((m * 2 ^ (e - q).toNat : Nat) : Int)
  | _ => 0

/-- The exact sum, with R113's sign of an exact zero. -/
def sumExact (rm : RM) (l : List FVal) : FVal :=
  if l.any FVal.isNan || (l.any (FVal.isInf true) && l.any (FVal.isInf false)) then .nan
  else if l.any (FVal.isInf true) then .inf true
  else if l.any (FVal.isInf false) then .inf false
  else
    let q := (l.map FVal.exp).foldl min 0
    let t := (l.map (FVal.units q)).foldl (· + ·) 0
    if t = 0 then
      if l.all FVal.sign then .fin true 0 q
      else if l.all (fun v => !v.sign) then .fin false 0 q
      else .fin (rm == .rd) 0 q
    else .fin (decide (t < 0)) t.natAbs q

/-- The sum of terms, rounded once. -/
def FFmt.sum (F : FFmt) (rm : RM) (l : List FVal) : Nat := F.pack rm (sumExact rm l)

def FFmt.add (F : FFmt) (rm : RM) (a b : Nat) : Nat := F.sum rm [F.unpack a, F.unpack b]
def FFmt.sub (F : FFmt) (rm : RM) (a b : Nat) : Nat := F.sum rm [F.unpack a, (F.unpack b).neg]
def FFmt.mulF (F : FFmt) (rm : RM) (a b : Nat) : Nat := F.pack rm ((F.unpack a).mul (F.unpack b))
/-- One rounding of a × b + c; 0 × ∞ is NaN whatever c is (R131). -/
def FFmt.fma (F : FFmt) (rm : RM) (a b c : Nat) : Nat := F.sum rm [(F.unpack a).mul (F.unpack b), F.unpack c]
def FFmt.fnma (F : FFmt) (rm : RM) (a b c : Nat) : Nat := F.sum rm [((F.unpack a).mul (F.unpack b)).neg, F.unpack c]

/-- The order of non-NaN patterns, -0 equal to +0. -/
def FFmt.key (F : FFmt) (w : Nat) : Int :=
  let mag : Int := (w % F.signBit : Nat)
  if w / F.signBit % 2 == 1 then -mag else mag

def FFmt.isNan (F : FFmt) (w : Nat) : Bool := (F.unpack w).isNan

/-- FMIN and FMAX (R131): -0 lies below +0, and a NaN gives way to the other operand. -/
def FFmt.pick (F : FFmt) (small : Bool) (a b : Nat) : Nat :=
  if F.isNan a then (if F.isNan b then F.nan else b)
  else if F.isNan b then a
  else
    let lt := decide (F.key a < F.key b) || (F.key a == F.key b && (F.unpack a).sign)
    if lt == small then a else b

/-- FP32 addition in round to nearest, for folds (R86, R126). -/
def addRN (a b : Word) : Word := BitVec.ofNat 32 (f32.add .rn a.toNat b.toNat)

/-- A NaN made canonical, any other value unchanged. -/
def canon32 (a : Word) : Word := if f32.isNan a.toNat then 0x7FC00000 else a

/-! ### Integers (R114) -/

/-- A float rounded to an integer and saturated; NaN gives 0. -/
def toIntSat (rm : RM) (lo hi : Int) (v : FVal) : Int :=
  match v with
  | .nan => 0
  | .inf neg => if neg then lo else hi
  | .fin neg m e =>
    let n : Int := (roundTo rm neg m e 0 : Nat)
    max lo (min hi (if neg then -n else n))

def ofIntF (F : FFmt) (rm : RM) (x : Int) : Nat := F.round rm (decide (x < 0)) x.natAbs 0

/-! ### Tapered formats (R115 to R119) -/

/-- A tapered format: code bits and exponent bits. -/
structure TFmt where
  n  : Nat
  es : Nat
  deriving DecidableEq, Repr

def t8 : TFmt := ⟨8, 1⟩
def t6 : TFmt := ⟨6, 0⟩

/-- The run of equal bits starting at bit k and going down. -/
def runLen (w : Nat) (r : Bool) : Nat → Nat
  | 0 => if bitAt w 0 == r then 1 else 0
  | k + 1 => if bitAt w (k + 1) == r then runLen w r k + 1 else 0
where
  bitAt (w k : Nat) : Bool := w / 2 ^ k % 2 == 1

/-- The value of a positive code (R115). -/
def TFmt.posVal (T : TFmt) (w : Nat) : Nat × Int :=
  let r := w / 2 ^ (T.n - 2) % 2 == 1
  let m := runLen w r (T.n - 2)
  let k : Int := if r then (m : Int) - 1 else -(m : Int)
  let left := T.n - 1 - m - 1
  let eb := min T.es left
  let F := left - eb
  let e := w % 2 ^ left / 2 ^ F * 2 ^ (T.es - eb)
  let f := w % 2 ^ F
  (2 ^ F + f, k * 2 ^ T.es + e - F)

/-- Decodes a code: NaR reads as NaN. -/
def TFmt.decode (T : TFmt) (code : Nat) : FVal :=
  let w := code % 2 ^ T.n
  if w = 0 then .fin false 0 0
  else if w = 2 ^ (T.n - 1) then .nan
  else if 2 ^ (T.n - 1) < w then
    let v := T.posVal (2 ^ T.n - w)
    .fin true v.1 v.2
  else
    let v := T.posVal w
    .fin false v.1 v.2

/-- Compares m × 2^e with n × 2^f. -/
def dyLe (m : Nat) (e : Int) (n : Nat) (f : Int) : Bool :=
  let q := min e f
  decide (m * 2 ^ (e - q).toNat ≤ n * 2 ^ (f - q).toNat)

/-- The code of a positive magnitude (R118): the nearest by value, ties to an even code, clamped to minpos and maxpos. -/
def TFmt.encodePos (T : TFmt) (m : Nat) (e : Int) : Nat :=
  let top := 2 ^ (T.n - 1) - 1
  let le (c : Nat) : Bool := let v := T.posVal c; dyLe v.1 v.2 m e
  let lo := ((List.range top).filter fun c => le (c + 1)).length
  if lo = 0 then 1
  else if lo = top then top
  else
    let a := T.posVal lo
    let b := T.posVal (lo + 1)
    let q := min e (min a.2 b.2)
    let v := m * 2 ^ (e - q).toNat
    let dl := v - a.1 * 2 ^ (a.2 - q).toNat
    let dh := b.1 * 2 ^ (b.2 - q).toNat - v
    if dl < dh then lo else if dh < dl then lo + 1 else if lo % 2 = 0 then lo else lo + 1

/-- R118: a float and a scale into a code. -/
def TFmt.encode (T : TFmt) (v : FVal) (q : Int) : Nat :=
  match v with
  | .nan => 2 ^ (T.n - 1)
  | .inf _ => 2 ^ (T.n - 1)
  | .fin neg m e =>
    if m = 0 then 0
    else
      let c := T.encodePos m (e - q)
      if neg then 2 ^ T.n - c else c

/-- A value times 2^q. -/
def FVal.scale (q : Int) : FVal → FVal
  | .fin s m e => .fin s m (e + q)
  | v => v

/-! ### Quotients and roots, rounded once -/

/-- The integer square root of n, for n below 4^k. -/
def isqrt (n : Nat) : Nat → Nat
  | 0 => 0
  | k + 1 =>
    let r := isqrt n k
    let b := n.log2 / 2 + 1 - (k + 1)
    if k < n.log2 / 2 + 1 then (if (r + 2 ^ b) * (r + 2 ^ b) ≤ n then r + 2 ^ b else r) else r

/-- a / b for finite operands with b not 0. -/
def FFmt.divFin (F : FFmt) (rm : RM) (neg : Bool) (m : Nat) (e : Int) (n : Nat) (f : Int) : Nat :=
  let k := n.log2 + F.fb + 4
  let x := m * 2 ^ k
  F.round rm neg (x / n) (e - f - k) (x % n != 0)

/-- a / b (R141). -/
def FFmt.div (F : FFmt) (rm : RM) (a b : FVal) : Nat :=
  match a, b with
  | .nan, _ => F.nan
  | _, .nan => F.nan
  | .inf _, .inf _ => F.nan
  | .inf s, .fin t _ _ => F.inf (s != t)
  | .fin s _ _, .inf t => F.zero (s != t)
  | .fin s m e, .fin t n f =>
    if n = 0 then (if m = 0 then F.nan else F.inf (s != t))
    else if m = 0 then F.zero (s != t)
    else F.divFin rm (s != t) m e n f

/-- The square root (R141). -/
def FFmt.sqrt (F : FFmt) (rm : RM) (a : FVal) : Nat :=
  match a with
  | .nan => F.nan
  | .inf neg => if neg then F.nan else F.inf false
  | .fin neg m e =>
    if m = 0 then F.zero neg
    else if neg then F.nan
    else
      let odd : Nat := (e % 2).toNat
      let sh := 2 * (F.fb + 4)
      let x := m * 2 ^ (sh + odd)
      let r := isqrt x (x.log2 / 2 + 1)
      F.round rm false r ((e - odd) / 2 - (F.fb + 4 : Nat)) (r * r != x)

/-- 1 / √a (R141). -/
def FFmt.rsqrt (F : FFmt) (a : FVal) : Nat :=
  match a with
  | .nan => F.nan
  | .inf neg => if neg then F.nan else F.zero false
  | .fin neg m e =>
    if m = 0 then F.inf neg
    else if neg then F.nan
    else
      let odd : Nat := (e % 2).toNat
      let m2 := m * 2 ^ odd
      let k := m2.log2 / 2 + F.fb + 4
      let x := 2 ^ (2 * k) / m2
      let r := isqrt x (x.log2 / 2 + 1)
      F.round .rn false r (-((e - odd) / 2) - k) (r * r * m2 != 2 ^ (2 * k))

end Sys2Proof.Machine
end

