-- ==== Sys2Proof/Machine/Flags.lean ====
section
/-! DEFINITION. Machine/Flags.lean: the truth values that words compute: comparisons (R103, R110), carries (R102) and
saturation, and the predicate writes that they end in. The machine has no flags register: a lane's flag is its bit of
a predicate register. -/

namespace Sys2Proof.Machine

/-- The integer comparisons of R103 at any width. -/
inductive CmpOp where
  | eq | ne | ltI | leI | ltN | leN
  deriving DecidableEq, Repr

def CmpOp.holds {n : Nat} (c : CmpOp) (a b : BitVec n) : Bool :=
  match c with
  | .eq => a == b
  | .ne => a != b
  | .ltI => BitVec.slt a b
  | .leI => BitVec.sle a b
  | .ltN => BitVec.ult a b
  | .leN => BitVec.ule a b

/-- 1 or 0 at 64 bits (R110). -/
def boolWord (b : Bool) : Word64 := if b then 1 else 0

/-- VADDC: 1 if the unsigned sum reaches 2^32. -/
def carryOut (a b : Word) : Word := if 2 ^ 32 ≤ a.toNat + b.toNat then 1 else 0

/-- sat32 of an exact integer. -/
def sat32 (x : Int) : Word :=
  if x < -2 ^ 31 then BitVec.ofInt 32 (-2 ^ 31) else if 2 ^ 31 - 1 < x then BitVec.ofInt 32 (2 ^ 31 - 1) else BitVec.ofInt 32 x

/-- Writes the active bits of a predicate (R103, R111). -/
def Gang.wpIn (G : Gang) (d : PReg) (m : Mask) (x : Mask) : Gang := G.wp d ((x &&& m) ||| (G.rp d &&& ~~~ m))

/-- pD bit i := the truth of a test on lane i, in the active lanes. -/
def vecCmp (o : VCmp) (t : Word → Word → Bool) (s : State) : Res :=
  s.vec o.b.len (some o.a) o.b.reg? none [] [] fun x a b _ G =>
    let bv := o.b.pick b
    G.wpIn o.d (x.G.active x.S o.g) (maskOf fun i => t (laneAt a i) (laneAt bv i))

end Sys2Proof.Machine
end

