-- ==== Sys2Proof/Machine/IntVec.lean ====
section
/-! DEFINITION. Machine/IntVec.lean: the vector integer instructions of range B (R101 to R108). -/

namespace Sys2Proof.Machine

def half16 (x : Word) (h : Nat) : BitVec 16 := x.extractLsb' (16 * h) 16
def join16 (hi lo : BitVec 16) : Word := hi ++ lo
/-- Each 16-bit half apart. -/
def halves (f : BitVec 16 → BitVec 16 → BitVec 16) (a b : Word) : Word :=
  join16 (f (half16 a 1) (half16 b 1)) (f (half16 a 0) (half16 b 0))

def countOnes {n : Nat} (x : BitVec n) : Nat := ((List.range n).filter fun i => x.getLsbD i).length

/-- Leading zeros: n for 0. -/
def leadZeros {n : Nat} (x : BitVec n) : Nat := if x = 0 then n else n - 1 - x.toNat.log2

def bitReverse (x : Word) : Word :=
  BitVec.ofNat 32 ((List.range 32).foldl (fun a k => a + if x.getLsbD k then 2 ^ (31 - k) else 0) 0)

/-- The sum of the four byte products, each byte read by `ext` (R102). -/
def dot4 (ext : BitVec 8 → Int) (a b c : Word) : Word :=
  BitVec.ofInt 32 (c.toNat + ((List.range 4).map fun k => ext (a.extractLsb' (8 * k) 8) * ext (b.extractLsb' (8 * k) 8)).sum)

def mulHiI (n : Nat) (a b : BitVec n) : BitVec n := BitVec.ofInt n (a.toInt * b.toInt / 2 ^ n)
def mulHiN (n : Nat) (a b : BitVec n) : BitVec n := BitVec.ofNat n (a.toNat * b.toNat / 2 ^ n)
def minI {n : Nat} (a b : BitVec n) : BitVec n := if BitVec.slt b a then b else a
def maxI {n : Nat} (a b : BitVec n) : BitVec n := if BitVec.slt a b then b else a
def minN {n : Nat} (a b : BitVec n) : BitVec n := if BitVec.ult b a then b else a
def maxN {n : Nat} (a b : BitVec n) : BitVec n := if BitVec.ult a b then b else a

/-! Lane functions (R102). -/

def fnAddc (a b : Word) : Word := carryOut a b
def fnAdds (a b : Word) : Word := sat32 (a.toInt + b.toInt)
def fnSubs (a b : Word) : Word := sat32 (a.toInt - b.toInt)
def fnAbs (a : Word) : Word := if a.toInt < 0 then 0 - a else a
def fnShl (a b : Word) : Word := a <<< (b.toNat % 32)
def fnShr (a b : Word) : Word := a >>> (b.toNat % 32)
def fnSra (a b : Word) : Word := BitVec.sshiftRight a (b.toNat % 32)
def fnRot (a b : Word) : Word := a.rotateLeft (b.toNat % 32)
def fnPopc (a : Word) : Word := BitVec.ofNat 32 (countOnes a)
def fnClz (a : Word) : Word := BitVec.ofNat 32 (leadZeros a)

def execVadd (o : VBin) (s : State) : Res := vecBin o (fun a b => a + b) s
def execVsub (o : VBin) (s : State) : Res := vecBin o (fun a b => a - b) s
def execVaddc (o : VBin) (s : State) : Res := vecBin o fnAddc s
def execVaddsI32 (o : VBin) (s : State) : Res := vecBin o fnAdds s
def execVsubsI32 (o : VBin) (s : State) : Res := vecBin o fnSubs s
def execVmul (o : VBin) (s : State) : Res := vecBin o (fun a b => a * b) s
def execVmulhI32 (o : VBin) (s : State) : Res := vecBin o (mulHiI 32) s
def execVmulhN32 (o : VBin) (s : State) : Res := vecBin o (mulHiN 32) s

/-- R102: vD takes the low word of the product and v(D+1) the high one; the sources are read first. -/
def execVmulwI32 (o : VBin) (s : State) : Res :=
  s.vec o.b.len (some o.a) o.b.reg? none [o.d.toNat, o.d.toNat + 1] [] fun x a b _ G =>
    let m := x.G.active x.S o.g
    let bv := o.b.pick b
    (G.wv o.d.toNat m (lanes2 (fun a b => a * b) a bv)).wv (o.d.toNat + 1) m (lanes2 (mulHiI 32) a bv)

def execVmad (o : VTri) (s : State) : Res := vecTri o (fun a b c => a * b + c) s
def execVminI32 (o : VBin) (s : State) : Res := vecBin o minI s
def execVminN32 (o : VBin) (s : State) : Res := vecBin o minN s
def execVmaxI32 (o : VBin) (s : State) : Res := vecBin o maxI s
def execVmaxN32 (o : VBin) (s : State) : Res := vecBin o maxN s
def execVabs (o : VUn) (s : State) : Res := vecUn o fnAbs s
def execVneg (o : VUn) (s : State) : Res := vecUn o (fun a => 0 - a) s
def execVand (o : VBin) (s : State) : Res := vecBin o (fun a b => a &&& b) s
def execVor (o : VBin) (s : State) : Res := vecBin o (fun a b => a ||| b) s
def execVxor (o : VBin) (s : State) : Res := vecBin o (fun a b => a ^^^ b) s
def execVnot (o : VUn) (s : State) : Res := vecUn o (fun a => ~~~ a) s
def execVshl (o : VBin) (s : State) : Res := vecBin o fnShl s
def execVshr (o : VBin) (s : State) : Res := vecBin o fnShr s
def execVsra (o : VBin) (s : State) : Res := vecBin o fnSra s
def execVrot (o : VBin) (s : State) : Res := vecBin o fnRot s
def execVpopc (o : VUn) (s : State) : Res := vecUn o fnPopc s
def execVclz (o : VUn) (s : State) : Res := vecUn o fnClz s
def execVbrev (o : VUn) (s : State) : Res := vecUn o bitReverse s
def execVaddI16x2 (o : VBin) (s : State) : Res := vecBin o (halves fun a b => a + b) s
def execVsubI16x2 (o : VBin) (s : State) : Res := vecBin o (halves fun a b => a - b) s
def execVmulI16x2 (o : VBin) (s : State) : Res := vecBin o (halves fun a b => a * b) s
def execVdot4I8 (o : V3) (s : State) : Res := vec3 o (dot4 fun x => x.toInt) s
def execVdot4N8 (o : V3) (s : State) : Res := vec3 o (dot4 fun x => (x.toNat : Int)) s

/-! Comparisons and selection (R103). -/

def execVcmpEq (o : VCmp) (s : State) : Res := vecCmp o CmpOp.eq.holds s
def execVcmpNe (o : VCmp) (s : State) : Res := vecCmp o CmpOp.ne.holds s
def execVcmpLtI32 (o : VCmp) (s : State) : Res := vecCmp o CmpOp.ltI.holds s
def execVcmpLeI32 (o : VCmp) (s : State) : Res := vecCmp o CmpOp.leI.holds s
def execVcmpLtN32 (o : VCmp) (s : State) : Res := vecCmp o CmpOp.ltN.holds s
def execVcmpLeN32 (o : VCmp) (s : State) : Res := vecCmp o CmpOp.leN.holds s

def execVsel (o : VSel) (s : State) : Res :=
  s.vec 8 (some o.a) (some o.b) none [o.d.toNat] [] fun x a b _ G =>
    G.wv o.d.toNat (x.G.active x.S o.g) (lanesMerge (x.G.rp o.c) a b)

/-! Moves (R102). -/

def execVmov (o : VUn) (s : State) : Res := vecUn o (fun a => a) s

def execVmovi (g : Guard) (d : VReg) (i : MovImm) (s : State) : Res :=
  s.vec i.len none none none [d.toNat] [] fun x _ _ _ G => G.wv d.toNat (x.G.active x.S g) (Vector.replicate 96 i.word)

def execVbcast (g : Guard) (d : VReg) (a : SReg) (s : State) : Res :=
  s.vec 8 none none none [d.toNat] [a.toNat] fun x _ _ _ G =>
    G.wv d.toNat (x.G.active x.S g) (Vector.replicate 96 ((x.G.rs x.S a).setWidth 32))

def execVlane (g : Guard) (d : VReg) (s : State) : Res :=
  s.vec 8 none none none [d.toNat] [] fun x _ _ _ G => G.wv d.toNat (x.G.active x.S g) (lanesOf fun i => BitVec.ofNat 32 i)

/-! Shuffles (R104): the source lane of lane i. -/

def shflIdx (_ : Nat) (b : Word) : Nat := b.toNat % 96
def shflXor (i : Nat) (b : Word) : Nat :=
  let j := Nat.xor i (b.toNat % 128)
  if 96 ≤ j then i else j
def shflUp (i : Nat) (b : Word) : Nat := if i < b.toNat then i else i - b.toNat
def shflDn (i : Nat) (b : Word) : Nat := if 95 < i + b.toNat then i else i + b.toNat
def shflRot (i : Nat) (b : Word) : Nat := (i + b.toNat) % 96

/-- vD[i] := vA[j] in the active lanes, every source read first. -/
def shuffle (o : VBin) (src : Nat → Word → Nat) (s : State) : Res :=
  s.vec o.b.len (some o.a) o.b.reg? none [o.d.toNat] [] fun x a b _ G =>
    let bv := o.b.pick b
    G.wv o.d.toNat (x.G.active x.S o.g) (lanesOf fun i => laneAt a (src i (laneAt bv i)))

def execVshflIdx (o : VBin) (s : State) : Res := shuffle o shflIdx s
def execVshflXor (o : VBin) (s : State) : Res := shuffle o shflXor s
def execVshflUp (o : VBin) (s : State) : Res := shuffle o shflUp s
def execVshflDn (o : VBin) (s : State) : Res := shuffle o shflDn s
def execVshflRot (o : VBin) (s : State) : Res := shuffle o shflRot s

/-! Reductions (R105). -/

/-- The values of the active lanes, ascending. -/
def activeVals (m : Mask) (a : Lanes) : List Word := (maskLanes m).map (laneAt a)

def redAdd (l : List Word) : Word64 := (l.foldl (fun x y => x + y) (0 : Word)).setWidth 64
def redMin (l : List Word) : Word64 := (l.foldl minI (0x7FFFFFFF : Word)).signExtend 64
def redMax (l : List Word) : Word64 := (l.foldl maxI (0x80000000 : Word)).signExtend 64
def redAnd (l : List Word) : Word64 := (l.foldl (fun x y => x &&& y) (0xFFFFFFFF : Word)).setWidth 64
def redOr (l : List Word) : Word64 := (l.foldl (fun x y => x ||| y) (0 : Word)).setWidth 64

/-- sD := the reduction of vA over the active lanes. -/
def reduce (g : Guard) (d : SReg) (a : HReg) (f : List Word → Word64) (s : State) : Res :=
  s.vec 8 (some a) none none [] [d.toNat] fun x v _ _ G => G.ws d (f (activeVals (x.G.active x.S g) v))

def execVredAdd (g : Guard) (d : SReg) (a : HReg) (s : State) : Res := reduce g d a redAdd s
def execVredMinI32 (g : Guard) (d : SReg) (a : HReg) (s : State) : Res := reduce g d a redMin s
def execVredMaxI32 (g : Guard) (d : SReg) (a : HReg) (s : State) : Res := reduce g d a redMax s
def execVredAnd (g : Guard) (d : SReg) (a : HReg) (s : State) : Res := reduce g d a redAnd s
def execVredOr (g : Guard) (d : SReg) (a : HReg) (s : State) : Res := reduce g d a redOr s

/-! Single lanes (R106): the masks are ignored. -/

def execVext (d : SReg) (a : HReg) (b : SReg) (s : State) : Res :=
  s.vec 8 (some a) none none [] [d.toNat, b.toNat] fun x v _ _ G =>
    let i := (x.G.rs x.S b).toNat
    G.ws d (if i < 96 then (laneAt v i).setWidth 64 else 0)

def execVins (d : VReg) (a b : SReg) (s : State) : Res :=
  s.vec 8 none none none [d.toNat] [a.toNat, b.toNat] fun x _ _ _ G =>
    let i := (x.G.rs x.S b).toNat
    if i < 96 then G.wv d.toNat (BitVec.ofNat 96 (2 ^ i)) (Vector.replicate 96 ((x.G.rs x.S a).setWidth 32)) else G

/-! The register pool (R107, R108). -/

def execVrel (n : BitVec 10) (s : State) : Res :=
  s.issue [] [] fun x =>
    let nv := x.G.nv
    if nv < n.toNat + 8 then s.trap x.P x.G x.sl x.S (countTrap nv n.toNat)
    else if (List.range n.toNat).any fun k => s.busyV x.P.core x.G (nv - n.toNat + k) then s
    else
      let G := ({ x.G with v := x.G.v.take (nv - n.toNat) }).dropLatches
      State.settled ((s.setPlot { x.P with reserve := x.P.reserve + n.toNat }).done x G 8) x.P.id

/-- A claim is queued and its slot blocks; the queue is served at once (R99). -/
def execVclaim (n : BitVec 10) (s : State) : Res :=
  s.issue [] [] fun x =>
    if x.S.inClaim then s
    else if 192 < x.G.nv + n.toNat then s.trap x.P x.G x.sl x.S (countTrap x.G.nv n.toNat)
    else
      let P := { x.P with claims := x.P.claims ++ [⟨x.G.idx, x.sl, n.toNat⟩] }
      State.settled ((s.setPlot P).setGang (x.G.block x.sl x.S .vclaim)) x.P.id

def execVclaimNb (d : SReg) (n : BitVec 10) (s : State) : Res :=
  s.issue [] [d.toNat] fun x =>
    if 192 < x.G.nv + n.toNat then s.trap x.P x.G x.sl x.S (countTrap x.G.nv n.toNat)
    else if x.P.claims.isEmpty && decide (n.toNat ≤ x.P.reserve) then
      (s.setPlot { x.P with reserve := x.P.reserve - n.toNat }).done x ((x.G.grow n.toNat).ws d 0) 8
    else s.done x (x.G.ws d 1) 8

/-- The pool accounting word (R108). -/
def queryWord (P : Plot) (nv : Nat) : Word64 :=
  BitVec.ofNat 64 (P.claims.length * 2 ^ 48 + P.budget * 2 ^ 32 + P.reserve * 2 ^ 16 + nv)

def execVquery (d : SReg) (s : State) : Res :=
  s.issue [] [d.toNat] fun x => s.done x (x.G.ws d (queryWord x.P x.G.nv)) 8

end Sys2Proof.Machine
end

