-- ==== Sys2Proof/Machine/Scalar.lean ====
section
/-! DEFINITION. Machine/Scalar.lean: the scalar, predicate and special-register instructions of range C (R109 to R111,
R91, R92). -/

namespace Sys2Proof.Machine

def sclDivI (a b : Word64) : Word64 := if b = 0 then BitVec.allOnes 64 else BitVec.ofInt 64 (Int.tdiv a.toInt b.toInt)
def sclRemI (a b : Word64) : Word64 := if b = 0 then a else BitVec.ofInt 64 (Int.tmod a.toInt b.toInt)
def sclDivN (a b : Word64) : Word64 := if b = 0 then BitVec.allOnes 64 else BitVec.ofNat 64 (a.toNat / b.toNat)
def sclRemN (a b : Word64) : Word64 := if b = 0 then a else BitVec.ofNat 64 (a.toNat % b.toNat)

def execSadd (o : SBin) (s : State) : Res := sclBin o (fun a b => a + b) s
def execSsub (o : SBin) (s : State) : Res := sclBin o (fun a b => a - b) s
def execSmul (o : SBin) (s : State) : Res := sclBin o (fun a b => a * b) s
def execSmulhI64 (o : SBin) (s : State) : Res := sclBin o (mulHiI 64) s
def execSmulhN64 (o : SBin) (s : State) : Res := sclBin o (mulHiN 64) s
def execSdivI64 (o : SBin) (s : State) : Res := sclBin o sclDivI s
def execSdivN64 (o : SBin) (s : State) : Res := sclBin o sclDivN s
def execSremI64 (o : SBin) (s : State) : Res := sclBin o sclRemI s
def execSremN64 (o : SBin) (s : State) : Res := sclBin o sclRemN s
def execSand (o : SBin) (s : State) : Res := sclBin o (fun a b => a &&& b) s
def execSor (o : SBin) (s : State) : Res := sclBin o (fun a b => a ||| b) s
def execSxor (o : SBin) (s : State) : Res := sclBin o (fun a b => a ^^^ b) s
def execSnot (d a : SReg) (s : State) : Res := sclUn d a (fun a => ~~~ a) s
def execSshl (o : SBin) (s : State) : Res := sclBin o (fun a b => a <<< (b.toNat % 64)) s
def execSshr (o : SBin) (s : State) : Res := sclBin o (fun a b => a >>> (b.toNat % 64)) s
def execSsra (o : SBin) (s : State) : Res := sclBin o (fun a b => BitVec.sshiftRight a (b.toNat % 64)) s
def execSrot (o : SBin) (s : State) : Res := sclBin o (fun a b => a.rotateLeft (b.toNat % 64)) s

/-- The field of R110: its low bit and its width. -/
def fieldLo (b : Word64) : Nat := b.toNat % 64
def fieldW (b c : Word64) : Nat := min (c.toNat % 128) (64 - fieldLo b)

def sclExtract (a b c : Word64) : Word64 := BitVec.ofNat 64 (a.toNat / 2 ^ fieldLo b % 2 ^ fieldW b c)

def sclInsert (d a b c : Word64) : Word64 :=
  let mask : Word64 := BitVec.ofNat 64 ((2 ^ fieldW b c - 1) * 2 ^ fieldLo b)
  (d &&& ~~~ mask) ||| ((a <<< fieldLo b) &&& mask)

def execSbfe (d a b c : SReg) (s : State) : Res :=
  s.issue [] [d.toNat, a.toNat, b.toNat, c.toNat] fun x =>
    s.done x (x.G.ws d (sclExtract (x.G.rs x.S a) (x.G.rs x.S b) (x.G.rs x.S c))) 8

def execSbfi (d a b c : SReg) (s : State) : Res :=
  s.issue [] [d.toNat, a.toNat, b.toNat, c.toNat] fun x =>
    s.done x (x.G.ws d (sclInsert (x.G.rs x.S d) (x.G.rs x.S a) (x.G.rs x.S b) (x.G.rs x.S c))) 8

def execSminI64 (o : SBin) (s : State) : Res := sclBin o minI s
def execSminN64 (o : SBin) (s : State) : Res := sclBin o minN s
def execSmaxI64 (o : SBin) (s : State) : Res := sclBin o maxI s
def execSmaxN64 (o : SBin) (s : State) : Res := sclBin o maxN s
def execScmpEq (o : SBin) (s : State) : Res := sclBin o (fun a b => boolWord (CmpOp.eq.holds a b)) s
def execScmpNe (o : SBin) (s : State) : Res := sclBin o (fun a b => boolWord (CmpOp.ne.holds a b)) s
def execScmpLtI64 (o : SBin) (s : State) : Res := sclBin o (fun a b => boolWord (CmpOp.ltI.holds a b)) s
def execScmpLeI64 (o : SBin) (s : State) : Res := sclBin o (fun a b => boolWord (CmpOp.leI.holds a b)) s
def execScmpLtN64 (o : SBin) (s : State) : Res := sclBin o (fun a b => boolWord (CmpOp.ltN.holds a b)) s
def execScmpLeN64 (o : SBin) (s : State) : Res := sclBin o (fun a b => boolWord (CmpOp.leN.holds a b)) s

def execSsel (d a b c : SReg) (s : State) : Res :=
  s.issue [] [d.toNat, a.toNat, b.toNat, c.toNat] fun x =>
    s.done x (x.G.ws d (if x.G.rs x.S c = 0 then x.G.rs x.S b else x.G.rs x.S a)) 8

def execSmov (d a : SReg) (s : State) : Res := sclUn d a (fun a => a) s

def execSmovi (d : SReg) (i : SMovImm) (s : State) : Res :=
  s.issue [] [d.toNat] fun x => s.done x (x.G.ws d i.word) i.len

def execSlea (o : SBin) (sh : BitVec 2) (s : State) : Res := sclBin o (fun a b => a + b * BitVec.ofNat 64 (2 ^ sh.toNat)) s

def execSpopc (d a : SReg) (s : State) : Res := sclUn d a (fun a => BitVec.ofNat 64 (countOnes a)) s
def execSclz (d a : SReg) (s : State) : Res := sclUn d a (fun a => BitVec.ofNat 64 (leadZeros a)) s

/-! Predicates (R111). -/

def predBin (g : Guard) (d a b : PReg) (f : Mask → Mask → Mask) (s : State) : Res :=
  s.issue [] [] fun x => s.done x (x.G.wpIn d (x.G.active x.S g) (f (x.G.rp a) (x.G.rp b))) 8

def execPand (g : Guard) (d a b : PReg) (s : State) : Res := predBin g d a b (fun x y => x &&& y) s
def execPor (g : Guard) (d a b : PReg) (s : State) : Res := predBin g d a b (fun x y => x ||| y) s
def execPxor (g : Guard) (d a b : PReg) (s : State) : Res := predBin g d a b (fun x y => x ^^^ y) s
def execPnot (g : Guard) (d a : PReg) (s : State) : Res := predBin g d a a (fun x _ => ~~~ x) s

def execPmovSp (d : SReg) (a : PReg) (e : BitVec 2) (s : State) : Res :=
  s.issue [] [d.toNat] fun x => s.done x (x.G.ws d (beatMask (x.G.rp a) e.toNat)) 8

/-- A mask with one beat replaced. -/
def putBeat (m : Mask) (e : Nat) (w : Word) : Mask :=
  (m &&& ~~~ ((0xFFFFFFFF : Mask) <<< (32 * e))) ||| (w.setWidth 96 <<< (32 * e))

def execPmovPs (d : PReg) (a : SReg) (e : BitVec 2) (s : State) : Res :=
  s.issue [] [a.toNat] fun x => s.done x (x.G.wp d (putBeat (x.G.rp d) e.toNat ((x.G.rs x.S a).setWidth 32))) 8

def execPpopc (d : SReg) (a : PReg) (s : State) : Res :=
  s.issue [] [d.toNat] fun x => s.done x (x.G.ws d (BitVec.ofNat 64 (countOnes (x.G.rp a)))) 8

/-! Special registers (R91, R92). -/

/-- The core within its cluster, the cluster within its die, and the die, of a core's number on the part. -/
def coreOf (c : Nat) : Nat := c % 12
def clusterOf (c : Nat) : Nat := c / 12 % 8
def dieOf (c : Nat) : Nat := c / 96

/-- The value that a selector reads (R91). CYC is one count for every cluster: R4 and R92 allow the counts of two clusters to differ by
one at a device time, and here they never do (DESIGN CHOICE, log entries 1 and 4). -/
def readSel (s : State) (P : Plot) (G : Gang) (sel : BitVec 10) : Word64 :=
  match sel.toNat with
  | 0x000 => s.time
  | 0x001 => BitVec.ofNat 64 s.ticks
  | 0x002 => BitVec.ofNat 64 G.idx
  | 0x003 => BitVec.ofNat 64 P.tmpl.gangs
  | 0x004 => BitVec.ofNat 64 P.lid
  | 0x005 => BitVec.ofNat 64 (coreOf P.core)
  | 0x006 => BitVec.ofNat 64 (clusterOf P.core)
  | 0x007 => BitVec.ofNat 64 (dieOf P.core)
  | 0x008 => BitVec.ofNat 64 s.partno
  | 0x009 => BitVec.ofNat 64 P.ctx
  | 0x00A => BitVec.ofNat 64 P.tmpl.prio
  | 0x010 => G.tentry
  | 0x011 => G.tcause
  | 0x012 => G.tpca
  | 0x013 => G.tpcb
  | 0x014 => G.tinfo
  | 0x015 => G.taddr
  | 0x016 => G.tlane0
  | 0x017 => G.tlane1
  | 0x020 => G.chentry
  | 0x021 =>
    match P.target with
    | some t => if P.handler = G.idx then BitVec.ofNat 64 t else BitVec.allOnes 64
    | none => BitVec.allOnes 64
  | 0x022 => G.chpca
  | 0x023 => G.chpcb
  | 0x030 => BitVec.ofNat 64 G.cp.count
  | 0x031 => BitVec.ofNat 64 G.gs.count
  | 0x032 => BitVec.ofNat 64 G.cl.count
  | _ => BitVec.ofNat 64 G.ev.count

def execMovsr (d : SReg) (sel : BitVec 10) (s : State) : Res :=
  s.issue [] [d.toNat] fun x => s.done x (x.G.ws d (readSel s x.P x.G sel)) 8

/-- BRANCH_ALIGN (R45, R345). -/
def alignTrap (target : Word64) : TrapInfo := { code := 0x02, addr := target }

/-- A target or an entry whose bits [5:0] are zero (R45). -/
def aligned64 (a : Word64) : Bool := a.toNat % 64 == 0

def execMovrs (a : SReg) (sel : BitVec 10) (s : State) : Res :=
  s.issue [] [a.toNat] fun x =>
    let v := x.G.rs x.S a
    if !aligned64 v then s.trap x.P x.G x.sl x.S (alignTrap v)
    else s.done x (if sel = 0x10 then { x.G with tentry := v } else { x.G with chentry := v }) 8

end Sys2Proof.Machine
end

