-- ==== Sys2Proof/Machine/Control.lean ====
section
/-! DEFINITION. Machine/Control.lean: range A (R65 to R87, R349 to R351) but for WAITC, and the machine steps of the
control part: JOIN's rules, the arrival of BAR.PH, the ends of sleeps, spin demotion (R342), swap eligibility (R337),
claims (R99), draining, the armed decrement and retirement (R69 to R72). -/

namespace Sys2Proof.Machine

/-! ### Branches (R65, R77, R78) -/

/-- The slot moves to a target, and its spin state follows R342. -/
def PcSlot.jump (S : PcSlot) (tgt : Word64) : PcSlot :=
  let near := decide (tgt.toNat ≤ S.pc.toNat) && decide (S.pc.toNat ≤ tgt.toNat + 256)
  let again := near && S.spinTgt == some tgt
  { S with pc := tgt, spin := if again then S.spin + 1 else 0, spinTgt := some tgt, demoted := if again then S.demoted else none }

/-- The slot does not take its branch (R342). -/
def PcSlot.fall (S : PcSlot) : PcSlot := { S.skip 8 with spin := 0 }

/-- PC + sext(K, 26) × 4. -/
def relTarget (pc : Word64) (k : BitVec 26) : Word64 := pc + k.signExtend 64 * 4

/-- PCREL fits 32 signed bits (R65). -/
def relFits (r : Int) : Bool := decide (-2 ^ 31 ≤ r) && decide (r ≤ 2 ^ 31 - 1)

/-- The branch family with its taken lanes (R65). -/
def branch (k : BitVec 26) (ss : List Nat) (taken : Issuer → Mask) (s : State) : Res :=
  s.issue [] ss fun x =>
    let tgt := relTarget x.S.pc k
    let T := taken x
    let N := x.S.mask &&& ~~~ T
    if !aligned64 tgt then s.trap x.P x.G x.sl x.S (alignTrap tgt)
    else if T = 0 then s.setGang (x.G.setSlot x.sl (some x.S.fall))
    else if N = 0 then s.setGang (x.G.setSlot x.sl (some (x.S.jump tgt)))
    else if (x.G.slot (otherSlot x.sl)).isNone then
      s.setGang ((x.G.setSlot (otherSlot x.sl) (some (PcSlot.fresh tgt T))).setSlot x.sl (some { x.S.fall with mask := N }))
    else if 64 ≤ x.G.depth then s.trap x.P x.G x.sl x.S { code := 0x0D }
    else if !relFits (pcRel x.P tgt) then s.trap x.P x.G x.sl x.S { code := 0x0D, info := 1 }
    else
      (s.setPlot (writeEntry x.P x.G.idx x.G.depth tgt T)).setGang
        ({ x.G with depth := x.G.depth + 1 }.setSlot x.sl (some { x.S.fall with mask := N }))

/-- All the lanes of the slot, or none. -/
def wholeIf (x : Issuer) (b : Bool) : Mask := if b then x.S.mask else 0

def execNop (len : Len) (_ : Guard) (s : State) : Res := s.issue [] [] fun x => s.done x x.G len.bytes
def execBra (k : BitVec 26) (s : State) : Res := branch k [] (fun x => x.S.mask) s
def execBrc (g : Guard) (k : BitVec 26) (s : State) : Res := branch k [] (fun x => x.G.active x.S g) s
def execBrcAny (g : Guard) (k : BitVec 26) (s : State) : Res :=
  branch k [] (fun x => wholeIf x (x.G.active x.S g != 0)) s
def execBrcAll (g : Guard) (k : BitVec 26) (s : State) : Res :=
  branch k [] (fun x => wholeIf x (x.G.active x.S g == x.S.mask)) s
def execBrsZ (a : SReg) (k : BitVec 26) (s : State) : Res :=
  branch k [a.toNat] (fun x => wholeIf x (x.G.rs x.S a == 0)) s
def execBrsNz (a : SReg) (k : BitVec 26) (s : State) : Res :=
  branch k [a.toNat] (fun x => wholeIf x (x.G.rs x.S a != 0)) s

/-- The moves of the whole slot (R78): the link is written after the target is read. -/
def moveSlot (link : Option SReg) (ss : List Nat) (ok : Word64 → Bool) (target : Issuer → Word64) (s : State) : Res :=
  s.issue [] ss fun x =>
    let tgt := target x
    if !ok tgt then s.trap x.P x.G x.sl x.S (alignTrap tgt)
    else
      let G := match link with
        | some d => x.G.ws d (x.S.pc + 8)
        | none => x.G
      s.setGang (G.setSlot x.sl ((G.slot x.sl).map fun S => S.jump tgt))

def execBrx (a : SReg) (s : State) : Res := moveSlot none [a.toNat] aligned64 (fun x => x.G.rs x.S a) s
def execCall (d : SReg) (k : BitVec 26) (s : State) : Res :=
  moveSlot (some d) [d.toNat] aligned64 (fun x => relTarget x.S.pc k) s
def execCallx (d a : SReg) (s : State) : Res :=
  moveSlot (some d) [d.toNat, a.toNat] aligned64 (fun x => x.G.rs x.S a) s
def execRet (a : SReg) (s : State) : Res :=
  moveSlot none [a.toNat] (fun t => t.toNat % 4 == 0) (fun x => x.G.rs x.S a) s

/-! ### JOIN (R66, R79) -/

def execJoin (s : State) : Res :=
  s.issue [] [] fun x =>
    if (x.G.slot (otherSlot x.sl)).isNone then s.done x x.G 8
    else s.setGang (x.G.block x.sl x.S (.join x.G.seq))

/-- The issue number of the JOIN that a slot waits at. -/
def PcSlot.joinSince (S : PcSlot) : Option Nat :=
  match S.wait with
  | .join n => some n
  | _ => none

/-- The slot's JOIN address and mask go into the top entry, and the slot takes that entry (rule 3). A JOIN address whose PCREL does
not fit 32 signed bits is written truncated: R65 checks its own push only (DESIGN CHOICE, log entry 102). -/
def swapTop (P : Plot) (G : Gang) (sl : SlotId) (S : PcSlot) : Plot × Gang :=
  let e := readEntry P G.idx (G.depth - 1)
  let P1 := writeEntry P G.idx (G.depth - 1) S.pc S.mask
  (P1, G.keep P1 sl (PcSlot.fresh e.1 (e.2 &&& G.alive)))

/-- Rules 1, 3 and 4 of R66 for two slots that wait at JOINs. -/
def joinBoth (P : Plot) (G : Gang) (A B : PcSlot) (na nb : Nat) : Plot × Gang :=
  if A.pc = B.pc then
    let u := A.mask ||| B.mask
    if na ≤ nb then (P, (G.setSlot .B (some { (B.skip 8).calm with mask := u })).free P .A 65)
    else (P, (G.setSlot .A (some { (A.skip 8).calm with mask := u })).free P .B 65)
  else if G.base < G.depth then
    if na ≤ nb then swapTop P G .A A else swapTop P G .B B
  else if na ≤ nb then (P, G.setSlot .A (some (A.skip 8)))
  else (P, G.setSlot .B (some (B.skip 8)))

/-- The first rule of R66 that holds for a gang's waiting slots. -/
def joinStep (P : Plot) (G : Gang) : Plot × Gang :=
  match G.a, G.b with
  | some A, some B =>
    match A.joinSince, B.joinSince with
    | some na, some nb => joinBoth P G A B na nb
    | _, _ => (P, G)
  | some A, none => if A.joinSince.isSome then (P, G.setSlot .A (some (A.skip 8))) else (P, G)
  | none, some B => if B.joinSince.isSome then (P, G.setSlot .B (some (B.skip 8))) else (P, G)
  | none, none => (P, G)

/-- A machine step that acts on a gang: nothing happens where the gang does not exist or its plot is not on a core. -/
def State.onGang (s : State) (p g : Nat) (f : Plot → Gang → State) : Res :=
  match s.plot? p, s.gang? p g with
  | some P, some G => if P.place = .resident then .next (f P G) else .next s
  | _, _ => .next s

def execJoinResolve (p g : Nat) (s : State) : Res :=
  s.onGang p g fun P G => ((s.setPlot (joinStep P G).1).setGang (joinStep P G).2).settled p

/-! ### Circles and barriers (R83 to R86) -/

/-- One step of the fold of R86. -/
def foldAdd (acc x : Word64) : Word64 :=
  (addRN (acc.setWidth 32) (x.setWidth 32)).setWidth 64

/-- The fold of R86: +0.0 over nobody; one contributor's value as it is, a NaN canonical. -/
def foldFadd : List Word64 → Word64
  | [] => 0
  | x :: xs => xs.foldl foldAdd ((canon32 (x.setWidth 32)).setWidth 64)

/-- The result of a barrier opcode (R85), over the payloads of all members and of those with a lower gang index. -/
def barResult (op : Nat) (all below : List Word64) : Word64 :=
  match op with
  | 0x17 => all.foldl (fun x y => x + y) 0
  | 0x18 => (all.tail).foldl minI (all.headD 0)
  | 0x19 => (all.tail).foldl maxI (all.headD 0)
  | 0x1A => all.foldl (fun x y => x &&& y) (BitVec.allOnes 64)
  | 0x1B => all.foldl (fun x y => x ||| y) 0
  | 0x1C => foldFadd all
  | 0x1D => below.foldl (fun x y => x + y) 0
  | _ => foldFadd below

/-- The arrivals of a generation in ascending gang index. -/
def sortedGen (gen : List Arrival) : List Arrival :=
  (List.range 16).filterMap fun g => gen.find? fun a => a.gang == g

/-- The slot that waits at circle c's barrier goes on. -/
def Gang.passBar (G : Gang) (c : Nat) : Gang :=
  let go (o : Option PcSlot) : Option PcSlot := o.map fun S => if S.wait = .bar c then S.skip 8 else S
  { G with a := go G.a, b := go G.b }

def Gang.waitsBar (G : Gang) (c : Nat) : Bool := G.a.any (fun S => S.wait == .bar c) || G.b.any fun S => S.wait == .bar c

/-- What completion does to one arriving gang: its result is written, and it goes on; an open arrival is closed by its
waiting BARWAIT, or marked complete for a BARWAIT to come (R84). -/
def Gang.complete (G : Gang) (c : Nat) (a : Arrival) (gen : List Arrival) : Gang :=
  let all := gen.map (·.payload)
  let below := (gen.filter fun b => decide (b.gang < a.gang)).map (·.payload)
  let G1 := match a.dest with
    | some d => G.ws d (barResult a.op all below)
    | none => G
  if a.blocks then G1.passBar c
  else if G1.waitsBar c then { G1.passBar c with open_ := G1.open_.filter fun o => o.1 != c }
  else { G1 with open_ := G1.open_.map fun o => if o.1 = c then (c, true) else o }

/-- A circle's generation completes when no member is missing (R83). -/
def State.finishCircle (s : State) (p c : Nat) : State :=
  match s.plot? p with
  | none => s
  | some P =>
    match P.circle? c with
    | none => s
    | some x =>
      if x.gen.isEmpty || !x.missing.isEmpty then s
      else
        let gen := sortedGen x.gen
        let s1 := s.setPlot { P with circles := P.circles.map fun y => if y.id = c then { y with gen := [] } else y }
        gen.foldl (fun s a =>
          match s.gang? p a.gang with
          | some G => s.setGang (G.complete c a gen)
          | none => s) s1

/-- BARRIER_MISUSE with its case (R83). -/
def misuse (n : Nat) : TrapInfo := { code := 0x16, info := BitVec.ofNat 64 n }

/-- Checks 1 and 2 of R83. -/
def barCheckA (P : Plot) (G : Gang) (sl : SlotId) (c : Nat) : Option Nat :=
  match P.circle? c with
  | none => some 1
  | some x =>
    if !x.members.getLsbD G.idx then some 1
    else if (G.slot (otherSlot sl)).isSome || decide (G.base < G.depth) then some 2
    else none

def Gang.openOn (G : Gang) (c : Nat) : Bool := G.open_.any fun o => o.1 == c

/-- Check 4 of R83: the first arrival of the circle's current generation has the opcode. -/
def barFirst (P : Plot) (c op : Nat) : Option Nat :=
  match P.circle? c with
  | none => none
  | some x => match x.gen with
    | [] => none
    | a :: _ => if a.op = op then none else some 4

/-- Checks 3 and 4 of R83 for an arriving opcode. -/
def barCheckB (P : Plot) (G : Gang) (c op : Nat) : Option Nat :=
  if G.openOn c then some 3 else barFirst P c op

/-- The gang arrives, and the generation completes if nobody is missing. -/
def State.arrive (s : State) (P : Plot) (G : Gang) (c : Nat) (a : Arrival) : State :=
  let P1 := { P with circles := P.circles.map fun y => if y.id = c then { y with gen := y.gen ++ [a] } else y }
  (((s.setPlot P1).setGang G).finishCircle P.id c).settled P.id

/-- BAR, BARRED and BARSCAN: the checks and the arrival at issue; the gang waits for the generation. -/
def barIssue (op : Nat) (c : BitVec 6) (pay : Option (SReg × SReg)) (s : State) : Res :=
  let uses := match pay with
    | some (d, a) => [d.toNat, a.toNat]
    | none => []
  s.issue [] uses fun x =>
    match barCheckA x.P x.G x.sl c.toNat <|> barCheckB x.P x.G c.toNat op with
    | some n => s.trap x.P x.G x.sl x.S (misuse n)
    | none =>
      let v := match pay with
        | some (_, a) => x.G.rs x.S a
        | none => 0
      s.arrive x.P (x.G.block x.sl x.S (.bar c.toNat)) c.toNat ⟨x.G.idx, op, v, pay.map (·.1), true⟩

def execBar (c : BitVec 6) (s : State) : Res := barIssue 0x13 c none s
def execBarredAdd (d a : SReg) (c : BitVec 6) (s : State) : Res := barIssue 0x17 c (some (d, a)) s
def execBarredMin (d a : SReg) (c : BitVec 6) (s : State) : Res := barIssue 0x18 c (some (d, a)) s
def execBarredMax (d a : SReg) (c : BitVec 6) (s : State) : Res := barIssue 0x19 c (some (d, a)) s
def execBarredAnd (d a : SReg) (c : BitVec 6) (s : State) : Res := barIssue 0x1A c (some (d, a)) s
def execBarredOr (d a : SReg) (c : BitVec 6) (s : State) : Res := barIssue 0x1B c (some (d, a)) s
def execBarredFadd (d a : SReg) (c : BitVec 6) (s : State) : Res := barIssue 0x1C c (some (d, a)) s
def execBarscanAdd (d a : SReg) (c : BitVec 6) (s : State) : Res := barIssue 0x1D c (some (d, a)) s
def execBarscanFadd (d a : SReg) (c : BitVec 6) (s : State) : Res := barIssue 0x1E c (some (d, a)) s

/-- BAR.PH: checks 1 and 2, then its boundary; it arrives when the boundary is acknowledged (R83, R84). -/
def execBarPh (c : BitVec 6) (s : State) : Res :=
  s.issue [] [] fun x =>
    match barCheckA x.P x.G x.sl c.toNat with
    | some n => s.trap x.P x.G x.sl x.S (misuse n)
    | none => s.setGang ((x.G.beginBoundary .barPh).block x.sl x.S (.barPh c.toNat))

/-- BARARR arrives and goes on with an open arrival (R84). -/
def execBararr (c : BitVec 6) (s : State) : Res :=
  s.issue [] [] fun x =>
    match barCheckA x.P x.G x.sl c.toNat <|> barCheckB x.P x.G c.toNat 0x15 with
    | some n => s.trap x.P x.G x.sl x.S (misuse n)
    | none =>
      s.arrive x.P ({ x.G with open_ := x.G.open_ ++ [(c.toNat, false)] }.skip x.sl 8) c.toNat
        ⟨x.G.idx, 0x15, 0, none, false⟩

/-- BARWAIT: a completed arrival is closed and the gang goes on, an open one is waited for (R84). It counts as the BARARR that it
completes, and check 4 is made while that arrival's generation is the circle's current one (R83, log 42). -/
def execBarwait (c : BitVec 6) (s : State) : Res :=
  s.issue [] [] fun x =>
    match barCheckA x.P x.G x.sl c.toNat with
    | some n => s.trap x.P x.G x.sl x.S (misuse n)
    | none =>
      match x.G.open_.find? fun o => o.1 == c.toNat with
      | none => s.trap x.P x.G x.sl x.S (misuse 3)
      | some (_, true) => s.done x { x.G with open_ := x.G.open_.filter fun o => o.1 != c.toNat } 8
      | some (_, false) =>
        match barFirst x.P c.toNat 0x15 with
        | some n => s.trap x.P x.G x.sl x.S (misuse n)
        | none => (s.setGang (x.G.block x.sl x.S (.bar c.toNat))).settled x.P.id

/-- The slot of a gang that waits in BAR.PH. -/
def Gang.inBarPh (G : Gang) : Option (SlotId × PcSlot × Nat) :=
  let f (sl : SlotId) (o : Option PcSlot) : Option (SlotId × PcSlot × Nat) :=
    match o with
    | some S => match S.wait with
      | .barPh c => some (sl, S, c)
      | _ => none
    | none => none
  f .A G.a <|> f .B G.b

/-- BAR.PH arrives once its boundary is acknowledged: checks 3 and 4 (R83). -/
def execBarPhArrival (p g : Nat) (s : State) : Res :=
  s.onGang p g fun P G =>
    match G.inBarPh with
    | none => s
    | some (sl, S, c) =>
      if G.pend.isSome then s
      else match barCheckB P G c 0x14 with
        | some n => s.trap P G sl S (misuse n)
        | none => s.arrive P (G.block sl S (.bar c)) c ⟨g, 0x14, 0, none, true⟩

/-! ### Exits (R68, R80) -/

/-- The gang leaves its circles (R69), and generations that lacked it may complete. -/
def State.leaveCircles (s : State) (p g : Nat) : State :=
  match s.plot? p with
  | none => s
  | some P =>
    let mine := (P.circles.filter fun c => c.members.getLsbD g).map (·.id)
    let P1 := { P with circles := P.circles.map fun c => { c with members := c.members &&& ~~~ ((1 : BitVec 16) <<< g) } }
    mine.foldl (fun s c => s.finishCircle p c) (s.setPlot P1)

/-- The gang's last exit: it drains from here on (R69), and its designation as chime target ends (R301). -/
def State.lastExit (s : State) (P : Plot) (G : Gang) : State :=
  let s1 := s.setGang ({ G with frames := [], life := .draining }.beginBoundary .exit)
  let s2 := if P.target.isSome ∧ P.handler = G.idx then s1.endTarget P.id else s1
  (s2.leaveCircles P.id G.idx).settled P.id

/-- No slot is live and the depth is 0, or no lane is left (R68, R311). -/
def Gang.ended (G : Gang) : Bool := G.a.isNone && G.b.isNone && (G.depth == 0 || G.alive == 0)

/-- The active lanes of the slot end (R68). -/
def State.exitLanes (s : State) (x : Issuer) (G : Gang) (g : Guard) : State :=
  let act := x.G.active x.S g
  let G1 := { G with exited := G.exited ||| act }
  let G2 := G1.keep x.P x.sl { x.S.skip 8 with mask := x.S.mask &&& ~~~ act }
  if act ≠ 0 ∧ G2.ended then s.lastExit x.P G2 else (s.setGang G2).settled x.P.id

def execExit (g : Guard) (s : State) : Res := s.issue [] [] fun x => s.exitLanes x x.G g

def execExitD (g : Guard) (a : SReg) (e : BitVec 10) (s : State) : Res :=
  s.issue [] [a.toNat] fun x =>
    let addr : Int := (x.G.rs x.S a).toNat + e.toInt * 8
    match s.gmCheck1 addr 8 (.atomic true) with
    | some t => s.trap x.P x.G x.sl x.S t
    | none =>
      s.exitLanes x (if x.G.active x.S g = 0 then x.G
        else { x.G with armed := some (BitVec.ofInt 64 addr), decPc := x.S.pc, decSlot := x.sl }) g

/-- PRIVILEGE with the opcode (R43, R345). -/
def privilegeTrap (op : Nat) : TrapInfo := { code := 0x15, info := BitVec.ofNat 64 op }

def execExitH (g : Guard) (a : SReg) (s : State) : Res :=
  s.issue [] [a.toNat] fun x =>
    let e := x.G.rs x.S a
    if !x.P.tmpl.handoff then s.trap x.P x.G x.sl x.S (privilegeTrap 0x00E)
    else if !aligned64 e then s.trap x.P x.G x.sl x.S (alignTrap e)
    else s.exitLanes x (if x.G.active x.S g = 0 then x.G else { x.G with handoff := some e }) g

/-! ### Launch of a gang, handoff and retirement (R59, R69 to R72) -/

def ClassState.fresh : ClassState := ⟨0, 0, 0, 0, [], 0⟩

/-- A gang as R59 begins it. -/
def Gang.launch (P : Plot) (g now : Nat) : Gang where
  plot := P.id
  idx := g
  a := some (PcSlot.fresh P.entry (BitVec.allOnes 96))
  b := none
  depth := 0
  base := 0
  exited := 0
  frames := []
  s := (((((Vector.replicate 64 (0 : Word64)).set 1 (BitVec.ofNat 64 g)).set 2 (BitVec.ofNat 64 P.tmpl.gangs)).set 3
    (BitVec.ofNat 64 P.tmpl.l1s)).set 4 (BitVec.ofNat 64 P.lid)).set 5 P.ats
  shadow := Vector.replicate 5 0
  swapped := false
  p := Vector.replicate 8 0
  v := List.replicate P.tmpl.vregs lanesZero
  latchA := none
  latchB := none
  latchC := none
  tentry := 0
  tcause := 0
  tpca := 0
  tpcb := 0
  tinfo := 0
  taddr := 0
  tlane0 := 0
  tlane1 := 0
  chentry := 0
  chpca := 0
  chpcb := 0
  cp := .fresh
  gs := .fresh
  cl := .fresh
  ev := .fresh
  engCp := []
  engGs := []
  engCl := []
  engEv := []
  postq := 0
  sbuf := []
  pend := none
  seq := 0
  loads := []
  atoms := []
  oplog := []
  defer := []
  chimes := []
  sw := Vector.replicate 16 0
  open_ := []
  life := .running
  armed := none
  decFid := none
  decPc := 0
  decSlot := .A
  handoff := none
  lastIssue := none
  since := now

/-- The circles of a plot as its launch makes them (R60). -/
def Template.circlesOf (t : Template) : List Circle :=
  ⟨0, BitVec.ofNat 16 (2 ^ t.gangs - 1), []⟩ :: t.circles.map fun c => ⟨c.1, c.2 &&& BitVec.ofNat 16 (2 ^ t.gangs - 1), []⟩

/-- A stream that has not started (R227). -/
def SeqStream.idle : SeqStream :=
  ⟨.idle, 0, 0, Vector.replicate 4 0, Vector.replicate 16 0, Vector.replicate 16 0, 0, 0, 0, false, none, none, none, none, false, none⟩

/-- The plot restarts at the successor entry (R72), with the stream in IDLE (R247). -/
def State.handoff (s : State) (P : Plot) (e : Word64) : State :=
  let s1 := s.endTarget P.id
  let P1 := { P with entry := e, target := none, claims := [], circles := P.tmpl.circlesOf,
                     reserve := P.budget - P.tmpl.gangs * P.tmpl.vregs, stream := .idle }
  (List.range P.tmpl.gangs).foldl (fun s g => s.setGang (Gang.launch P1 g s.ticks)) (s1.setPlot P1)

/-- A pavilion or conservatory allocation that no plot holds any longer is free. -/
def State.dropPads (s : State) : State :=
  { s with pads := s.pads.filter fun q =>
      s.plots.any fun x => x.2.pav.any (fun g => g.pad == q.1) || x.2.cons.any fun g => g.pad == q.1 }

/-- A stream fault that no gang has waited on is written at retirement (R230). -/
def State.reportFault (s : State) (p : Nat) : State :=
  match s.plot? p with
  | some P =>
    if P.stream.state = .fault ∧ !P.stream.seen then
      s.errRecord P.ctx 0x0008 P.lid
        (wordBytes [P.stream.cause.toNat, P.stream.reason.toNat, (P.stream.pc - P.stream.start).toNat % 2 ^ 32, P.lid])
    else s
  | none => s

/-- The plot leaves the part: its gangs, its storage, its stream and its target (R71). -/
def State.retire (s : State) (p : Nat) : State :=
  let s1 := (s.reportFault p).endTarget p
  { s1 with plots := s1.plots.del p, gangs := s1.gangs.filter fun q => q.2.plot != p }.dropPads

/-- After a gang has returned its registers: handoff or retirement when every gang has (R71, R72). -/
def State.afterReturn (s : State) (p : Nat) : State :=
  match s.plot? p with
  | none => s
  | some P =>
    let gs := s.gangsOf p
    if gs.all fun G => G.life == .returned then
      match (gs.filterMap (·.handoff)).head? with
      | some e => s.handoff P e
      | none => s.retire p
    else s.settled p

/-- The gang's window goes back: to the core's pool, or to the reserve with the handoff right (R97). -/
def State.returnRegs (s : State) (P : Plot) (G : Gang) : State :=
  let P1 := if P.tmpl.handoff then { P with reserve := P.reserve + G.nv } else { P with budget := P.budget - G.nv }
  ((s.setPlot P1).setGang { G.dropLatches with v := [], life := .returned }).afterReturn P.id

/-- Everything of the gang's own that R69 waits for. -/
def Gang.drained (G : Gang) : Bool :=
  G.engCp.isEmpty && G.engGs.isEmpty && G.engCl.isEmpty && G.engEv.isEmpty && G.loads.isEmpty && G.atoms.isEmpty &&
    G.sbuf.isEmpty && G.pend.isNone && G.chimes.isEmpty

/-- The drain of a gang ends (R69, R144): with no armed decrement, its registers return. -/
def execGangDrainComplete (p g : Nat) (s : State) : Res :=
  s.onGang p g fun P G =>
    if G.life = .draining ∧ G.drained ∧ !((s.core P.core).sfq.any fun e => e.gang == gangKey p g) then
      (if G.armed.isNone then s.returnRegs P { G with defer := [] } else s.setGang { G with life := .drained, defer := [] })
    else s

/-! ### The other control words and steps -/

/-- SLEEP (R81): 0 cycles cost the issue only. -/
def execSleep (k : BitVec 26) (s : State) : Res :=
  s.issue [] [] fun x =>
    if k = 0 then s.done x x.G 8 else (s.setGang (x.G.block x.sl x.S (.sleep (s.ticks + k.toNat)))).settled x.P.id

/-- The slot of a gang, for a machine step. -/
def State.onSlot (s : State) (p g : Nat) (sl : SlotId) (f : Plot → Gang → PcSlot → State) : Res :=
  s.onGang p g fun P G =>
    match G.slot sl with
    | some S => f P G S
    | none => s

def execSleepExpire (p g : Nat) (sl : SlotId) (s : State) : Res :=
  s.onSlot p g sl fun _ G S =>
    match S.wait with
    | .sleep t => if t ≤ s.ticks then s.setGang (G.skip sl 8) else s
    | _ => s

/-- YIELD (R87): the gang's age counts from after every gang that has issued by now. -/
def execYield (s : State) : Res :=
  s.issue [] [] fun x => s.done x { x.G with lastIssue := some (s.ticks + 1) } 8

/-- TRAP (R350). -/
def execTrap (k : BitVec 26) (s : State) : Res :=
  s.issue [] [] fun x => s.trap x.P x.G x.sl x.S { code := 0x14, info := k.setWidth 64 }

/-- ILLEGAL_INSTRUCTION with a reason; TADDR is the PC (R345). -/
def illegalTrap (reason : Nat) (pc : Word64) : TrapInfo := { code := 0x01, info := BitVec.ofNat 64 reason, addr := pc }

/-- TRET (R351). -/
def execTret (s : State) : Res :=
  s.issue [] [] fun x =>
    match x.G.frames with
    | f :: rest =>
      if f.kind = .trap then (s.setGang (x.G.leave x.P f rest x.G.tpca x.G.tpcb)).settled x.P.id
      else s.trap x.P x.G x.sl x.S (illegalTrap 0x01 x.S.pc)
    | [] => s.trap x.P x.G x.sl x.S (illegalTrap 0x01 x.S.pc)

/-- The head claim of a plot's queue is granted when the reserve covers it (R99). -/
def execClaimGrant (p : Nat) (s : State) : Res := .next (s.settled p)

/-- A slot whose spin count has reached 32 is demoted (R342). -/
def execSpinDemote (p g : Nat) (sl : SlotId) (s : State) : Res :=
  s.onSlot p g sl fun _ G S =>
    if 32 ≤ S.spin ∧ S.demoted.isNone then s.setGang (G.setSlot sl (some { S with demoted := some s.ticks })) else s

/-- A demotion ends 4,096 cycles after it began (R342). -/
def execSpinDemotionTimeout (p g : Nat) (sl : SlotId) (s : State) : Res :=
  s.onSlot p g sl fun _ G S =>
    match S.demoted with
    | some t => if t + 4096 ≤ s.ticks then s.setGang (G.setSlot sl (some { S with demoted := none, spin := 0 })) else s
    | none => s

/-- A slot that has waited 2,000 cycles in WAITC or CHWAIT becomes swap-eligible (R337). -/
def execSwapEligible (p g : Nat) (sl : SlotId) (s : State) : Res :=
  s.onSlot p g sl fun _ G S =>
    let due := match S.wait with
      | .waitc t _ _ _ _ _ _ => decide (t + 2000 ≤ s.ticks)
      | .chwait t => decide (t + 2000 ≤ s.ticks)
      | _ => false
    if due then s.setGang (G.setSlot sl (some { S with swap := true })) else s

end Sys2Proof.Machine
end

