-- ==== Sys2Proof/Machine/Blocks.lean ====
section
/-! DEFINITION. Machine/Blocks.lean: the 64-byte described block (R120 to R123) and its elements. -/

namespace Sys2Proof.Machine

def blkFmt (bs : List Byte) : Nat := (bs.getD 0 0).toNat
/-- SCALE, a signed power of two. -/
def blkScale (bs : List Byte) : Int := (bs.getD 1 0).toInt

/-- The bits of a packed field that begins at a byte. -/
def packedAt (bs : List Byte) (first lo n : Nat) : Nat := natOf (bs.drop first) / 2 ^ lo % 2 ^ n

/-- A malformed SRC16 element (R258). -/
def srcBad (w : Nat) : Bool :=
  let count := w / 32 % 64
  let start := w % 32
  w / 2048 != 0 || decide (32 < count) || ((count == 0 || count == 32) && start != 0)

/-- The bitmap of a sparse block. -/
def blkBitmap (bs : List Byte) : Nat :=
  if blkFmt bs = 3 then packedAt bs 2 0 62 else packedAt bs 2 0 82

/-- Ones of a number below 2^n. -/
def onesBelow (w n : Nat) : Nat := ((List.range n).filter fun k => w / 2 ^ k % 2 == 1).length

def knownFmt (f : Nat) : Bool := [1, 2, 3, 4, 0x10, 0x11].contains f

/-- The checks of R123's table in their order; `want` says which formats the consumer accepts. -/
def blkCheck (bs : List Byte) (want : Nat → Bool) : Option Nat :=
  let f := blkFmt bs
  let pop := onesBelow (blkBitmap bs) 82
  if f = 0 then some 1
  else if !knownFmt f then some 2
  else if !want f then some 7
  else if (f = 3 ∧ packedAt bs 2 62 2 ≠ 0) ∨ (f = 4 ∧ packedAt bs 2 82 6 ≠ 0) then some 3
  else if (f = 3 ∧ 54 < pop) ∨ (f = 4 ∧ 68 < pop) then some 4
  else if (f = 2 ∧ packedAt bs 2 492 4 ≠ 0) ∨ (f = 3 ∧ natOf (bs.drop (10 + pop)) ≠ 0) ∨
      (f = 4 ∧ packedAt bs 13 0 408 / 2 ^ (6 * pop) ≠ 0) ∨ (f = 0x11 ∧ fieldAt bs 62 2 ≠ 0) then some 5
  else if f = 0x10 ∧ (List.range 31).any (fun j => srcBad (fieldAt bs (2 + 2 * j) 2)) then some 6
  else none

def anyFmt (_ : Nat) : Bool := true

/-- The positions or elements of a format (R121). -/
def blkCap (f : Nat) : Nat :=
  match f with
  | 1 => 62 | 2 => 82 | 3 => 62 | 4 => 82 | 0x10 => 31 | 0x11 => 15 | _ => 0

/-- The tapered format of a block. -/
def blkTFmt (f : Nat) : TFmt := if f = 1 ∨ f = 3 then t8 else t6

/-- The stored code at a position; none where a sparse block's bit is clear. -/
def blkCode (bs : List Byte) (j : Nat) : Option Nat :=
  let u := onesBelow (blkBitmap bs) j
  match blkFmt bs with
  | 1 => some (bs.getD (2 + j) 0).toNat
  | 2 => some (packedAt bs 2 (6 * j) 6)
  | 3 => if blkBitmap bs / 2 ^ j % 2 = 1 then some (bs.getD (10 + u) 0).toNat else none
  | 4 => if blkBitmap bs / 2 ^ j % 2 = 1 then some (packedAt bs 13 (6 * u) 6) else none
  | _ => none

/-- The value at a position of a tapered block (R122); a clear bit reads zero. -/
def blkVal (bs : List Byte) (j : Nat) : FVal :=
  match blkCode bs j with
  | none => .fin false 0 0
  | some c => ((blkTFmt (blkFmt bs)).decode c).scale (blkScale bs)

/-- The raw element of a dial-set block. -/
def blkRaw (bs : List Byte) (j : Nat) : Nat :=
  if blkFmt bs = 0x10 then fieldAt bs (2 + 2 * j) 2 else fieldAt bs (2 + 4 * j) 4

/-- Packs 6-bit codes into bytes, code u in field bits [6u+5:6u]. -/
def pack6 (codes : List Nat) (n : Nat) : List Byte := leOf n (codes.foldr (fun c acc => c % 64 + 64 * acc) 0)

/-- A dense block of codes and a scale (R121, R139). -/
def denseBlock (T : TFmt) (codes : List Nat) (q : Int) : List Byte :=
  let head := [if T.n = 8 then 1 else 2, BitVec.ofInt 8 q]
  if T.n = 8 then head ++ bytesAt (codes.map (BitVec.ofNat 8)) 0 62 else head ++ pack6 codes 62

end Sys2Proof.Machine
end

