-- ==== Sys2Proof/Machine/Special.lean ====
section
/-! DEFINITION. Machine/Special.lean: the special functions of R141 and the divisions of R142. A function is computed
in fixed point with some 250 bits after the point and rounded once; where the exact value is not a fixed-point number
the last place is marked sticky. No FP32 argument brings one of these functions within 2^-100 of a rounding boundary
without meeting it, so the rounding is that of the exact value (log entry 10). -/

namespace Sys2Proof.Machine

/-- Bits after the point. -/
def fxP : Nat := 256

/-- π/2 with 448 bits after the point. -/
def halfPi448 : Nat := 0x1921fb54442d18469898cc51701b839a252049c1114cf98e804177d4c76273644a29410f31c6809bbdf2a33679a748636605614dbe4be286e

/-- ln 2 with 320 bits after the point. -/
def ln2At320 : Nat := 0xb17217f7d1cf79abc9e3b39803f2f6af40f343267298b62d8a0d175b8baafa2be7b876206debac98

/-- ln 2 in fixed point. -/
def ln2Fx : Nat := ln2At320 / 2 ^ 64

/-- The terms of e^x from the k-th on: `t` is x^k / k!. -/
def expTerms (x t k : Nat) : Nat → Nat
  | 0 => t
  | n + 1 => t + expTerms x (t * x / 2 ^ fxP / (k + 1)) (k + 1) n

/-- e^x for x in [0, 1). -/
def expFx (x : Nat) : Nat := expTerms x (2 ^ fxP) 0 70

/-- The alternating terms of sine or cosine from x^k / k! on. -/
def trigTerms (x2 t k : Nat) : Nat → Int
  | 0 => t
  | n + 1 => (t : Int) - trigTerms x2 (t * x2 / 2 ^ fxP / ((k + 1) * (k + 2))) (k + 2) n

/-- sin x and cos x for x in [0, 1.6). -/
def sinFx (x : Nat) : Nat := (trigTerms (x * x / 2 ^ fxP) x 1 40).toNat
def cosFx (x : Nat) : Nat := (trigTerms (x * x / 2 ^ fxP) (2 ^ fxP) 0 40).toNat

/-- The terms z^k / k, k odd, of the inverse hyperbolic tangent. -/
def atanhTerms (z2 t k : Nat) : Nat → Nat
  | 0 => t / k
  | n + 1 => t / k + atanhTerms z2 (t * z2 / 2 ^ fxP) (k + 2) n

/-- ln y for y in [1, 2), as a fixed-point number. -/
def lnFx (y : Nat) : Nat :=
  let z := (y - 2 ^ fxP) * 2 ^ fxP / (y + 2 ^ fxP)
  2 * atanhTerms (z * z / 2 ^ fxP) z 1 90

/-- m × 2^e in fixed point, cut. -/
def toFx (m : Nat) (e : Int) : Nat :=
  if 0 ≤ e + fxP then m * 2 ^ (e + fxP).toNat else m / 2 ^ (-(e + fxP)).toNat

/-- 2^x for a fixed-point x of either sign: a fixed-point number in [1, 2) and a power of two. -/
def exp2Fx (x : Int) : Nat × Int :=
  let n := x / (2 ^ fxP : Nat)
  let f := (x % (2 ^ fxP : Nat)).toNat
  (expFx (f * ln2Fx / 2 ^ fxP), n)

/-- e^x for a fixed-point x of either sign. -/
def expAny (x : Int) : Nat × Int :=
  let n := x * (2 ^ fxP : Nat) / (ln2Fx : Int) / (2 ^ fxP : Nat)
  let r := x - n * ln2Fx
  (expFx r.toNat, n)

/-- FEXP2 of a finite value. -/
def exp2Fin (neg : Bool) (m : Nat) (e : Int) : Nat :=
  if m = 0 then 0x3F800000
  else if (8 : Int) ≤ m.log2 + e then (if neg then 0 else 0x7F800000)
  else
    let x : Int := (toFx m e : Nat)
    let y := exp2Fx (if neg then -x else x)
    if x % (2 ^ fxP : Nat) = 0 then f32.round .rn false 1 y.2
    else f32.round .rn false y.1 (y.2 - fxP) true

/-- FLOG2 of a finite positive value: the exponent plus ln of the significand over ln 2. -/
def log2Fin (m : Nat) (e : Int) : Nat :=
  let L := m.log2
  let y := m * 2 ^ (fxP - L)
  let n : Int := e + L
  if m = 2 ^ L then f32.round .rn (decide (n < 0)) n.natAbs 0
  else
    let f := lnFx y * 2 ^ fxP / ln2Fx
    let t : Int := n * (2 ^ fxP : Nat) + f
    f32.round .rn (decide (t < 0)) t.natAbs (-fxP) true

/-- The quadrant and the rest of a finite magnitude, reduced exactly by π/2. -/
def reduceArg (m : Nat) (e : Int) : Nat × Nat :=
  let x := if 0 ≤ e + 448 then m * 2 ^ (e + 448).toNat else m / 2 ^ (-(e + 448)).toNat
  (x / halfPi448 % 4, x % halfPi448 / 2 ^ (448 - fxP))

/-- A fixed-point magnitude rounded to FP32, never exact. -/
def roundFx (neg : Bool) (y : Nat) : Nat := f32.round .rn neg y (-fxP) true

def sinFin (neg : Bool) (m : Nat) (e : Int) : Nat :=
  if m.log2 + e < -60 then f32.round .rn neg m e
  else
    let r := reduceArg m e
    match r.1 with
    | 0 => roundFx neg (sinFx r.2)
    | 1 => roundFx neg (cosFx r.2)
    | 2 => roundFx (!neg) (sinFx r.2)
    | _ => roundFx (!neg) (cosFx r.2)

def cosFin (m : Nat) (e : Int) : Nat :=
  if m = 0 ∨ m.log2 + e < -60 then 0x3F800000
  else
    let r := reduceArg m e
    match r.1 with
    | 0 => roundFx false (cosFx r.2)
    | 1 => roundFx true (sinFx r.2)
    | 2 => roundFx true (cosFx r.2)
    | _ => roundFx false (sinFx r.2)

/-- FTANH of a finite non-zero value: (1 - t) / (1 + t) with t = e^(-2 |a|). -/
def tanhFin (neg : Bool) (m : Nat) (e : Int) : Nat :=
  if (4 : Int) ≤ m.log2 + e then f32.round .rn neg 1 0
  else if m.log2 + e < -60 then f32.round .rn neg m e
  else
    let y := expAny (-(2 * toFx m e : Nat))
    let t := if 0 ≤ y.2 then y.1 * 2 ^ y.2.toNat else y.1 / 2 ^ (-y.2).toNat
    roundFx neg ((2 ^ fxP - t) * 2 ^ fxP / (2 ^ fxP + t))

/-- FSIGM of a finite value: 1 / (1 + E) with E = e^(-a). -/
def sigmFin (neg : Bool) (m : Nat) (e : Int) : Nat :=
  if m = 0 ∨ m.log2 + e < -60 then 0x3F000000
  else if (7 : Int) ≤ m.log2 + e then (if neg then 0 else 0x3F800000)
  else
    let x : Int := (toFx m e : Nat)
    let y := expAny (if neg then x else -x)
    let E := if 0 ≤ y.2 then y.1 * 2 ^ y.2.toNat else y.1 / 2 ^ (-y.2).toNat
    f32.round .rn false (2 ^ (2 * fxP + 200) / (2 ^ fxP + E)) (-(fxP : Int) - 200) true

/-! ### The functions on FP32 patterns -/

def fn32 (f : FVal → Nat) (a : Word) : Word := BitVec.ofNat 32 (f (f32.unpack a.toNat))

def fnRcp (a : Word) : Word := fn32 (fun v => f32.div .rn (.fin false 1 0) v) a
def fnRsq (a : Word) : Word := fn32 f32.rsqrt a
def fnSqrt (a : Word) : Word := fn32 (f32.sqrt .rn) a
def fnDiv (a b : Word) : Word := BitVec.ofNat 32 (f32.div .rn (f32.unpack a.toNat) (f32.unpack b.toNat))

def fnExp2 (a : Word) : Word := fn32 (fun
  | .nan => f32.nan
  | .inf neg => if neg then 0 else f32.inf false
  | .fin neg m e => exp2Fin neg m e) a

def fnLog2 (a : Word) : Word := fn32 (fun
  | .nan => f32.nan
  | .inf neg => if neg then f32.nan else f32.inf false
  | .fin neg m e => if m = 0 then f32.inf true else if neg then f32.nan else log2Fin m e) a

def fnSin (a : Word) : Word := fn32 (fun
  | .nan => f32.nan
  | .inf _ => f32.nan
  | .fin neg m e => if m = 0 then f32.zero neg else sinFin neg m e) a

def fnCos (a : Word) : Word := fn32 (fun
  | .nan => f32.nan
  | .inf _ => f32.nan
  | .fin _ m e => cosFin m e) a

def fnTanh (a : Word) : Word := fn32 (fun
  | .nan => f32.nan
  | .inf neg => f32.round .rn neg 1 0
  | .fin neg m e => if m = 0 then f32.zero neg else tanhFin neg m e) a

def fnSigm (a : Word) : Word := fn32 (fun
  | .nan => f32.nan
  | .inf neg => if neg then 0 else 0x3F800000
  | .fin neg m e => sigmFin neg m e) a

/-! ### Integer division (R142) -/

def fnDivI (a b : Word) : Word := if b = 0 then 0xFFFFFFFF else BitVec.ofInt 32 (Int.tdiv a.toInt b.toInt)
def fnDivN (a b : Word) : Word := if b = 0 then 0xFFFFFFFF else BitVec.ofNat 32 (a.toNat / b.toNat)
def fnRemI (a b : Word) : Word := if b = 0 then a else BitVec.ofInt 32 (Int.tmod a.toInt b.toInt)
def fnRemN (a b : Word) : Word := if b = 0 then a else BitVec.ofNat 32 (a.toNat % b.toNat)

end Sys2Proof.Machine
end

