-- ==== Sys2Proof/Machine/Float.lean ====
section
/-! DEFINITION. Machine/Float.lean: the floating-point, conversion, block and special-function instructions of range D
(R127 to R144). -/

namespace Sys2Proof.Machine

/-! ### Immediates (R129) -/

/-- A float immediate: E is an integer converted to FP32, K a pattern. -/
def immF32 (b : VSrc) : Word :=
  match b with
  | .e10 e => BitVec.ofNat 32 (ofIntF f32 .rn e.toInt)
  | b => b.imm

/-- A packed immediate: E converted to FP16 in both halves, K a pattern. -/
def immF16x2 (b : VSrc) : Word :=
  match b with
  | .e10 e => let h := BitVec.ofNat 16 (ofIntF f16 .rn e.toInt); h ++ h
  | b => b.imm

/-- The operand of slot B with an immediate read by `imm`. -/
def pickBy (imm : VSrc → Word) (b : VSrc) (read : Lanes) : Lanes :=
  match b with
  | .reg _ => read
  | b => Vector.replicate 96 (imm b)

def floatBin (imm : VSrc → Word) (o : VBin) (f : Word → Word → Word) (s : State) : Res :=
  s.vec o.b.len (some o.a) o.b.reg? none [o.d.toNat] [] fun x a b _ G =>
    G.wv o.d.toNat (x.G.active x.S o.g) (lanes2 f a (pickBy imm o.b b))

def floatTri (o : VTri) (f : Word → Word → Word → Word) (s : State) : Res :=
  s.vec o.b.len (some o.a) o.b.reg? (some o.c) [o.d.toNat] [] fun x a b c G =>
    G.wv o.d.toNat (x.G.active x.S o.g) (lanes3 f a (pickBy immF32 o.b b) c)

def floatCmp (o : VCmp) (t : Nat → Nat → Bool) (s : State) : Res :=
  s.vec o.b.len (some o.a) o.b.reg? none [] [] fun x a b _ G =>
    let bv := pickBy immF32 o.b b
    G.wpIn o.d (x.G.active x.S o.g) (maskOf fun i => t (laneAt a i).toNat (laneAt bv i).toNat)

/-! ### Single precision (R131 to R134) -/

def w32 (n : Nat) : Word := BitVec.ofNat 32 n

def fnFadd (rm : RM) (a b : Word) : Word := w32 (f32.add rm a.toNat b.toNat)
def fnFsub (rm : RM) (a b : Word) : Word := w32 (f32.sub rm a.toNat b.toNat)
def fnFmul (rm : RM) (a b : Word) : Word := w32 (f32.mulF rm a.toNat b.toNat)
def fnFma (rm : RM) (a b c : Word) : Word := w32 (f32.fma rm a.toNat b.toNat c.toNat)
def fnFnma (rm : RM) (a b c : Word) : Word := w32 (f32.fnma rm a.toNat b.toNat c.toNat)
def fnFmin (a b : Word) : Word := w32 (f32.pick true a.toNat b.toNat)
def fnFmax (a b : Word) : Word := w32 (f32.pick false a.toNat b.toNat)
def fnFabs (a : Word) : Word := if f32.isNan a.toNat then 0x7FC00000 else a &&& 0x7FFFFFFF
def fnFneg (a : Word) : Word := if f32.isNan a.toNat then 0x7FC00000 else a ^^^ 0x80000000

def fnFsat (a : Word) : Word :=
  if f32.isNan a.toNat ∨ f32.key a.toNat ≤ 0 then 0
  else if 0x3F800000 < f32.key a.toNat then 0x3F800000
  else a

def execFaddF32 (o : VBin) (rm : RM) (s : State) : Res := floatBin immF32 o (fnFadd rm) s
def execFsubF32 (o : VBin) (rm : RM) (s : State) : Res := floatBin immF32 o (fnFsub rm) s
def execFmulF32 (o : VBin) (rm : RM) (s : State) : Res := floatBin immF32 o (fnFmul rm) s
def execFmaF32 (o : VTri) (rm : RM) (s : State) : Res := floatTri o (fnFma rm) s
def execFnmaF32 (o : VTri) (rm : RM) (s : State) : Res := floatTri o (fnFnma rm) s
def execFminF32 (o : VBin) (s : State) : Res := floatBin immF32 o fnFmin s
def execFmaxF32 (o : VBin) (s : State) : Res := floatBin immF32 o fnFmax s
def execFabsF32 (o : VUn) (s : State) : Res := vecUn o fnFabs s
def execFnegF32 (o : VUn) (s : State) : Res := vecUn o fnFneg s
def execFsatF32 (o : VUn) (s : State) : Res := vecUn o fnFsat s

/-- The comparisons of R132. -/
def ordered (a b : Nat) : Bool := !f32.isNan a && !f32.isNan b
def execFcmpEq (o : VCmp) (s : State) : Res := floatCmp o (fun a b => ordered a b && f32.key a == f32.key b) s
def execFcmpLt (o : VCmp) (s : State) : Res := floatCmp o (fun a b => ordered a b && decide (f32.key a < f32.key b)) s
def execFcmpLe (o : VCmp) (s : State) : Res := floatCmp o (fun a b => ordered a b && decide (f32.key a ≤ f32.key b)) s
def execFcmpUn (o : VCmp) (s : State) : Res := floatCmp o (fun a b => !ordered a b) s

/-- The class bit of R133. -/
def classOf (a : Word) : Nat :=
  let neg := a.getLsbD 31
  match f32.unpack a.toNat with
  | .nan => if a.getLsbD 22 then 9 else 8
  | .inf _ => if neg then 0 else 7
  | .fin _ m _ =>
    if m = 0 then (if neg then 3 else 4)
    else if m < 2 ^ 23 then (if neg then 2 else 5)
    else (if neg then 1 else 6)

def fnFclass (a : Word) : Word := w32 (2 ^ classOf a)
def execFclass (o : VUn) (s : State) : Res := vecUn o fnFclass s

def fnFrnd (rm : RM) (a : Word) : Word :=
  match f32.unpack a.toNat with
  | .nan => 0x7FC00000
  | .inf _ => a
  | .fin neg m e => if 0 ≤ e then a else w32 (f32.round rm neg (roundTo rm neg m e 0) 0)

def fnFscale (rm : RM) (a b : Word) : Word := w32 (f32.pack rm ((f32.unpack a.toNat).scale b.toInt))

def execFrnd (o : VUn) (rm : RM) (s : State) : Res := vecUn o (fnFrnd rm) s
def execFscale (o : VBin) (rm : RM) (s : State) : Res := vecBin o (fnFscale rm) s

/-! ### Double precision in register pairs (R130, R135) -/

/-- The FP64 pattern of a pair in a lane. -/
def pairAt (lo hi : Lanes) (i : Nat) : Nat := (laneAt lo i).toNat + 2 ^ 32 * (laneAt hi i).toNat

/-- Writes a pair: bits [31:0] to vn, bits [63:32] to v(n+1). -/
def Gang.wpair (G : Gang) (d : VReg) (m : Mask) (f : Nat → Nat) : Gang :=
  (G.wv d.toNat m (lanesOf fun i => w32 (f i))).wv (d.toNat + 1) m (lanesOf fun i => w32 (f i / 2 ^ 32))

/-- The registers of a pair. -/
def pairRegs (r : VReg) : List Nat := [r.toNat, r.toNat + 1]

def noHold (r : VReg) : Option HReg := some ⟨r, false⟩

/-- A word on pairs: the lower registers stand at positions a, b and c with no hold bit. -/
def f64Op (g : Guard) (d a b : VReg) (c : Option VReg) (f : Nat → Nat → Nat → Nat) (s : State) : Res :=
  s.vec 8 (noHold a) (noHold b) (c.bind noHold) (pairRegs d ++ pairRegs a ++ pairRegs b ++ (c.map pairRegs).getD []) []
    fun x va vb vc G =>
      let hi (r : VReg) : Lanes := x.G.vreg (r.toNat + 1)
      G.wpair d (x.G.active x.S g) fun i =>
        f (pairAt va (hi a) i) (pairAt vb (hi b) i) (pairAt vc ((c.map hi).getD lanesZero) i)

def execFaddF64 (g : Guard) (d a b : VReg) (rm : RM) (s : State) : Res := f64Op g d a b none (fun x y _ => f64.add rm x y) s
def execFmulF64 (g : Guard) (d a b : VReg) (rm : RM) (s : State) : Res := f64Op g d a b none (fun x y _ => f64.mulF rm x y) s
def execFmaF64 (g : Guard) (d a b c : VReg) (rm : RM) (s : State) : Res := f64Op g d a b (some c) (fun x y z => f64.fma rm x y z) s

/-! ### Packed halves (R136) -/

def eachHalf (f : Nat → Nat → Nat → Nat) (a b c : Word) : Word :=
  let h (k : Nat) : BitVec 16 := BitVec.ofNat 16 (f (half16 a k).toNat (half16 b k).toNat (half16 c k).toNat)
  h 1 ++ h 0

def fnFaddH (rm : RM) (a b : Word) : Word := eachHalf (fun x y _ => f16.add rm x y) a b 0
def fnFmulH (rm : RM) (a b : Word) : Word := eachHalf (fun x y _ => f16.mulF rm x y) a b 0
def fnFmaH (rm : RM) (a b c : Word) : Word := eachHalf (fun x y z => f16.fma rm x y z) a b c
def fnFmaBf (rm : RM) (a b c : Word) : Word := eachHalf (fun x y z => bf16.fma rm x y z) a b c

/-- One rounding of a_0 × b_0 + a_1 × b_1 + c. -/
def fnDot2 (F : FFmt) (rm : RM) (a b c : Word) : Word :=
  let p (k : Nat) : FVal := (F.unpack (half16 a k).toNat).mul (F.unpack (half16 b k).toNat)
  w32 (f32.sum rm [p 0, p 1, f32.unpack c.toNat])

def execFaddF16x2 (o : VBin) (rm : RM) (s : State) : Res := floatBin immF16x2 o (fnFaddH rm) s
def execFmulF16x2 (o : VBin) (rm : RM) (s : State) : Res := floatBin immF16x2 o (fnFmulH rm) s
def execFmaF16x2 (o : V3) (rm : RM) (s : State) : Res := vec3 o (fnFmaH rm) s
def execFmaBf16x2 (o : V3) (rm : RM) (s : State) : Res := vec3 o (fnFmaBf rm) s
def execFdot2F16 (o : V3) (rm : RM) (s : State) : Res := vec3 o (fnDot2 f16 rm) s
def execFdot2Bf16 (o : V3) (rm : RM) (s : State) : Res := vec3 o (fnDot2 bf16 rm) s

/-! ### Conversions (R137, R138) -/

def fnCvtFI (rm : RM) (a : Word) : Word := w32 (ofIntF f32 rm a.toInt)
def fnCvtFN (rm : RM) (a : Word) : Word := w32 (ofIntF f32 rm a.toNat)
def fnCvtIF (rm : RM) (a : Word) : Word := BitVec.ofInt 32 (toIntSat rm (-2 ^ 31) (2 ^ 31 - 1) (f32.unpack a.toNat))
def fnCvtNF (rm : RM) (a : Word) : Word := BitVec.ofInt 32 (toIntSat rm 0 (2 ^ 32 - 1) (f32.unpack a.toNat))

/-- Two FP32 values into a packed pair of a 16-bit format. -/
def fnCvtPack (F : FFmt) (rm : RM) (a b : Word) : Word :=
  w32 (F.pack rm (f32.unpack a.toNat) + 65536 * F.pack rm (f32.unpack b.toNat))

/-- One element of a packed pair, widened exactly. -/
def fnCvtWiden (F : FFmt) (half : Bool) (a : Word) : Word :=
  w32 (f32.pack .rn (F.unpack (half16 a (if half then 1 else 0)).toNat))

def execCvtF32I32 (o : VUn) (rm : RM) (s : State) : Res := vecUn o (fnCvtFI rm) s
def execCvtF32N32 (o : VUn) (rm : RM) (s : State) : Res := vecUn o (fnCvtFN rm) s
def execCvtI32F32 (o : VUn) (rm : RM) (s : State) : Res := vecUn o (fnCvtIF rm) s
def execCvtN32F32 (o : VUn) (rm : RM) (s : State) : Res := vecUn o (fnCvtNF rm) s

def execCvtF32F64 (g : Guard) (d a : VReg) (rm : RM) (s : State) : Res :=
  s.vec 8 (noHold a) none none (d.toNat :: pairRegs a) [] fun x va _ _ G =>
    G.wv d.toNat (x.G.active x.S g)
      (lanesOf fun i => w32 (f32.pack rm (f64.unpack (pairAt va (x.G.vreg (a.toNat + 1)) i))))

def execCvtF64F32 (o : VUn) (s : State) : Res :=
  s.vec 8 (some o.a) none none (pairRegs o.d) [] fun x a _ _ G =>
    G.wpair o.d (x.G.active x.S o.g) fun i => f64.pack .rn (f32.unpack (laneAt a i).toNat)

def execCvtF16x2F32 (o : V2) (rm : RM) (s : State) : Res := vec2 o (fnCvtPack f16 rm) s
def execCvtF32F16 (o : VUn) (half : Bool) (s : State) : Res := vecUn o (fnCvtWiden f16 half) s
def execCvtBf16x2F32 (o : V2) (rm : RM) (s : State) : Res := vec2 o (fnCvtPack bf16 rm) s
def execCvtF32Bf16 (o : VUn) (half : Bool) (s : State) : Res := vecUn o (fnCvtWiden bf16 half) s

/-- The scale q of a tapered conversion: sext(s[7:0]). -/
def scaleOf (w : Word64) : Int := (w.setWidth 8).toInt

def fnToTaper (T : TFmt) (q : Int) (a : Word) : Word := w32 (T.encode (f32.unpack a.toNat) q)
def fnFromTaper (T : TFmt) (rm : RM) (q : Int) (a : Word) : Word := w32 (f32.pack rm ((T.decode a.toNat).scale q))

def taper (o : VScl) (f : Int → Word → Word) (s : State) : Res :=
  s.vec 8 (some o.a) none none [o.d.toNat] [o.b.toNat] fun x a _ _ G =>
    G.wv o.d.toNat (x.G.active x.S o.g) (lanes1 (f (scaleOf (x.G.rs x.S o.b))) a)

def execCvtT8F32 (o : VScl) (s : State) : Res := taper o (fnToTaper t8) s
def execCvtF32T8 (o : VScl) (rm : RM) (s : State) : Res := taper o (fnFromTaper t8 rm) s
def execCvtT6F32 (o : VScl) (s : State) : Res := taper o (fnToTaper t6) s
def execCvtF32T6 (o : VScl) (rm : RM) (s : State) : Res := taper o (fnFromTaper t6 rm) s

/-! ### Block packing (R139, R140) -/

/-- The bower offset of a block: the scalar base, signed, plus E units (R149). -/
def bowerOff (x : Issuer) (a : SReg) (e : BitVec 10) (unit : Int) : Int := (x.G.rs x.S a).toInt + e.toInt * unit

/-- The checks that the bower's block words share: alignment, then bounds; the trap holds the given lanes (R150). -/
def bowerTrap (P : Plot) (off : Int) (align size : Nat) (store : Bool) (lanes : Mask) : Option TrapInfo :=
  let t (code : Nat) : TrapInfo := { code := code, info := if store then 4 else 0, addr := BitVec.ofInt 64 off, lanes := lanes }
  if off % align ≠ 0 then some (t 0x04)
  else if off < 0 ∨ (P.tmpl.l1s : Int) < off + size then some (t 0x05)
  else none

def blkpack (T : TFmt) (g : Guard) (a : SReg) (e : BitVec 10) (b : HReg) (c : SReg) (s : State) : Res :=
  s.issue [b.n.toNat] [a.toNat, c.toNat] fun x =>
    let v := x.G.operand x.G.latchB (some b)
    let G := { x.G with latchB := latchNext x.G.latchB (some b) v }
    let m := x.G.active x.S g
    let off := bowerOff x a e 64
    if m = 0 then s.done x G 8
    else
      match bowerTrap x.P off 64 64 true m with
      | some t => s.trap x.P x.G x.sl x.S t
      | none =>
        let q := scaleOf (x.G.rs x.S c)
        let codes := (List.range (if T.n = 8 then 62 else 82)).map fun j =>
          if m.getLsbD j then T.encode (f32.unpack (laneAt v j).toNat) q else 0
        (s.setPlot { x.P with bower := x.P.bower.writeN off.toNat (denseBlock T codes q) }).done x G 8

def execBlkpackT8 (g : Guard) (a : SReg) (e : BitVec 10) (b : HReg) (c : SReg) (s : State) : Res := blkpack t8 g a e b c s
def execBlkpackT6 (g : Guard) (a : SReg) (e : BitVec 10) (b : HReg) (c : SReg) (s : State) : Res := blkpack t6 g a e b c s

/-- MALFORMED_BLOCK (R123): the reason and the block's address. -/
def blockTrap (reason : Nat) (addr : Int) : TrapInfo := { code := 0x0A, info := BitVec.ofNat 64 reason, addr := BitVec.ofInt 64 addr }

/-- What BLKUNPK writes in lane i. -/
def unpackLane (bs : List Byte) (rm : RM) (i : Nat) : Word :=
  if blkCap (blkFmt bs) ≤ i then 0
  else if 0x10 ≤ blkFmt bs then w32 (blkRaw bs i)
  else w32 (f32.pack rm (blkVal bs i))

/-- BLKUNPK. DESIGN CHOICE (log 109): the 64 bytes are read in one step, as a block is written in one; R124 lets each aligned 4-byte
word of a block that is written at the same time be seen old or new. -/
def execBlkunpk (g : Guard) (d : VReg) (a : SReg) (e : BitVec 10) (rm : RM) (s : State) : Res :=
  s.issue [d.toNat] [a.toNat] fun x =>
    let m := x.G.active x.S g
    let off := bowerOff x a e 64
    if m = 0 then s.done x x.G 8
    else
      match bowerTrap x.P off 64 64 false m with
      | some t => s.trap x.P x.G x.sl x.S t
      | none =>
        if x.P.bower.poisoned off.toNat 64 then
          s.trap x.P x.G x.sl x.S { code := 0x09, addr := BitVec.ofInt 64 off, lanes := m }
        else
          let bs := x.P.bower.readN off.toNat 64
          match blkCheck bs anyFmt with
          | some r => s.trap x.P x.G x.sl x.S (blockTrap r off)
          | none => s.done x (x.G.wv d.toNat m (lanesOf (unpackLane bs rm))) 8

/-! ### The special-function queue (R141 to R143) -/

/-- The word enters the queue: its sources are read, its destination is busy until the entry completes. A full queue
holds the word, which issues again. -/
def State.queue (s : State) (len : Nat) (ra rb : Option HReg) (d : VReg) (g : Guard) (f : Lanes → Lanes → Lanes) : Res :=
  s.issue ([ra, rb].filterMap (·.map (·.n.toNat)) ++ [d.toNat]) [] fun x =>
    if 32 ≤ (s.core x.P.core).sfq.length then s
    else
      let a := x.G.operand x.G.latchA ra
      let b := x.G.operand x.G.latchB rb
      let m := x.G.active x.S g
      let G := { x.G with
        latchA := latchDrop (latchNext x.G.latchA ra a) d.toNat
        latchB := latchDrop (latchNext x.G.latchB rb b) d.toNat
        latchC := latchDrop x.G.latchC d.toNat }
      (s.enqueueSfq x.P.core ⟨gangKey x.P.id x.G.idx, d, m, f a b⟩).done x G len

def special (o : VUn) (f : Word → Word) (s : State) : Res := s.queue 8 (some o.a) none o.d o.g fun a _ => lanes1 f a

def execFrcp (o : VUn) (s : State) : Res := special o fnRcp s
def execFrsq (o : VUn) (s : State) : Res := special o fnRsq s
def execFsqrt (o : VUn) (s : State) : Res := special o fnSqrt s
def execFdiv (o : V2) (s : State) : Res := s.queue 8 (some o.a) (some o.b) o.d o.g (lanes2 fnDiv)
def execFexp2 (o : VUn) (s : State) : Res := special o fnExp2 s
def execFlog2 (o : VUn) (s : State) : Res := special o fnLog2 s
def execFsin (o : VUn) (s : State) : Res := special o fnSin s
def execFcos (o : VUn) (s : State) : Res := special o fnCos s
def execFtanh (o : VUn) (s : State) : Res := special o fnTanh s
def execFsigm (o : VUn) (s : State) : Res := special o fnSigm s

def intDiv (o : VBin) (f : Word → Word → Word) (s : State) : Res :=
  s.queue o.b.len (some o.a) o.b.reg? o.d o.g fun a b => lanes2 f a (o.b.pick b)

def execIdivI32 (o : VBin) (s : State) : Res := intDiv o fnDivI s
def execIdivN32 (o : VBin) (s : State) : Res := intDiv o fnDivN s
def execIremI32 (o : VBin) (s : State) : Res := intDiv o fnRemI s
def execIremN32 (o : VBin) (s : State) : Res := intDiv o fnRemN s

/-- SFQ_ENTRY_COMPLETE (R143): the head entry of a core's queue writes its lanes. Nothing happens on an empty queue. -/
def execSfqEntryComplete (core : Nat) (s : State) : Res :=
  let c := s.core core
  match c.sfq with
  | [] => .next s
  | e :: es =>
    let s1 := s.setCore core { c with sfq := es }
    match s.gang? (e.gang / 16) (e.gang % 16) with
    | some G => .next (s1.setGang (G.wv e.dest.toNat e.mask e.val))
    | none => .next s1

end Sys2Proof.Machine
end

