-- ==== Sys2Proof/Machine/Scratch.lean ====
section
/-! DEFINITION. Machine/Scratch.lean: the scratchpad loads, stores and atomics and SPINFO (R146 to R161). An access is
performed where it lands, in issue order (R153). -/

namespace Sys2Proof.Machine

/-- A word with vector sources at positions a, b and c whose effect may be a trap: `f` gets the issuer as it was and
the gang with its latches moved on (R95). -/
def State.vecS (s : State) (ra rb rc : Option HReg) (vs ss : List Nat)
    (f : Issuer → Lanes → Lanes → Lanes → Gang → State) : Res :=
  s.issue ([ra, rb, rc].filterMap (·.map (·.n.toNat)) ++ vs) ss fun x =>
    let a := x.G.operand x.G.latchA ra
    let b := x.G.operand x.G.latchB rb
    let c := x.G.operand x.G.latchC rc
    f x a b c { x.G with latchA := latchNext x.G.latchA ra a, latchB := latchNext x.G.latchB rb b,
                         latchC := latchNext x.G.latchC rc c }

/-! ### The three levels (R146, R147) -/

/-- A level's storage for a plot, with its size; none without a grant (R148). -/
def State.scratch (s : State) (P : Plot) (lv : Nat) : Option (Store × Nat) :=
  let padOf (g : Option Grant) : Option (Store × Nat) :=
    match g with
    | some g => (s.pads.find g.pad).map fun q => (q.store, g.size)
    | none => none
  match lv with
  | 0 => some (P.bower, P.tmpl.l1s)
  | 1 => padOf P.pav
  | _ => padOf P.cons

/-- The storage of a level after a write. -/
def State.setScratch (s : State) (P : Plot) (lv : Nat) (t : Store) : State :=
  let put (g : Option Grant) : State :=
    match g with
    | some g => match s.pads.find g.pad with
      | some q => { s with pads := s.pads.put g.pad { q with store := t } }
      | none => s
    | none => s
  match lv with
  | 0 => s.setPlot { P with bower := t }
  | 1 => put P.pav
  | _ => put P.cons

/-- How a scratchpad access uses its bytes. -/
inductive ScrAcc where
  | load | store | atomic
  deriving DecidableEq, Repr

def ScrAcc.writes : ScrAcc → Bool
  | .load => false
  | _ => true

/-- The lanes of a store write every byte of a 4-byte word between them. -/
def coversWord (z : Nat) (lanes : List (Nat × Int)) (w : Nat) : Bool :=
  (List.range 4).all fun i => lanes.any fun l => decide (l.2.toNat ≤ 4 * w + i) && decide (4 * w + i < l.2.toNat + z)

/-- A lane fails check k of R150 (2 alignment, 3 bounds, 4 poison); a poisoned word that the store covers whole fails no lane. -/
def scrFails (t : Store) (size z : Nat) (op : ScrAcc) (lanes : List (Nat × Int)) (k : Nat) (a : Int) : Bool :=
  match k with
  | 2 => a % z != 0
  | 3 => decide (a < 0) || decide ((size : Int) < a + z)
  | _ => t.poison.any fun w =>
      decide (4 * w < a.toNat + z) && decide (a.toNat < 4 * w + 4) && !(op == .store && coversWord z lanes w)

/-- The trap of the first failing check among `ks` (R150): the failing lanes and the lowest of them. -/
def scrFirst (t : Store) (size z lv : Nat) (op : ScrAcc) (lanes : List (Nat × Int)) : List Nat → Option TrapInfo
  | [] => none
  | k :: ks =>
    match lanes.filter fun l => scrFails t size z op lanes k l.2 with
    | [] => scrFirst t size z lv op lanes ks
    | b :: bs => some
        { code := if k = 2 then 0x04 else if k = 3 then 0x05 else 0x09
          info := BitVec.ofNat 64 (lv + if op.writes then 4 else 0)
          addr := BitVec.ofInt 64 b.2
          lanes := lanesMask ((b :: bs).map (·.1)) }

/-- The checks of R150 on the active lanes. -/
def scrCheck (pad : Option (Store × Nat)) (z lv : Nat) (op : ScrAcc) (lanes : List (Nat × Int)) : Option TrapInfo :=
  match lanes with
  | [] => none
  | l :: ls =>
    match pad with
    | none => some { code := 0x06, info := BitVec.ofNat 64 (lv + if op.writes then 4 else 0), addr := BitVec.ofInt 64 l.2,
                     lanes := lanesMask ((l :: ls).map (·.1)) }
    | some (t, size) => scrFirst t size z lv op (l :: ls) [2, 3, 4]

/-- The active lanes with their addresses (R149). -/
def memLanes (m : MemRef) (base : Int) (G : Gang) (S : PcSlot) (b : Lanes) (act : Mask) : List (Nat × Int) :=
  (maskLanes act).map fun i => (i, laneAddr base m.idx m.sc m.off.value G S b i)

/-- The registers of a destination or a data source of a width. -/
def dataRegs (d : VReg) (w : Width) : List Nat := if w = .x64 then pairRegs d else [d.toNat]

/-- Values loaded by lanes, as a register; lanes without a value keep nothing of it. -/
def lanesFrom (l : List (Nat × Nat)) (sh : Nat) : Lanes := lanesOf fun i => BitVec.ofNat 32 (((assoc l i).getD 0) / 2 ^ sh)

/-- Loaded values in the lanes of a mask of vD, or of the pair (R155, R156). -/
def Gang.putLoad (G : Gang) (d : VReg) (w : Width) (m : Mask) (vals : List (Nat × Nat)) : Gang :=
  let G1 := G.wv d.toNat m (lanesFrom vals 0)
  if w = .x64 then G1.wv (d.toNat + 1) m (lanesFrom vals 32) else G1

/-- A load from the bower is a sample of its latency (R388). -/
def State.loadSample (s : State) (P : Plot) (lv : Nat) : State :=
  if lv = 0 then s.takeFree.2.sample P.core 1 (Config.freeLatency s.takeFree.1) else s

def ldScratch (lv : Nat) (g : Guard) (d : VReg) (m : MemRef) (w : Width) (s : State) : Res :=
  s.vecS none m.idx.reg? none (dataRegs d w) (m.a.toNat :: m.idx.uses) fun x _ b _ G =>
    let act := x.G.active x.S g
    let lanes := memLanes m (x.G.rs x.S m.a).toInt x.G x.S b act
    let pad := s.scratch x.P lv
    match scrCheck pad w.bytes lv .load lanes with
    | some t => s.trap x.P x.G x.sl x.S t
    | none =>
      let st := (pad.map (·.1)).getD Store.empty
      let t := if lanes.isEmpty then s else s.loadSample x.P lv
      t.done x (G.putLoad d w act (lanes.map fun l => (l.1, st.nat l.2.toNat w.bytes))) m.off.len

/-- The data of a store's lane: the register, or the pair. -/
def storeVal (G : Gang) (d : VReg) (w : Width) (a : Lanes) (i : Nat) : Nat :=
  (laneAt a i).toNat + if w = .x64 then 2 ^ 32 * (laneAt (G.vreg (d.toNat + 1)) i).toNat else 0

/-- The lanes of a store, in ascending order; a poisoned word that they cover between them becomes sound (R150, R152). -/
def Store.writeLanes (t : Store) (z : Nat) (lanes : List (Nat × Int)) (val : Nat → Nat) : Store :=
  let t1 := lanes.foldl (fun t l => t.writeN l.2.toNat (leOf z (val l.1))) t
  { t1 with poison := t1.poison.filter fun w => !coversWord z lanes w }

def stScratch (lv : Nat) (g : Guard) (d : HReg) (m : MemRef) (w : Width) (s : State) : Res :=
  s.vecS (some d) m.idx.reg? none (dataRegs d.n w) (m.a.toNat :: m.idx.uses) fun x a b _ G =>
    let lanes := memLanes m (x.G.rs x.S m.a).toInt x.G x.S b (x.G.active x.S g)
    let pad := s.scratch x.P lv
    match scrCheck pad w.bytes lv .store lanes with
    | some t => s.trap x.P x.G x.sl x.S t
    | none =>
      match pad with
      | none => s.done x G m.off.len
      | some (st, _) =>
        (s.setScratch x.P lv (st.writeLanes w.bytes lanes (storeVal x.G d.n w a))).done x G m.off.len

/-- LDU (R157): one address; TLANE0 and TLANE1 read 0 in its traps. -/
def lduScratch (lv : Nat) (d : SReg) (m : MemRef) (w : Width) (s : State) : Res :=
  s.issue [] (d.toNat :: m.a.toNat :: m.idx.uses) fun x =>
    let a := laneAddr (x.G.rs x.S m.a).toInt m.idx m.sc m.off.value x.G x.S lanesZero 0
    let pad := s.scratch x.P lv
    match scrCheck pad w.bytes lv .load [(0, a)] with
    | some t => s.trap x.P x.G x.sl x.S { t with lanes := 0 }
    | none =>
      let st := (pad.map (·.1)).getD Store.empty
      (s.loadSample x.P lv).done x (x.G.ws d (BitVec.ofNat 64 (st.nat a.toNat w.bytes))) m.off.len

def execLdL1 (g : Guard) (d : VReg) (m : MemRef) (w : Width) (s : State) : Res := ldScratch 0 g d m w s
def execLdL2 (g : Guard) (d : VReg) (m : MemRef) (w : Width) (s : State) : Res := ldScratch 1 g d m w s
def execLdL3 (g : Guard) (d : VReg) (m : MemRef) (w : Width) (s : State) : Res := ldScratch 2 g d m w s
def execStL1 (g : Guard) (d : HReg) (m : MemRef) (w : Width) (s : State) : Res := stScratch 0 g d m w s
def execStL2 (g : Guard) (d : HReg) (m : MemRef) (w : Width) (s : State) : Res := stScratch 1 g d m w s
def execStL3 (g : Guard) (d : HReg) (m : MemRef) (w : Width) (s : State) : Res := stScratch 2 g d m w s
def execLduL1 (d : SReg) (m : MemRef) (w : Width) (s : State) : Res := lduScratch 0 d m w s
def execLduL2 (d : SReg) (m : MemRef) (w : Width) (s : State) : Res := lduScratch 1 d m w s
def execLduL3 (d : SReg) (m : MemRef) (w : Width) (s : State) : Res := lduScratch 2 d m w s

/-! ### Atomics (R159) -/

/-- AT.AMAXX: the larger absolute value, a NaN canonical. -/
def amaxx (x y : Word) : Word :=
  if f32.isNan x.toNat || f32.isNan y.toNat then 0x7FC00000
  else maxN (x &&& 0x7FFFFFFF) (y &&& 0x7FFFFFFF)

/-- A 32-bit operation on the low word. -/
def on32 (f : Word → Word → Word) (x y : Word64) : Word64 := (f (x.setWidth 32) (y.setWidth 32)).setWidth 64

/-- f(old, c, e) of R159. -/
def AtomFn.apply (fn : AtomFn) (old c e : Word64) : Word64 :=
  match fn with
  | .add => on32 (fun x y => x + y) old c
  | .minI => on32 Machine.minI old c
  | .maxI => on32 Machine.maxI old c
  | .minN => on32 Machine.minN old c
  | .maxN => on32 Machine.maxN old c
  | .and => on32 (fun x y => x &&& y) old c
  | .or => on32 (fun x y => x ||| y) old c
  | .xor => on32 (fun x y => x ^^^ y) old c
  | .xchg => c
  | .xchg64 => c
  | .cas => if old = e then c else old
  | .cas64 => if old = e then c else old
  | .fadd => on32 addRN old c
  | .amaxx => on32 Machine.amaxx old c

def AtomFn.size (fn : AtomFn) : Nat := if fn.wide then 8 else 4

/-- The operand of a lane: the register, or the pair of the 64-bit forms. -/
def atomVal (G : Gang) (fn : AtomFn) (r : Option HReg) (read : Lanes) (i : Nat) : Word64 :=
  match r with
  | none => 0
  | some r =>
    BitVec.ofNat 64 ((laneAt read i).toNat + if fn.wide then 2 ^ 32 * (laneAt (G.vreg (r.n.toNat + 1)) i).toNat else 0)

/-- One lane of a scratchpad atomic: the storage after it and the old value. -/
def atomLane (fn : AtomFn) (st : Store) (a : Nat) (c e : Word64) : Store × Nat :=
  let old := st.nat a fn.size
  (st.writeN a (leOf fn.size (fn.apply (BitVec.ofNat 64 old) c e).toNat), old)

/-- The lanes of a scratchpad atomic in ascending order: the storage and each lane's old value. -/
def atomLanes (fn : AtomFn) (st : Store) : List AtomLane → Store × List (Nat × Nat)
  | [] => (st, [])
  | l :: ls =>
    let r := atomLane fn st l.addr l.c l.e
    let q := atomLanes fn r.1 ls
    (q.1, (l.lane, r.2) :: q.2)

/-- The vector registers that an atomic names. -/
def atomRegs (fn : AtomFn) (o : AtOps) (f : Option HReg) : List Nat :=
  let one (r : VReg) : List Nat := if fn.wide then pairRegs r else [r.toNat]
  one o.d ++ one o.c.n ++ (match f with | some r => one r.n | none => [])

/-- The active lanes of an atomic with their exact addresses. -/
def atomAddrs (o : AtOps) (base : Int) (G : Gang) (S : PcSlot) (b : Lanes) (act : Mask) : List (Nat × Int) :=
  (maskLanes act).map fun i => (i, laneAddr base o.idx o.sc o.k.toInt G S b i)

/-- The lanes of an atomic with their operands. -/
def atomOps (fn : AtomFn) (o : AtOps) (f : Option HReg) (G : Gang) (c e : Lanes) (lanes : List (Nat × Int)) : List AtomLane :=
  lanes.map fun l => ⟨l.1, l.2.toNat, atomVal G fn (some o.c) c l.1, atomVal G fn f e l.1⟩

/-- The level of a scratchpad space. -/
def spaceLevel : Space → Nat
  | .l1 => 0
  | .l2 => 1
  | _ => 2

def widthOf (fn : AtomFn) : Width := if fn.wide then .x64 else .w4

/-- An atomic in a scratchpad space, its operands read. -/
def scratchAtom (s : State) (fn : AtomFn) (o : AtOps) (f : Option HReg) (x : Issuer) (e b c : Lanes) (G : Gang) : State :=
  let act := x.G.active x.S o.g
  let lv := spaceLevel o.space
  let lanes := atomAddrs o (x.G.rs x.S o.a).toInt x.G x.S b act
  let pad := s.scratch x.P lv
  match scrCheck pad fn.size lv .atomic lanes with
  | some t => s.trap x.P x.G x.sl x.S t
  | none =>
    match pad with
    | none => s.done x G 12
    | some (st, _) =>
      let r := atomLanes fn st (atomOps fn o f x.G c e lanes)
      (s.setScratch x.P lv r.1).done x (G.putLoad o.d (widthOf fn) act r.2) 12

/-! ### SPINFO (R161) -/

def spinfoWord (s : State) (P : Plot) (n : Nat) : Word64 :=
  let w (size span : Nat) : Word64 := BitVec.ofNat 64 (size % 2 ^ 32 + 2 ^ 32 + 2 ^ 33 * span)
  let held (g : Option Grant) (span : Grant → Nat) : Word64 :=
    match g with
    | some g => if (s.pads.find g.pad).isSome then w g.size (span g) else 0
    | none => 0
  match n with
  | 0 => w P.tmpl.l1s P.tmpl.span
  | 1 => held P.pav (·.span)
  | _ => held P.cons fun _ => 0

def execSpinfo (d : SReg) (n : BitVec 2) (s : State) : Res :=
  s.issue [] [d.toNat] fun x => s.done x (x.G.ws d (spinfoWord s x.P n.toNat)) 8

end Sys2Proof.Machine
end

