-- ==== Sys2Proof/Machine/Global.lean ====
section
/-! DEFINITION. Machine/Global.lean: the phase machine (R167 to R184): issued loads, atomics and stores and their steps,
the boundaries and their acknowledgement, WAITC (R82), the fences, the operand log and deferred traps (R327), and the
armed decrement (R70). -/

namespace Sys2Proof.Machine

/-! ### Gates (R169) -/

/-- Every boundary begun before an access was issued is acknowledged. -/
def Gang.pastBoundary (G : Gang) (seq : Nat) : Bool :=
  match G.pend with
  | none => true
  | some b => decide (seq < b.seq)

/-- The issue number of the WAITC that a slot waits in. -/
def PcSlot.waitcSeq (S : PcSlot) : Option Nat :=
  match S.wait with
  | .waitc _ _ _ _ _ q _ => some q
  | _ => none

/-- Every access with acquire order that was issued before is performed. -/
def Gang.pastAcquires (G : Gang) (seq : Nat) : Bool :=
  let w (o : Option PcSlot) : Bool := (o.bind PcSlot.waitcSeq).any fun q => decide (q < seq)
  !(G.loads.any (fun l => l.acq && decide (l.seq < seq)) || G.atoms.any (fun o => o.acq && decide (o.seq < seq)) || w G.a || w G.b)

def meets (a n b m : Nat) : Bool := decide (a < b + m) && decide (b < a + n)

/-- Every earlier load and atomic of the gang to any of the bytes is performed. -/
def Gang.pastBytes (G : Gang) (seq addr n : Nat) : Bool :=
  !(G.loads.any (fun l => decide (l.seq < seq) && l.lanes.any fun e => meets e.2 l.size addr n) ||
    G.atoms.any fun o => decide (o.seq < seq) && o.lanes.any fun e => meets e.addr o.fn.size addr n)

/-- The request is a CHIME. -/
def ChimeReq.rings (c : ChimeReq) : Bool :=
  match c.what with
  | .ring _ _ _ => true
  | _ => false

/-- Every CHIME issued before has taken its step at the hub (R308). -/
def Gang.pastChimes (G : Gang) (seq : Nat) : Bool := !(G.chimes.any fun c => c.rings && decide (c.seq < seq))

/-- No LD.GM.ACQ issued before is outstanding: it holds every later global access, stores and engine accesses too (R179). -/
def Gang.pastAcqLoads (G : Gang) (seq : Nat) : Bool := !(G.loads.any fun l => l.acq && decide (l.seq < seq))

/-- The gates of R169 and R308 for a lane. -/
def Gang.gates (G : Gang) (seq addr n : Nat) : Bool :=
  G.pastBoundary seq && G.pastAcquires seq && G.pastBytes seq addr n && G.pastChimes seq

/-! ### The store buffer (R167, R168, R170) -/

/-- The buffered byte at an address. -/
def Gang.buffered (G : Gang) (a : Nat) : Option Byte :=
  match G.sbuf.find? fun l => l.line == a / 64 with
  | some l => assoc l.bytes (a % 64)
  | none => none

/-- Some byte of a range is held valid in the buffer. -/
def Gang.meetsBuffer (G : Gang) (a n : Nat) : Bool := (List.range n).any fun i => (G.buffered (a + i)).isSome

/-- Writes bytes into an entry of one line. -/
def bufPut (sbuf : List BufLine) (a : Nat) (bs : List Byte) : List BufLine :=
  let put (l : BufLine) : BufLine :=
    { l with bytes := ((List.range bs.length).foldl (fun m i => assocPut m (a % 64 + i) (bs.getD i 0)) l.bytes) }
  if sbuf.any fun l => l.line == a / 64 then sbuf.map fun l => if l.line = a / 64 then put l else l
  else sbuf ++ [put ⟨a / 64, [], none⟩]

/-- The distinct lines of lanes. -/
def linesOf (lanes : List (Nat × Nat × Nat)) : List Nat := (lanes.map fun l => l.2.1 / 64).eraseDups

/-- The lines that find no entry. -/
def Gang.newLines (G : Gang) (lanes : List (Nat × Nat × Nat)) : List Nat :=
  (linesOf lanes).filter fun n => !(G.sbuf.any fun l => l.line == n)

/-- Buffers lanes in ascending order until one needs an entry that is not free: the lanes that are left. -/
def fillBuffer (sbuf : List BufLine) (size : Nat) : List (Nat × Nat × Nat) → List BufLine × List (Nat × Nat × Nat)
  | [] => (sbuf, [])
  | l :: ls =>
    if sbuf.length < 64 || sbuf.any fun x => x.line == l.2.1 / 64 then fillBuffer (bufPut sbuf l.2.1 (leOf size l.2.2)) size ls
    else (sbuf, l :: ls)

/-- The Buffer step of a store, or the implicit boundary that it needs first (R170): the gang and the lanes left. A pending boundary
or an outstanding LD.GM.ACQ holds it (R168, R179). -/
def Gang.bufferStore (G : Gang) (size : Nat) (lanes : List (Nat × Nat × Nat)) : Gang × List (Nat × Nat × Nat) :=
  if G.pend.isSome || G.loads.any (·.acq) then (G, lanes)
  else if (G.newLines lanes).length + G.sbuf.length ≤ 64 then ({ G with sbuf := (fillBuffer G.sbuf size lanes).1 }, [])
  else if (linesOf lanes).length ≤ 64 ∨ !G.sbuf.isEmpty then (G.beginBoundary .implicit, lanes)
  else
    let r := fillBuffer [] size lanes
    (({ G with sbuf := r.1 }).beginBoundary .implicit, r.2)

/-- The storing slot goes as far as it can; every implicit boundary is a sample of 1 (R170, R388). -/
def State.advanceStore (s : State) (P : Plot) (G : Gang) (sl : SlotId) (S : PcSlot) (size len : Nat)
    (lanes : List (Nat × Nat × Nat)) : State :=
  let r := G.bufferStore size lanes
  let s1 := if r.1.pend.isSome && G.pend.isNone then s.sample P.core 8 1 else s
  s1.setGang (if r.2.isEmpty then r.1.setSlot sl (some (S.skip len)) else r.1.block sl S (.store false size len r.2))

/-- The lanes that a slot's store has still to buffer or perform. -/
def PcSlot.storing (S : PcSlot) : Bool :=
  match S.wait with
  | .store _ _ _ _ => true
  | _ => false

def Gang.storing (G : Gang) : Bool := G.a.any PcSlot.storing || G.b.any PcSlot.storing

/-- The other slot waits in FENCE.R: global accesses issued now are performed after the fence (R184). -/
def Gang.fencing (G : Gang) (sl : SlotId) : Bool :=
  (G.slot (otherSlot sl)).any fun S => match S.wait with
    | .fence _ _ _ => true
    | _ => false

/-- A word that accesses global memory: it does not issue while the gang's other slot is in FENCE.R (R184) or has a store with lanes
left to buffer or to perform (R168, R170, R181). -/
def State.global (s : State) (f : State → Res) : Res :=
  match s.issuer with
  | none => .refused .noIssuer
  | some x => if x.G.fencing x.sl || x.G.storing then .next s else f s

/-! ### Loads (R178, R179) -/

def ldGlobal (acq : Bool) (g : Guard) (d : VReg) (m : MemRef) (w : Width) (s : State) : Res :=
  s.global fun s => s.vecS none m.idx.reg? none (dataRegs d w) (m.a.toNat :: m.idx.uses) fun x _ b _ G =>
    let lanes := memLanes m (x.G.rs x.S m.a).toInt x.G x.S b (x.G.active x.S g)
    match s.gmCheck lanes w.bytes .load with
    | some t => s.trap x.P x.G x.sl x.S t
    | none =>
      if lanes.isEmpty then s.done x G m.off.len
      else
        let op : LoadOp := ⟨G.seq, G.seq, x.sl, x.S.pc, acq, if w = .x64 then .pair d else .vec d, w.bytes,
          lanes.map (fun l => (l.1, l.2.toNat)), [], s.ticks⟩
        s.done x { G with loads := G.loads ++ [op] } m.off.len

def execLdGm (g : Guard) (d : VReg) (m : MemRef) (w : Width) (s : State) : Res := ldGlobal false g d m w s
def execLdGmAcq (g : Guard) (d : VReg) (m : MemRef) (w : Width) (s : State) : Res := ldGlobal true g d m w s

def execLduGm (d : SReg) (m : MemRef) (w : Width) (s : State) : Res :=
  s.global fun s => s.issue [] (d.toNat :: m.a.toNat :: m.idx.uses) fun x =>
    let a := laneAddr (x.G.rs x.S m.a).toInt m.idx m.sc m.off.value x.G x.S lanesZero 0
    match s.gmCheck1 a w.bytes .load with
    | some t => s.trap x.P x.G x.sl x.S t
    | none =>
      let op : LoadOp := ⟨x.G.seq, x.G.seq, x.sl, x.S.pc, false, .scl d, w.bytes, [(0, a.toNat)], [], s.ticks⟩
      s.done x { x.G with loads := x.G.loads ++ [op] } m.off.len

/-! ### Stores (R180, R181) -/

def stGlobal (rel : Bool) (g : Guard) (d : HReg) (m : MemRef) (w : Width) (s : State) : Res :=
  s.global fun s => s.vecS (some d) m.idx.reg? none (dataRegs d.n w) (m.a.toNat :: m.idx.uses) fun x a b _ G =>
    let lanes := memLanes m (x.G.rs x.S m.a).toInt x.G x.S b (x.G.active x.S g)
    match s.gmCheck lanes w.bytes .store with
    | some t => s.trap x.P x.G x.sl x.S t
    | none =>
      let vals := lanes.map fun l => (l.1, l.2.toNat, storeVal x.G d.n w a l.1)
      if lanes.isEmpty then s.done x G m.off.len
      else if rel then s.setGang ((G.beginBoundary .rel).block x.sl x.S (.store true w.bytes m.off.len vals))
      else s.advanceStore x.P G x.sl x.S w.bytes m.off.len vals

def execStGm (g : Guard) (d : HReg) (m : MemRef) (w : Width) (s : State) : Res := stGlobal false g d m w s
def execStGmRel (g : Guard) (d : HReg) (m : MemRef) (w : Width) (s : State) : Res := stGlobal true g d m w s

def execPhase (s : State) : Res := s.global fun s => s.issue [] [] fun x => s.done x (x.G.beginBoundary .phase) 8

def execFenceO (s : State) : Res := s.issue [] [] fun x => s.done x x.G 8

/-! ### Atomics (R159, R160, R174) -/

/-- The atomics that a host window serves (R166). -/
def AtomFn.hostOp (fn : AtomFn) : Bool :=
  match fn with
  | .add => true | .xchg => true | .xchg64 => true | .cas => true | .cas64 => true
  | _ => false

/-- A GM atomic, its operands read: REL and AR begin a boundary, and so does one whose bytes are buffered (R171). -/
def globalAtom (s : State) (fn : AtomFn) (o : AtOps) (f : Option HReg) (x : Issuer) (e b c : Lanes) (G : Gang) : State :=
  let lanes := atomAddrs o (x.G.rs x.S o.a).toInt x.G x.S b (x.G.active x.S o.g)
  match s.gmCheck lanes fn.size (.atomic fn.hostOp) with
  | some t => s.trap x.P x.G x.sl x.S t
  | none =>
    if lanes.isEmpty then s.done x G 12
    else
      let acq := o.ord == .acq || o.ord == .ar
      let rel := o.ord == .rel || o.ord == .ar
      let G1 := if rel then G.beginBoundary .atomic
        else if lanes.any fun l => G.meetsBuffer l.2.toNat fn.size then G.beginBoundary .overlap
        else G
      let op : AtomOp := ⟨G.seq, G.seq, x.sl, x.S.pc, acq, fn, o.d, atomOps fn o f x.G c e lanes, [], s.ticks⟩
      s.done x { G1 with atoms := G1.atoms ++ [op] } 12

/-- An atomic in the space that its modifier names. -/
def atomic (fn : AtomFn) (o : AtOps) (f : Option HReg) (s : State) : Res :=
  if o.space = .gm then
    s.global fun s => s.vecS f o.idx.reg? (some o.c) (atomRegs fn o f) (o.a.toNat :: o.idx.uses) fun x e b c G =>
      globalAtom s fn o f x e b c G
  else
    s.vecS f o.idx.reg? (some o.c) (atomRegs fn o f) (o.a.toNat :: o.idx.uses) fun x e b c G => scratchAtom s fn o f x e b c G

def execAtAdd (o : AtOps) (s : State) : Res := atomic .add o none s
def execAtMinI32 (o : AtOps) (s : State) : Res := atomic .minI o none s
def execAtMaxI32 (o : AtOps) (s : State) : Res := atomic .maxI o none s
def execAtMinN32 (o : AtOps) (s : State) : Res := atomic .minN o none s
def execAtMaxN32 (o : AtOps) (s : State) : Res := atomic .maxN o none s
def execAtAnd (o : AtOps) (s : State) : Res := atomic .and o none s
def execAtOr (o : AtOps) (s : State) : Res := atomic .or o none s
def execAtXor (o : AtOps) (s : State) : Res := atomic .xor o none s
def execAtXchg (o : AtOps) (s : State) : Res := atomic .xchg o none s
def execAtXchg64 (o : AtOps) (s : State) : Res := atomic .xchg64 o none s
def execAtCas (o : AtOps) (f : HReg) (s : State) : Res := atomic .cas o (some f) s
def execAtCas64 (o : AtOps) (f : HReg) (s : State) : Res := atomic .cas64 o (some f) s
def execAtFadd (o : AtOps) (s : State) : Res := atomic .fadd o none s
def execAtAmaxx (o : AtOps) (s : State) : Res := atomic .amaxx o none s

/-! ### The operand log and deferred traps (R325 to R327) -/

/-- The operations of a gang that wait on an open fault and use the operand log, oldest first; 0 stands for the decrement of EXIT.D
(R324). -/
def State.waitingOps (s : State) (G : Gang) : List Nat :=
  let isOpen (fs : List Nat) : Bool := fs.any s.faultOpen
  let w (o : Option PcSlot) : List Nat :=
    match o with
    | some S => if S.fid.any s.faultOpen then (S.waitcSeq.map fun q => [q]).getD [] else []
    | none => []
  (G.loads.filter fun l => isOpen l.fids).map (·.id) ++ (G.atoms.filter fun o => isOpen o.fids).map (·.id) ++ w G.a ++ w G.b ++
    (if G.decFid.any s.faultOpen then [0] else [])

/-- An operation that is still there. -/
def Gang.hasOp (G : Gang) (id : Nat) : Bool :=
  G.loads.any (fun l => l.id == id) || G.atoms.any (fun o => o.id == id) || G.a.any (fun S => S.waitcSeq == some id) ||
    G.b.any (fun S => S.waitcSeq == some id) || (id == 0 && G.armed.isSome)

/-- Gives free entries of the log to the operations that wait on a fault. -/
def fillLog (log : List (Nat × Nat)) : List Nat → List (Nat × Nat)
  | [] => log
  | id :: ids =>
    if log.any fun e => e.2 == id then fillLog log ids
    else match (List.range 4).find? fun k => !(log.any fun e => e.1 == k) with
      | some k => fillLog (log ++ [(k, id)]) ids
      | none => log

/-- The operand log after operations have ended or faulted. -/
def State.relog (s : State) (G : Gang) : Gang :=
  { G with oplog := fillLog (G.oplog.filter fun e => G.hasOp e.2) (s.waitingOps G) }

/-- A fault has found the log full: the gang issues no word (R327). -/
def State.logFull (s : State) (G : Gang) : Bool := (s.waitingOps G).any fun id => !(G.oplog.any fun e => e.2 == id)

/-- The log entry of an operation, 7 for none. -/
def Gang.entryOf (G : Gang) (id : Nat) : Nat := ((G.oplog.find? fun e => e.2 == id).map (·.1)).getD 7

/-- A deferred trap joins one of the same operation and cause that has not been taken; the drains of two entries (operation 0) are
two traps. -/
def addDefer (l : List Deferred) (d : Deferred) : List Deferred :=
  if l.any fun e => d.op != 0 && e.op == d.op && e.code == d.code then
    l.map fun e => if e.op = d.op ∧ e.code = d.code then
      { e with lanes := e.lanes ||| d.lanes, fid := if e.fid = 0 then d.fid else e.fid,
               addr := if (maskLanes d.lanes).headD 96 < (maskLanes e.lanes).headD 96 then d.addr else e.addr } else e
  else l ++ [d]

/-- A denial of a gang's access: a deferred trap, or after the last exit a record of TYPE 7 (R327, R70). A denial with a FID has its
record: a verdict has written it (R326), or the walk that gave the denial (R324). -/
def State.denied (s : State) (P : Plot) (G : Gang) (d : Deferred) (acc : Nat) : State :=
  if G.life = .running then s.setGang { G with defer := addDefer G.defer d }
  else if d.fid ≠ 0 then s.setGang G
  else
    (s.setGang G).errRecord P.ctx 0x0002 P.lid
      (leOf 4 d.fid ++ leOf 4 (7 + 16 * acc) ++ leOf 8 d.addr.toNat ++ leOf 8 d.pc.toNat ++
        leOf 4 (whoWord (maskCount d.lanes) ((maskLanes d.lanes).headD 0) G.idx d.slot d.entry))

/-- The trap of a deferred denial (R327): MEMORY_FAULT carries reason 6. -/
def Deferred.info (d : Deferred) : TrapInfo :=
  { code := d.code
    info := BitVec.ofNat 64 (3 + (if d.store then 4 else 0) + (if d.code = 0x07 then 8 * 6 else 0) + 256 + 512 * d.entry + 2 ^ 32 * d.fid)
    addr := d.addr
    lanes := d.lanes }

/-- Takes a deferred trap at the gang's boundary (R327, R343): both slots resume where they stand. -/
def State.takeDeferred (s : State) (P : Plot) (G : Gang) (d : Deferred) : State :=
  if G.inTrap || G.tentry == 0 then (s.setPlot (P.suspend G.idx G.inTrap)).setGang (G.trapState d.info d.slot true)
  else
    State.settled ((s.setPlot (P.withdraw G.idx)).setGang
      (G.trapEntry d.info d.slot true d.pc (G.a.map fun S => S.endWait .trap) (G.b.map fun S => S.endWait .trap))) P.id

/-- A word that polls while it waits, or waits for nothing: it may issue. -/
def Wait.issues : Wait → Bool
  | .none => true
  | .dial .. => true
  | .waitoc => true
  | .rawait => true
  | .sqwait => true
  | .fence .. => true
  | _ => false

/-- A denial has been recorded for an operation of the gang, and its trap is due before any further word (R328). -/
def State.denialDue (s : State) (G : Gang) : Bool :=
  let slotDue (o : Option PcSlot) : Bool := o.any fun S => !S.wait.issues && S.fid.any s.faultDenied
  G.loads.any (fun l => l.lanes.any fun e => (s.deniedAmong l.fids e.2).isSome) ||
    G.atoms.any (fun o => o.lanes.any fun e => (s.deniedAmong o.fids e.addr).isSome) ||
    G.sbuf.any (fun l => l.fid.any s.faultDenied) || slotDue G.a || slotDue G.b

/-- A slot waits at a barrier: no entry is taken then (R309, R407). -/
def Gang.atBarrier (G : Gang) : Bool := G.a.any (fun S => S.wait.atBarrier) || G.b.any fun S => S.wait.atBarrier

/-- The deferred trap that is due at the gang's boundary. A gang inside a store, or at a barrier, is at none (R171, R407). -/
def Gang.deferDue (G : Gang) : Option (Deferred × List Deferred) :=
  match G.defer with
  | d :: ds => if G.life = .running ∧ !G.storing ∧ !G.atBarrier then some (d, ds) else none
  | [] => none

/-- A machine step of a gang on a core, which a halt of its plot for a save does not overtake (R348). -/
def State.onLive (s : State) (p g : Nat) (f : Plot → Gang → State) : Res :=
  match s.plot? p, s.gang? p g with
  | some P, some G => if P.place = .resident ∨ (P.place = .halted ∧ !P.suspended ∧ !P.away) then .next (f P G) else .next s
  | _, _ => .next s

def execDeferredTrap (p g : Nat) (s : State) : Res :=
  s.onLive p g fun P G =>
    match G.deferDue with
    | some (d, ds) => s.takeDeferred P { G with defer := ds } d
    | none => s

/-! ### One lane at the owner -/

/-- An issued access, as its translation and its records see it. -/
structure Access where
  id    : Nat
  slot  : SlotId
  pc    : Word64
  kind  : AccKind
  fids  : List Nat
  lanes : List (Nat × Nat)

/-- How a lane fares at its owner: performed at a place, waiting (on a new fault, if any), or denied with its lanes and the lowest
one's address. -/
inductive LaneEnd where
  | ok (l : Loc)
  | wait (fid : Option Nat)
  | denied (code fid : Nat) (lanes : Mask) (addr : Nat)

/-- The lanes of the access on an address's page of a size. -/
def Access.onPage (o : Access) (addr size : Nat) : List (Nat × Nat) := o.lanes.filter fun l => l.2 / size == addr / size

/-- The address that a record or a trap gives: the lowest lane's on the page, or the page's base for a drain (R325). -/
def Access.lowest (o : Access) (addr size : Nat) : Nat :=
  (((o.onPage addr size).head?).map (·.2)).getD (addr - addr % size)

/-- The lanes of a page are denied. -/
def Access.deny (o : Access) (code fid addr size : Nat) : LaneEnd :=
  .denied code fid (lanesMask ((o.onPage addr size).map (·.1))) (o.lowest addr size)

/-- WHO of the access's record on a page: only loads, atomics, WAITC and EXIT.D use the operand log (R324, R325). -/
def Access.who (o : Access) (P : Plot) (G : Gang) (addr size : Nat) : FaultWho :=
  let page := o.onPage addr size
  ⟨P.lid, whoWord page.length ((page.head?.map (·.1)).getD 0) G.idx o.slot (if o.kind = .store then 7 else G.entryOf o.id), o.pc,
   o.kind.code⟩

/-- Translates a lane of an access; a fault or a malformed entry writes its record (R324, R325). -/
def State.laneAt (s : State) (P : Plot) (G : Gang) (o : Access) (addr : Nat) : LaneEnd × State :=
  let r : Requester := .die (dieOf P.core)
  match s.faultAmong o.fids addr, s.deniedAmong o.fids addr with
  | some _, _ => (.wait none, s)
  | none, some f => (o.deny 0x07 f.fid addr f.size, s)
  | none, none =>
    match s.lookup P.ctx addr o.kind .cores with
    | (.ok l _, s) => (.ok l, s.countAccess P.ctx addr r)
    | (.hold, s) => (.wait none, s)
    | (.absent, s) => (o.deny 0x07 0 addr 65536, s)
    | (.refuse, s) => (o.deny 0x08 0 addr 65536, s)
    | (.fault ty lv, s) =>
      let z := faultSize ty lv
      let log := if o.kind = .store then G.oplog else fillLog G.oplog [o.id]
      let x := s.faultRecord P.ctx (o.lowest addr z) ty lv (o.who P { G with oplog := log } addr z) r []
      (.wait (some x.1), x.2)
    | (.deny ty lv, s) =>
      let x := s.faultRecord P.ctx (o.lowest addr 65536) ty lv (o.who P G addr 65536) r []
      (o.deny 0x07 x.1 addr 65536, x.2)

/-- The deferred trap of denied lanes. -/
def Access.deferred (o : Access) (G : Gang) (code fid addr : Nat) (lanes : Mask) : Deferred :=
  ⟨code, o.id, if code = 0x09 then 7 else G.entryOf o.id, fid, BitVec.ofNat 64 addr, lanes, o.slot, o.pc, o.kind.writes⟩

/-- The bytes of a load: from the buffer where it holds them, else from memory (R168). -/
def Gang.overlay (G : Gang) (addr : Nat) (mem : List Byte) : List Byte :=
  (List.range mem.length).map fun i => (G.buffered (addr + i)).getD (mem.getD i 0)

/-- Every byte of a range is in the buffer. -/
def Gang.allBuffered (G : Gang) (a n : Nat) : Bool := (List.range n).all fun i => (G.buffered (a + i)).isSome

/-- A byte that a read takes from memory, and not from the buffer, lies in a poisoned word (R168, R179). -/
def State.poisonedRead (s : State) (G : Gang) (loc : Loc) (addr n : Nat) : Bool :=
  (List.range n).any fun i => (G.buffered (addr + i)).isNone && s.poisonedLoc (loc.add i) 1

/-! ### GLOBAL_LOAD_PERFORM -/

/-- A load's access at its owner: the lanes that the buffer serves take no part in it (R168). -/
def Gang.loadAccess (G : Gang) (l : LoadOp) : Access :=
  ⟨l.id, l.slot, l.pc, .load, l.fids, l.lanes.filter fun e => !G.allBuffered e.2 l.size⟩

/-- AUTOQ.ST on a record that is not mapped here (R299). -/
def autoStWord (v : Nat) : Word64 := BitVec.ofNat 64 (v % 2 + 2 ^ 16 * (v / 2 ^ 48 % 2 ^ 16))

/-- The load's destination receives a lane's value: in the copy of s56 to s60 that was selected when it issued (R89). -/
def Gang.putLane (G : Gang) (d : LoadDest) (lane v : Nat) : Gang :=
  let m : Mask := BitVec.ofNat 96 (2 ^ lane)
  match d with
  | .vec r => G.wv r.toNat m (Vector.replicate 96 (BitVec.ofNat 32 v))
  | .pair r => (G.wv r.toNat m (Vector.replicate 96 (BitVec.ofNat 32 v))).wv (r.toNat + 1) m
      (Vector.replicate 96 (BitVec.ofNat 32 (v / 2 ^ 32)))
  | .scl r => G.ws r (BitVec.ofNat 64 v)
  | .autoSt r => G.ws r (autoStWord v)
  | .sclSh r => G.wsh r (BitVec.ofNat 64 v)
  | .autoStSh r => G.wsh r (autoStWord v)

/-- The gang's loads with one replaced; a load with no lane left ends. -/
def Gang.setLoad (G : Gang) (l : LoadOp) : Gang :=
  { G with loads := if l.lanes.isEmpty then G.loads.filter fun x => x.id != l.id
                    else G.loads.map fun x => if x.id = l.id then l else x }

/-- A load is complete: its latency is a sample (R388). -/
def State.sampleLoad (s : State) (P : Plot) (l : LoadOp) : State :=
  if l.lanes.isEmpty then s.sample P.core 2 (s.ticks - l.at_) else s

/-- A lane of a load takes its value. -/
def State.finishLane (s : State) (P : Plot) (G : Gang) (l : LoadOp) (lane : Nat) (bs : List Byte) : State :=
  let l1 := { l with lanes := l.lanes.filter fun e => e.1 != lane }
  let G1 := (G.putLane l.dest lane (natOf bs)).setLoad l1
  (s.setGang (s.relog G1)).sampleLoad P l1

/-- The lanes of a mask leave the load unperformed. -/
def LoadOp.drop (l : LoadOp) (m : Mask) : LoadOp := { l with lanes := l.lanes.filter fun e => !m.getLsbD e.1 }

/-- Performs a lane of a load whose gates are open. -/
def State.performLoad (s : State) (P : Plot) (G : Gang) (l : LoadOp) (lane addr : Nat) : State :=
  if G.allBuffered addr l.size then s.finishLane P G l lane (G.overlay addr (List.replicate l.size 0))
  else
    let o := G.loadAccess l
    match s.laneAt P G o addr with
    | (.ok loc, s) =>
      if s.poisonedRead G loc addr l.size then
        let m : Mask := BitVec.ofNat 96 (2 ^ lane)
        let G1 := G.setLoad (l.drop m)
        s.denied P (s.relog G1) (o.deferred G 0x09 0 addr m) o.kind.code
      else s.finishLane P G l lane (G.overlay addr (s.readLoc loc l.size))
    | (.wait (some fid), s) => s.setGang (s.relog (G.setLoad { l with fids := l.fids ++ [fid] }))
    | (.wait none, s) => s
    | (.denied code fid m a, s) =>
      s.denied P (s.relog (G.setLoad (l.drop m))) (o.deferred G code fid a m) o.kind.code

/-- A machine step of a gang's issued accesses, on a core or while the plot halts for a save (R154). -/
def State.onMem (s : State) (p g : Nat) (f : Plot → Gang → State) : Res :=
  match s.plot? p, s.gang? p g with
  | some P, some G => if P.away then .next s else .next (f P G)
  | _, _ => .next s

def execGlobalLoadPerform (p g n lane : Nat) (s : State) : Res :=
  s.onMem p g fun P G =>
    match G.loads.find? fun l => l.id == n with
    | none => s
    | some l =>
      match assoc l.lanes lane with
      | none => s
      | some addr => if G.gates l.seq addr l.size then s.performLoad P G l lane addr else s

/-! ### GM_ATOMIC_PERFORM -/

def AtomOp.access (o : AtomOp) : Access := ⟨o.id, o.slot, o.pc, .atomic, o.fids, o.lanes.map fun l => (l.lane, l.addr)⟩

def Gang.setAtom (G : Gang) (o : AtomOp) : Gang :=
  { G with atoms := if o.lanes.isEmpty then G.atoms.filter fun x => x.id != o.id
                    else G.atoms.map fun x => if x.id = o.id then o else x }

def AtomOp.drop (o : AtomOp) (m : Mask) : AtomOp := { o with lanes := o.lanes.filter fun e => !m.getLsbD e.lane }

/-- One indivisible read-modify-write at the owner (R159). -/
def State.rmw (s : State) (loc : Loc) (fn : AtomFn) (c e : Word64) : Nat × State :=
  let old := natOf (s.readLoc loc fn.size)
  (old, s.writeLoc loc (leOf fn.size (fn.apply (BitVec.ofNat 64 old) c e).toNat))

def State.performAtom (s : State) (P : Plot) (G : Gang) (o : AtomOp) (l : AtomLane) : State :=
  match s.laneAt P G o.access l.addr with
  | (.ok loc, s) =>
    let m : Mask := BitVec.ofNat 96 (2 ^ l.lane)
    if s.poisonedLoc loc o.fn.size then
      s.denied P (s.relog (G.setAtom (o.drop m))) (o.access.deferred G 0x09 0 l.addr m) o.access.kind.code
    else
      let r := s.rmw loc o.fn l.c l.e
      let G1 := (G.putLane (if o.fn.wide then .pair o.dest else .vec o.dest) l.lane r.1).setAtom (o.drop m)
      (r.2.setGang (r.2.relog G1)).fire loc o.fn.size
  | (.wait (some fid), s) => s.setGang (s.relog (G.setAtom { o with fids := o.fids ++ [fid] }))
  | (.wait none, s) => s
  | (.denied code fid m a, s) =>
    s.denied P (s.relog (G.setAtom (o.drop m))) (o.access.deferred G code fid a m) o.access.kind.code

/-- The first lane, in ascending order, that waits on no fault of the gang's oldest atomic. -/
def State.nextAtom (s : State) (G : Gang) : Option (AtomOp × AtomLane) :=
  match G.atoms with
  | [] => none
  | o :: _ => (o.lanes.find? fun l => (s.faultAmong o.fids l.addr).isNone).map fun l => (o, l)

def execGmAtomicPerform (p g : Nat) (s : State) : Res :=
  s.onMem p g fun P G =>
    match s.nextAtom G with
    | none => s
    | some (o, l) => if G.gates o.seq l.addr o.fn.size then s.performAtom P G o l else s

/-! ### BUFFER_DRAIN and the lanes of ST.GM.REL -/

/-- Writes bytes at offsets from a place: a poisoned word that they cover whole becomes sound (R180). -/
def Store.writeSome (t : Store) (a : Nat) (bs : List (Nat × Byte)) : Store :=
  ⟨bs.foldl (fun m b => m.write (a + b.1) b.2) t.mem,
   t.poison.filter fun w => !((List.range 4).all fun i => bs.any fun b => a + b.1 == 4 * w + i)⟩

def State.writeSome (s : State) (l : Loc) (bs : List (Nat × Byte)) : State :=
  match l with
  | .hbm a => { s with hbm := s.hbm.writeSome a bs }
  | .host a => { s with host := s.host.writeSome a bs }
  | .peer a => { s with peers := s.peers.writeSome a bs }

def Gang.setLine (G : Gang) (n : Nat) (l : Option BufLine) : Gang :=
  { G with sbuf := match l with
      | some l => G.sbuf.map fun x => if x.line = n then l else x
      | none => G.sbuf.filter fun x => x.line != n }

/-- The bytes written at offsets from a place fire the watches that they meet (R391). -/
def State.fireSome (s : State) (l : Loc) (bs : List (Nat × Byte)) : State := bs.foldl (fun s b => s.fire (l.add b.1) 1) s

/-- The access of a drain: records and traps carry PC 0 (R325). -/
def drainAccess (l : BufLine) : Access := ⟨0, .A, 0, .store, l.fid.toList, []⟩

/-- One entry is written as a single write of its valid bytes and leaves the buffer (R168). -/
def State.drainLine (s : State) (P : Plot) (G : Gang) (l : BufLine) : State :=
  match s.laneAt P G (drainAccess l) (64 * l.line) with
  | (.ok loc, s) => ((s.writeSome loc l.bytes).setGang (G.setLine l.line none)).fireSome loc l.bytes
  | (.wait (some fid), s) => s.setGang (G.setLine l.line (some { l with fid := some fid }))
  | (.wait none, s) => s
  | (.denied code fid _ _, s) =>
    s.denied P (G.setLine l.line none) ⟨code, 0, 7, fid, BitVec.ofNat 64 (64 * l.line), 0, .A, 0, true⟩ AccKind.store.code

/-- The slot in ST.GM.REL whose boundary is acknowledged, with its next lane; a CHIME or an LD.GM.ACQ issued before comes first
(R179, R308). -/
def Gang.relLane (G : Gang) : Option (SlotId × PcSlot × Nat × Nat × List (Nat × Nat × Nat)) :=
  let f (sl : SlotId) (o : Option PcSlot) : Option (SlotId × PcSlot × Nat × Nat × List (Nat × Nat × Nat)) :=
    match o with
    | some S => match S.wait with
      | .store true size len lanes => some (sl, S, size, len, lanes)
      | _ => none
    | none => none
  if G.pend.isSome || G.chimes.any ChimeReq.rings || G.loads.any (·.acq) then none else (f .A G.a <|> f .B G.b)

/-- The storing slot with its remaining lanes, or past its word. -/
def Gang.relNext (G : Gang) (sl : SlotId) (S : PcSlot) (size len : Nat) (lanes : List (Nat × Nat × Nat)) : Gang :=
  if lanes.isEmpty then G.setSlot sl (some (S.skip len)) else G.block sl S (.store true size len lanes)

/-- Performs the next lane of a ST.GM.REL directly at memory (R181). -/
def State.performRel (s : State) (P : Plot) (G : Gang) (sl : SlotId) (S : PcSlot) (size len : Nat) (l : Nat × Nat × Nat)
    (rest : List (Nat × Nat × Nat)) : State :=
  let o : Access := ⟨G.seq, sl, S.pc, .store, S.fid.toList, (l :: rest).map fun e => (e.1, e.2.1)⟩
  match s.laneAt P G o l.2.1 with
  | (.ok loc, s) => ((s.writeLoc loc (leOf size l.2.2)).setGang (G.relNext sl S size len rest)).fire loc size
  | (.wait (some fid), s) => s.setGang (G.setSlot sl (some { S with fid := some fid }))
  | (.wait none, s) => s
  | (.denied code fid m a, s) =>
    let G1 := G.relNext sl { S with fid := none } size len (rest.filter fun e => !m.getLsbD e.1)
    s.denied P G1 ⟨code, G.seq, 7, fid, BitVec.ofNat 64 a, m, sl, S.pc, true⟩ AccKind.store.code

/-- A drain of an entry of the pending boundary; or, with no boundary pending, the next lane of a ST.GM.REL, which is a
write of its own at that line. -/
def execBufferDrain (p g line : Nat) (s : State) : Res :=
  s.onMem p g fun P G =>
    match G.relLane with
    | some (sl, S, size, len, l :: rest) => if l.2.1 / 64 = line then s.performRel P G sl S size len l rest else s
    | _ =>
      match G.pend, G.sbuf.find? fun l => l.line == line with
      | some b, some l => if G.pastChimes b.seq then s.drainLine P G l else s
      | _, _ => s

/-! ### BOUNDARY_ACKNOWLEDGE, the fences (R183, R184) -/

/-- Every global load that the forced boundary waits for is performed. -/
def Gang.ackReady (G : Gang) (b : Boundary) : Bool :=
  G.sbuf.isEmpty && !(b.kind == .forced && G.loads.any fun l => decide (l.seq < b.seq))

/-- Fences that have forced a gang's boundary see its acknowledgement; a slot whose own boundary it was goes on. -/
def PcSlot.fenceStep (S : PcSlot) (f : Bool → List (Nat × Nat) → List (Nat × Nat)) (own : Bool → Bool) : PcSlot :=
  match S.wait with
  | .fence n o ts => { S with wait := .fence n (own o) (f o ts) }
  | _ => S

/-- Moves the targets with a gang's key from one stage to the next, in every fence of the part that is past its own boundary
(R184). -/
def State.fenceTargets (s : State) (key old new : Nat) : State :=
  let f (own : Bool) (ts : List (Nat × Nat)) : List (Nat × Nat) :=
    if own then ts else ts.map fun t => if t = (key, old) then (key, new) else t
  let go (o : Option PcSlot) : Option PcSlot := o.map fun S => S.fenceStep f id
  { s with gangs := s.gangs.map fun q => (q.1, { q.2 with a := go q.2.a, b := go q.2.b }) }

/-- The gang's own fences have their own boundary acknowledged. -/
def Gang.ownAcked (G : Gang) : Gang :=
  let go (o : Option PcSlot) : Option PcSlot := o.map fun S => S.fenceStep (fun _ ts => ts) fun _ => false
  { G with a := go G.a, b := go G.b }

/-- The store of a slot that waits for a boundary. -/
def PcSlot.stored (S : PcSlot) : Option (Nat × Nat × List (Nat × Nat × Nat)) :=
  match S.wait with
  | .store false size len lanes => some (size, len, lanes)
  | _ => none

/-- The store of a gang that waited for a boundary goes on. -/
def State.resumeStores (s : State) (P : Plot) (G : Gang) : State :=
  let go (sl : SlotId) (o : Option PcSlot) (f : State) : State :=
    match o with
    | none => f
    | some S => match S.stored with
      | some (size, len, lanes) => s.advanceStore P G sl S size len lanes
      | none => f
  go .A G.a (go .B G.b (s.setGang G))

/-- The pending boundary completes (R168). -/
def execBoundaryAcknowledge (p g : Nat) (s : State) : Res :=
  match s.plot? p, s.gang? p g with
  | some P, some G =>
    match G.pend with
    | none => .next s
    | some b =>
      if G.ackReady b then
        let s1 := s.resumeStores P ({ G with pend := none }.ownAcked)
        .next (if b.kind = .forced then s1.fenceTargets (gangKey p g) 1 2 else s1)
      else .next s
  | _, _ => .next s

/-- The scalar registers that a FENCE.R selects by. -/
def selUses (m : FenceSel) : List Nat :=
  match m with
  | .plot a => [a.toNat]
  | .cluster a b => [a.toNat, b.toNat]
  | .all => []

/-- The gangs that a FENCE.R selects (R184). -/
def State.fenceSet (s : State) (x : Issuer) (m : FenceSel) : List Nat :=
  let ok (P : Plot) : Bool :=
    P.ctx == x.P.ctx &&
      match m with
      | .plot a => P.lid == (x.G.rs x.S a).toNat
      | .cluster a b =>
        decide (P.core / 12 = (x.G.rs x.S a).toNat % 32) && (x.G.rs x.S b).getLsbD (coreOf P.core) && P.place != .saved
      | .all => true
  (s.gangs.filter fun q =>
    q.1 != gangKey x.P.id x.G.idx && q.2.life == .running && (s.plot? q.2.plot).any ok).map (·.1)

/-- Every target has acknowledged, or is gone. -/
def State.fenceDone (s : State) (ts : List (Nat × Nat)) : Bool := ts.all fun t => t.2 == 2 || (s.gangs.find t.1).isNone

/-- FENCE.R: its own boundary, then its targets' forced points, then their number. Issued again, it looks whether its
targets have acknowledged. -/
def execFenceR (d : SReg) (m : FenceSel) (s : State) : Res :=
  s.global fun s => s.issue [] (d.toNat :: selUses m) fun x =>
    let finish (n : Nat) (G : Gang) : State := s.done x (G.ws d (BitVec.ofNat 64 n)) 8
    match x.S.wait with
    | .fence n own ts => if !own && s.fenceDone ts then finish n x.G else s.setGang x.G
    | _ =>
      let ts := s.fenceSet x m
      let G := x.G.beginBoundary .fenceOwn
      if G.pend.isNone && ts.isEmpty then finish 0 G
      else s.setGang (G.block x.sl x.S (.fence ts.length G.pend.isSome (ts.map fun t => (t, 0))))

/-- Some fence, past its own boundary, has yet to force the gang. -/
def State.forceDue (s : State) (key : Nat) : Bool :=
  let due (o : Option PcSlot) : Bool :=
    match o with
    | some S => match S.wait with
      | .fence _ own ts => !own && ts.contains (key, 0)
      | _ => false
    | none => false
  s.gangs.any fun q => due q.2.a || due q.2.b

/-- A target begins its forced boundary at an instruction boundary (R184), at which a gang inside a store is not; with nothing to wait
for it is acknowledged at once. -/
def execFenceRForcedPoint (p g : Nat) (s : State) : Res :=
  match s.gang? p g with
  | none => .next s
  | some G =>
    let key := gangKey p g
    if s.forceDue key && G.pend.isNone && !G.storing then
      let b : Boundary := ⟨.forced, G.boundarySeq .forced⟩
      if G.ackReady b then .next (s.fenceTargets key 0 2)
      else .next ((s.setGang { G with pend := some b }).fenceTargets key 0 1)
    else .next s

/-! ### WAITC (R82) -/

def WaitCond.holds (c : WaitCond) (w v : Word64) : Bool :=
  match c with
  | .eq => w == v
  | .ne => w != v
  | .ge => decide (v.toNat ≤ w.toNat)

/-- WAITC: its address is checked, and its slot waits; the reads are WAITC_RECHECK steps, the first included. -/
def waitc (c : WaitCond) (o : WaitcOps) (s : State) : Res :=
  s.global fun s => s.issue [] [o.d.toNat, o.a.toNat, o.b.toNat] fun x =>
    let off : Int := match o.off with
      | .e10 e => e.toInt * 8
      | .k32 k => k.toInt
    let len := match o.off with
      | .e10 _ => 8
      | .k32 _ => 12
    let addr : Int := (x.G.rs x.S o.a).toNat + off
    match s.gmCheck1 addr 8 .load with
    | some t => s.trap x.P x.G x.sl x.S t
    | none =>
      (s.setGang (x.G.block x.sl x.S (.waitc s.ticks addr.toNat c (x.G.rs x.S o.b) o.d x.G.seq len))).settled x.P.id

def execWaitcEq (o : WaitcOps) (s : State) : Res := waitc .eq o s
def execWaitcNe (o : WaitcOps) (s : State) : Res := waitc .ne o s
def execWaitcGe (o : WaitcOps) (s : State) : Res := waitc .ge o s

/-- A read of the waiting word: when the condition holds, the value is written and the slot goes on. -/
def Gang.waitcRead (G : Gang) (sl : SlotId) (S : PcSlot) (c : WaitCond) (v : Word64) (d : SReg) (len : Nat) (bs : List Byte) : Gang :=
  let w := BitVec.ofNat 64 (natOf bs)
  if c.holds w v then (G.ws d w).skip sl len else G.setSlot sl (some { S with fid := none })

def execWaitcRecheck (p g : Nat) (sl : SlotId) (s : State) : Res :=
  s.onSlot p g sl fun P G S =>
    match S.wait with
    | .waitc _ addr c v d seq len =>
      if !G.gates seq addr 8 then s
      else if G.allBuffered addr 8 then
        s.setGang (s.relog (G.waitcRead sl S c v d len (G.overlay addr (List.replicate 8 0))))
      else
        let o : Access := ⟨seq, sl, S.pc, .waitc, S.fid.toList, [(0, addr)]⟩
        match s.laneAt P G o addr with
        | (.ok loc, s) =>
          if s.poisonedRead G loc addr 8 then s.denied P G (o.deferred G 0x09 0 addr 0) AccKind.waitc.code
          else s.setGang (s.relog (G.waitcRead sl S c v d len (G.overlay addr (s.readLoc loc 8))))
        | (.wait (some fid), s) => s.setGang (s.relog (G.setSlot sl (some { S with fid := some fid })))
        | (.wait none, s) => s
        | (.denied code fid _ _, s) => s.denied P G (o.deferred G code fid addr 0) AccKind.waitc.code
    | _ => s

/-! ### ARMED_DECREMENT (R70) -/

/-- The armed atomic decrement; after it, or after its denial, the gang's registers return. -/
def execArmedDecrement (p g : Nat) (s : State) : Res :=
  s.onGang p g fun P G =>
    match G.life, G.armed with
    | .drained, some w =>
      let addr := w.toNat
      let o : Access := ⟨0, G.decSlot, G.decPc, .decrement, G.decFid.toList, [(0, addr)]⟩
      let G0 := { G with armed := none, decFid := none }
      match s.laneAt P G o addr with
      | (.ok loc, s) =>
        if s.poisonedLoc loc 8 then
          (s.denied P G0 (o.deferred G 0x09 0 addr 0) AccKind.decrement.code).returnRegs P G0
        else
          let old := natOf (s.readLoc loc 8)
          ((s.writeLoc loc (leOf 8 (old + (2 ^ 64 - 1)))).returnRegs P (s.relog G0)).fire loc 8
      | (.wait (some fid), s) => s.setGang (s.relog { G with decFid := some fid })
      | (.wait none, s) => s
      | (.denied code fid m a, s) => (s.denied P G0 (o.deferred G code fid a m) AccKind.decrement.code).returnRegs P G0
    | _, _ => s

end Sys2Proof.Machine
end

