-- ==== Sys2Proof/Machine/Chimes.lean ====
section
/-! DEFINITION. Machine/Chimes.lean: the chime words (R313 to R318), a chime's step at the hub (R306, R308) and its
delivery (R309). -/

namespace Sys2Proof.Machine

/-- A word goes to the hub: its destination waits on the scoreboard until the hub has answered (R96, R314, R317). -/
def State.toHub (s : State) (x : Issuer) (d : SReg) (a : HubAct) (len : Nat) : State :=
  s.done x { x.G with chimes := x.G.chimes ++ [⟨x.G.seq, a, d, false⟩] } len

/-- A word that the hub answers as it issues: it waits until the gang's earlier requests have reached the hub. -/
def hubWord (ss : List Nat) (f : State → Issuer → State) (s : State) : Res :=
  match s.issuer with
  | none => .refused .noIssuer
  | some x => if x.G.chimes.isEmpty then s.issue [] ss (f s) else .next s

/-- CHIME goes to the hub; its status returns through the scoreboard (R314). -/
def execChime (d a : SReg) (b : ChPayload) (v : BitVec 6) (s : State) : Res :=
  let uses := match b with
    | .reg r => [r.toNat]
    | .k32 _ => []
  s.issue [] ([d.toNat, a.toNat] ++ uses) fun x =>
    let p : Word := match b with
      | .reg r => (x.G.rs x.S r).setWidth 32
      | .k32 k => k
    let len := match b with
      | .reg _ => 8
      | .k32 _ => 12
    s.toHub x d (.ring ((x.G.rs x.S a).setWidth 32) v.toNat p) len

/-- The status of a chime to a target on this part or on a peer, whose hub this state does not hold (R307, R369). -/
def State.ring (s : State) (P : Plot) (target : Word) (vec : Nat) (payload : Word) : Nat × State :=
  let part := target.toNat / 2 ^ 28
  if part = s.partno then s.chime P.ctx target.toNat vec payload (gangSid s.partno P.lid)
  else if s.domain.contains part then
    let f := s.takeFree
    ((Config.freeResult f.1).toNat % 4, f.2)
  else (stGone, s)

/-- The plot's target. -/
def State.targetOf (s : State) (P : Plot) : Option (Nat × Target) :=
  match P.target with
  | none => none
  | some tid => (s.target? P.ctx tid).map fun t => (tid, t)

/-- A vector as CHINFO.VEC reads it (R318). -/
def Target.vecWord (t : Target) (v : Nat) : Word64 :=
  let e := t.vecs.getD v ChVec.none
  BitVec.ofNat 64 (e.payload.toNat + 2 ^ 32 * e.count + 2 ^ 48 * e.mode.toNat + (if t.pend.getLsbD v then 2 ^ 50 else 0) +
    if t.enable.getLsbD v then 2 ^ 51 else 0)

/-- A change of the plot's target (R317): sD is 0, or 1 with no target. -/
def State.permAtHub (s : State) (P : Plot) (f : Target → Target) : Word64 × State :=
  match s.targetOf P with
  | none => (1, s)
  | some (tid, t) => (0, s.setTarget tid (f t))

/-- A read of the plot's target (R318): 0 with no target. -/
def State.infoAtHub (s : State) (P : Plot) (f : Target → Word64) (after : Target → Target) : Word64 × State :=
  match s.targetOf P with
  | none => (0, s)
  | some (tid, t) => (f t, s.setTarget tid (after t))

/-- A chime to an enabled, pending vector of a plot that is saved makes it runnable; so does its enabling (R310, R317). -/
def State.wakeTarget (s : State) (P : Plot) : State :=
  match s.targetOf P with
  | some (_, t) => if t.due.isSome then s.makeRunnable P.id else s
  | none => s

/-- One step at the hub: the value that sD receives, and the state after it (R306, R317, R318). -/
def State.hubStep (s : State) (P : Plot) (g : Nat) (a : HubAct) : Word64 × State :=
  match a with
  | .ring t v p =>
    let r := s.ring P t v p
    (BitVec.ofNat 64 r.1, r.2)
  | .perm n sid m => s.permAtHub P fun t => { t with perms := t.perms.set n (sid, m) }
  | .mode v m => s.permAtHub P fun t => { t with vecs := t.vecs.set v { t.vecs.getD v ChVec.none with mode := m } }
  | .enable e =>
    let r := s.permAtHub P fun t => { t with enable := e }
    (r.1, r.2.wakeTarget P)
  | .infoPend => s.infoAtHub P (·.pend) id
  | .infoEn => s.infoAtHub P (·.enable) id
  | .infoDeny => s.infoAtHub P (fun t => BitVec.ofNat 64 t.denied) id
  | .infoVec v take => s.infoAtHub P (fun t => t.vecWord v) fun t =>
      if take then { t with pend := t.pend &&& ~~~ ((1 : Word64) <<< v) } else t

/-- The copy of sD that was selected at issue receives the hub's answer (R89, R96). -/
def Gang.answer (G : Gang) (c : ChimeReq) (x : Word64) : Gang := if c.sh then G.wsh c.dest x else G.ws c.dest x

/-- The gang's oldest request takes its step at the hub, a CHIME once the boundaries begun before it are acknowledged (R308). A
gang's requests reach the hub in its issue order. -/
def execChimeStep (p g : Nat) (s : State) : Res :=
  s.onMem p g fun P G =>
    match G.chimes with
    | [] => s
    | c :: cs =>
      if !c.rings || G.pastBoundary c.seq then
        let r := s.hubStep P g c.what
        match r.2.gang? p g with
        | some G1 => r.2.setGang ({ G1 with chimes := cs }.answer c r.1)
        | none => r.2
      else s

/-- CHWAIT parks its slot; in a gang that no chime can reach it costs an issue (R315). -/
def execChwait (s : State) : Res :=
  s.issue [] [] fun x =>
    if x.P.target.isNone ∨ x.P.handler ≠ x.G.idx ∨ x.G.chentry = 0 then s.done x x.G 8
    else (s.setGang (x.G.block x.sl x.S (.chwait s.ticks))).settled x.P.id

/-- CHRET (R316). -/
def execChret (s : State) : Res :=
  s.issue [] [] fun x =>
    match x.G.frames with
    | f :: rest =>
      if f.kind = .chime then (s.setGang (x.G.leave x.P f rest x.G.chpca x.G.chpcb)).settled x.P.id
      else s.trap x.P x.G x.sl x.S (illegalTrap 0x01 x.S.pc)
    | [] => s.trap x.P x.G x.sl x.S (illegalTrap 0x01 x.S.pc)

/-- CHPERM.DES, one step at the hub as it issues (R317, log 54): the id of the target that the gang is; all ones where another gang is
it; with no target the check of the address, then a designation with the issuer as handler gang, if an index is left. -/
def execChpermDes (d a : SReg) (s : State) : Res :=
  hubWord [d.toNat, a.toNat] (fun s x =>
    let addr := (x.G.rs x.S a).toNat
    match x.P.target with
    | some tid => s.done x (x.G.ws d (if x.P.handler = x.G.idx then BitVec.ofNat 64 tid else BitVec.allOnes 64)) 8
    | none =>
      match s.gmCheck1 addr 2048 .load, s.nextTid x.P.ctx with
      | some t, _ => s.trap x.P x.G x.sl x.S t
      | none, none => s.done x (x.G.ws d (BitVec.ofNat 64 (2 ^ 64 - 2))) 8
      | none, some tid => (s.designate x.P x.G.idx addr tid).done x (x.G.ws d (BitVec.ofNat 64 tid)) 8) s

def execChpermSet (d a b : SReg) (n : BitVec 5) (s : State) : Res :=
  s.issue [] [d.toNat, a.toNat, b.toNat] fun x =>
    s.toHub x d (.perm n.toNat ((x.G.rs x.S a).setWidth 24) (x.G.rs x.S b)) 8

def execChpermVec (d a : SReg) (v : BitVec 6) (s : State) : Res :=
  s.issue [] [d.toNat, a.toNat] fun x => s.toHub x d (.mode v.toNat ((x.G.rs x.S a).setWidth 2)) 8

def execChpermEn (d a : SReg) (s : State) : Res :=
  s.issue [] [d.toNat, a.toNat] fun x => s.toHub x d (.enable (x.G.rs x.S a)) 8

def execChinfoPend (d : SReg) (s : State) : Res := s.issue [] [d.toNat] fun x => s.toHub x d .infoPend 8
def execChinfoEn (d : SReg) (s : State) : Res := s.issue [] [d.toNat] fun x => s.toHub x d .infoEn 8
def execChinfoDeny (d : SReg) (s : State) : Res := s.issue [] [d.toNat] fun x => s.toHub x d .infoDeny 8
def execChinfoVec (d : SReg) (v : BitVec 6) (s : State) : Res := s.issue [] [d.toNat] fun x => s.toHub x d (.infoVec v.toNat false) 8
def execChinfoVecTake (d : SReg) (v : BitVec 6) (s : State) : Res :=
  s.issue [] [d.toNat] fun x => s.toHub x d (.infoVec v.toNat true) 8

/-- The chime that the gang takes at its boundary now (R309): a deferred trap that is due, or a denial that will give one, goes
first (R327, R328, R348), and a gang inside a store is at no boundary. -/
def State.chimeNow (s : State) (P : Plot) (G : Gang) : Option (Nat × Target × Nat) :=
  if G.storing || !G.defer.isEmpty || s.denialDue G then none else s.chimeDue P G

/-- A due chime is delivered at the handler gang's boundary (R309); a deferred trap that is due goes first (R348). -/
def execChimeDelivery (p g : Nat) (s : State) : Res :=
  s.onLive p g fun P G =>
    match s.chimeNow P G with
    | some (tid, t, v) => s.deliver P G tid t v
    | none => s

end Sys2Proof.Machine
end

