-- ==== Sys2Proof/Machine/Dials.lean ====
section
/-! DEFINITION. Machine/Dials.lean: dials, their pieces and the operation tables (R249 to R265), computed exactly over
rational bounds. -/

namespace Sys2Proof.Machine

/-- An extended rational: n / d, and the infinities with d = 0. -/
structure ExtQ where
  n : Int
  d : Nat
  deriving DecidableEq, Repr

def ExtQ.lt (a b : ExtQ) : Bool :=
  if a.d = 0 ∧ b.d = 0 then decide (a.n < b.n) else decide (a.n * b.d < b.n * a.d)

def ExtQ.eq (a b : ExtQ) : Bool := !a.lt b && !b.lt a

def ExtQ.neg (a : ExtQ) : ExtQ := ⟨-a.n, a.d⟩

/-- Sum of two bounds of the same side. -/
def ExtQ.add (a b : ExtQ) : ExtQ := if a.d = 0 then a else if b.d = 0 then b else ⟨a.n * b.d + b.n * a.d, a.d * b.d⟩

/-- Product and quotient of bounds that are not negative; a quotient by 0 is ∞. -/
def ExtQ.mul (a b : ExtQ) : ExtQ := ⟨a.n * b.n, a.d * b.d⟩
def ExtQ.div (a b : ExtQ) : ExtQ := ⟨a.n * b.d, a.d * b.n.toNat⟩

/-- A set of reals between two bounds, each in the set or not. -/
structure Span where
  lo : ExtQ
  lc : Bool
  hi : ExtQ
  hc : Bool
  deriving DecidableEq, Repr

/-- Two non-empty spans meet. -/
def Span.meets (a b : Span) : Bool :=
  (a.lo.lt b.hi || (a.lo.eq b.hi && a.lc && b.hc)) && (b.lo.lt a.hi || (b.lo.eq a.hi && b.lc && a.hc))

def Span.neg (a : Span) : Span := ⟨a.hi.neg, a.hc, a.lo.neg, a.lc⟩

/-- The value of a mark (a normal positive FP32 pattern). -/
def markValue (w : Word) : ExtQ :=
  let e := w.toNat / 2 ^ 23
  ⟨((2 ^ 23 + w.toNat % 2 ^ 23) * 2 ^ (e - 1) : Nat), 2 ^ 149⟩

/-- m0 = 0, m1 to m7, and m8 = ∞. -/
def Marks.bound (m : Marks) (k : Nat) : ExtQ :=
  if k = 0 then ⟨0, 1⟩ else if 8 ≤ k then ⟨1, 0⟩ else markValue (m.getD (k - 1) 0)

/-- Pieces 0 to 15 (R249). -/
def Marks.posPiece (m : Marks) (k : Nat) : Span :=
  if k % 2 = 0 then ⟨m.bound (k / 2), true, m.bound (k / 2), true⟩
  else ⟨m.bound (k / 2), false, m.bound (k / 2 + 1), false⟩

/-- Negation of a piece (R250). -/
def negPiece (k : Nat) : Nat := (32 - k) % 32

/-- The real set of a piece other than 16. -/
def Marks.piece (m : Marks) (k : Nat) : Span := if k < 16 then m.posPiece k else (m.posPiece (negPiece k)).neg

def bit32 (k : Nat) : Word := BitVec.ofNat 32 (2 ^ k)

/-- The pieces among `ks` that meet a span. -/
def Marks.meeting (m : Marks) (sp : Span) (ks : List Nat) : Word :=
  ks.foldl (fun w k => if (m.piece k).meets sp then w ||| bit32 k else w) 0

def realPieces : List Nat := (List.range 32).filter fun k => k != 16

/-- Bit p of the result is bit (32 - p) mod 32 of the set. -/
def negSet (a : Word) : Word :=
  (List.range 32).foldl (fun w k => if a.getLsbD k then w ||| bit32 (negPiece k) else w) 0

def wholeRing : Word := 0xFFFFFFFF

/-- T[add] (R259, R260). -/
def Marks.tAdd (m : Marks) (i j : Nat) : Word :=
  if i = 16 ∧ j = 16 then wholeRing
  else if i = 16 ∨ j = 16 then bit32 16
  else
    let a := m.piece i
    let b := m.piece j
    m.meeting ⟨a.lo.add b.lo, a.lc && b.lc, a.hi.add b.hi, a.hc && b.hc⟩ realPieces

/-- T[sub] (R261). -/
def Marks.tSub (m : Marks) (i j : Nat) : Word := m.tAdd i (negPiece j)

/-- The magnitude of a piece: a piece of 0 to 16. -/
def magPiece (k : Nat) : Nat := if k ≤ 16 then k else 32 - k

/-- The sign of a product or quotient of pieces put on a set of magnitudes. -/
def signed32 (i j : Nat) (w : Word) : Word := if (decide (16 < i)) != (decide (16 < j)) then negSet w else w

/-- The pieces of positive reals that meet a span. -/
def posPieces : List Nat := (List.range 15).map (· + 1)

/-- T[mul]. -/
def Marks.tMul (m : Marks) (i j : Nat) : Word :=
  if (i = 0 ∧ j = 16) ∨ (i = 16 ∧ j = 0) then wholeRing
  else if i = 0 ∨ j = 0 then bit32 0
  else if i = 16 ∨ j = 16 then bit32 16
  else
    let a := m.posPiece (magPiece i)
    let b := m.posPiece (magPiece j)
    signed32 i j (m.meeting ⟨a.lo.mul b.lo, a.lc && b.lc, a.hi.mul b.hi, a.hc && b.hc⟩ posPieces)

/-- The quotient of two spans of positive reals. -/
def Span.quot (a b : Span) : Span := ⟨a.lo.div b.hi, a.lc && b.hc, a.hi.div b.lo, a.hc && b.lc⟩

/-- T[div]. -/
def Marks.tDiv (m : Marks) (i j : Nat) : Word :=
  if (i = 0 ∧ j = 0) ∨ (i = 16 ∧ j = 16) then wholeRing
  else if j = 0 ∨ i = 16 then bit32 16
  else if j = 16 ∨ i = 0 then bit32 0
  else signed32 i j (m.meeting ((m.posPiece (magPiece i)).quot (m.posPiece (magPiece j))) posPieces)

/-- U[rcp]. -/
def Marks.uRcp (m : Marks) (i : Nat) : Word :=
  if i = 0 then bit32 16
  else if i = 16 then bit32 0
  else signed32 6 i (m.meeting (Span.quot ⟨⟨1, 1⟩, true, ⟨1, 1⟩, true⟩ (m.posPiece (magPiece i))) posPieces)

/-- U[sqr]. -/
def Marks.uSqr (m : Marks) (i : Nat) : Word := m.tMul (magPiece i) (magPiece i)

/-- The pieces of a set. -/
def setPieces (a : Word) : List Nat := (List.range 32).filter fun k => a.getLsbD k

/-- The union of the table entries over two sets (R269). -/
def setBin (t : Nat → Nat → Word) (a b : Word) : Word :=
  (setPieces a).foldl (fun r i => (setPieces b).foldl (fun r j => r ||| t i j) r) 0

def setUn (u : Nat → Word) (a : Word) : Word := (setPieces a).foldl (fun r i => r ||| u i) 0

/-! ### Hull and conversions -/

/-- The pieces START, …, START + COUNT - 1 of an SRC16 value; a malformed one is the whole ring (R258). -/
def srcExpand (w : Nat) : Word :=
  if srcBad w then wholeRing
  else (List.range (w / 32 % 64)).foldl (fun r k => r ||| bit32 ((w % 32 + k) % 32)) 0

/-- The length of the run of clear bits that precedes piece s on the ring. -/
def gapBefore (a : Word) (s : Nat) : Nat → Nat
  | 0 => 0
  | n + 1 => if a.getLsbD ((s + 31) % 32) then 0 else 1 + gapBefore a ((s + 31) % 32) n

/-- The hull of a set in SRC16 (R262). -/
def hull (a : Word) : Nat :=
  if a = 0 then 0
  else if a = wholeRing then 0x0400
  else
    let best := (setPieces a).foldl (fun (q : Nat × Nat) s => if q.1 < gapBefore a s 32 then (gapBefore a s 32, s) else q) (0, 0)
    (32 - best.1) * 32 + best.2

/-- The piece of a magnitude pattern that is finite and not 0. -/
def Marks.arcOf (m : Marks) (p : Nat) : Nat :=
  let below := (m.filter fun w => decide (w.toNat < p)).length
  if m.any fun w => w.toNat == p then 2 * (below + 1) else 2 * below + 1

/-- The piece of an FP32 value other than NaN (R263). -/
def Marks.pieceOf (m : Marks) (x : Word) : Nat :=
  let p := x.toNat % 2 ^ 31
  if p = 0 then 0
  else if p = 0x7F800000 then 16
  else if x.getLsbD 31 then negPiece (m.arcOf p) else m.arcOf p

def Marks.fromValue (m : Marks) (x : Word) : Word := if f32.isNan x.toNat then 0 else bit32 (m.pieceOf x)

/-- The place of a real piece on the line from −∞ to +∞. -/
def linePos (k : Nat) : Nat := (k + 15) % 32

/-- R264. -/
def Marks.fromArc (m : Marks) (lo hi : Word) : Word :=
  if f32.isNan lo.toNat || f32.isNan hi.toNat || decide (f32.key hi.toNat < f32.key lo.toNat) then 0
  else
    let inf (x : Word) : Bool := x.toNat % 2 ^ 31 == 0x7F800000
    let lowInf := inf lo && lo.getLsbD 31
    let highInf := inf hi && !hi.getLsbD 31
    let from_ := if lowInf then 0 else if inf lo then 31 else linePos (m.pieceOf lo)
    let upto := if highInf then 31 else if inf hi then 0 else linePos (m.pieceOf hi) + 1
    let reals := (realPieces.filter fun k => decide (from_ ≤ linePos k) && decide (linePos k < upto)).foldl
      (fun w k => w ||| bit32 k) 0
    if lowInf || highInf then reals ||| bit32 16 else reals

/-- The FP32 pattern of m0 to m8. -/
def Marks.pattern (m : Marks) (k : Nat) : Word :=
  if k = 0 then 0 else if 8 ≤ k then 0x7F800000 else m.getD (k - 1) 0

/-- A bound with its sign; a zero bound is +0.0 (R265). -/
def signBound (neg : Bool) (w : Word) : Word := if neg ∧ w ≠ 0 then w ||| 0x80000000 else w

/-- The infimum and the supremum of a real piece. -/
def Marks.inf (m : Marks) (k : Nat) : Word :=
  if k < 16 then m.pattern (k / 2) else signBound true (m.pattern ((negPiece k + 1) / 2))

def Marks.sup (m : Marks) (k : Nat) : Word :=
  if k < 16 then m.pattern ((k + 1) / 2) else signBound true (m.pattern (negPiece k / 2))

/-- The real pieces of a set along the line. -/
def lineOrder (a : Word) : List Nat := (((List.range 31).map fun p => (p + 17) % 32)).filter fun k => a.getLsbD k

/-- The lower bound of R265. -/
def Marks.low (m : Marks) (a : Word) : Word :=
  if a = 0 then 0x7FC00000
  else if a.getLsbD 16 then 0xFF800000
  else m.inf ((lineOrder a).headD 0)

/-- The upper bound. -/
def Marks.high (m : Marks) (a : Word) : Word :=
  if a = 0 then 0x7FC00000
  else if a.getLsbD 16 then 0x7F800000
  else m.sup ((lineOrder a).getLastD 0)

/-! ### Records and tags -/

/-- The marks of a record (R251). -/
def marksOf (rec : List Byte) : Marks := (List.range 7).map fun k => BitVec.ofNat 32 (fieldAt rec (4 * k) 4)

/-- The tag of a dial (R252). -/
def Marks.tag (m : Marks) : Nat := 1 + (m.flatMap fun w => (leOf 4 w.toNat).map (·.toNat)).sum % 255

def markGood (w : Word) : Bool := decide (0x00800000 ≤ w.toNat) && decide (w.toNat < 0x7F800000)

def ascending : List Word → Bool
  | a :: b :: l => decide (a.toNat < b.toNat) && ascending (b :: l)
  | _ => true

/-- The checks of DIALLD on a record (R267). -/
def dialBad (rec : List Byte) : Option Nat :=
  if !(marksOf rec).all markGood then some 1
  else if !ascending (marksOf rec) then some 2
  else if fieldAt rec 28 4 ≠ 0 then some 3
  else none

end Sys2Proof.Machine
end

