-- ==== Sys2Proof/Machine/DialWords.lean ====
section
/-! DEFINITION. Machine/DialWords.lean: range I (R253 to R256, R266 to R273) and DIAL_COMPILE_COMPLETE. -/

namespace Sys2Proof.Machine

/-- DIAL_INVALID (R267). -/
def dialTrap (reason k : Nat) (off : Int) : TrapInfo :=
  { code := 0x0B, info := BitVec.ofNat 64 (reason + 256 * k), addr := BitVec.ofInt 64 off }

/-- The slot holds the dial (R254). A compile that waits in the queue has not begun (R255): it takes the step that ends it. -/
def Core.holdsDial (c : Core) (k : Nat) (m : Marks) : Bool := c.dials.toList.getD k none == some m

/-- The word waits for the slot to hold the dial: a compile is requested once. -/
def State.awaitDial (s : State) (x : Issuer) (k : Nat) (m : Marks) : State :=
  let c := s.core x.P.core
  let c1 := if c.compile.contains (k, m) || c.holdsDial k m then c else { c with compile := c.compile ++ [(k, m)] }
  (s.setCore x.P.core c1).setGang (x.G.block x.sl x.S (.dial k m))

/-- A word that names dial slot k: the binding check, then the wait for the slot, then its effect with the dial in use. -/
def State.withDial (s : State) (x : Issuer) (k : DReg) (f : Marks → State) : State :=
  match x.P.dials[k.toNat] with
  | none => s.trap x.P x.G x.sl x.S (dialTrap 4 k.toNat 0)
  | some m => if (s.core x.P.core).holdsDial k.toNat m then f m else s.awaitDial x k.toNat m

/-- A slot of the gang waits for the dial that a dial slot now holds, and nothing keeps its word from issuing. -/
def State.dialWanted (s : State) (core k : Nat) (G : Gang) : Bool :=
  let wants (o : Option PcSlot) : Bool := o.any fun S => match S.wait with
    | .dial j m => j == k && (s.core core).holdsDial k m
    | _ => false
  (s.plot? G.plot).any (fun P => P.core == core && P.place == .resident) && G.life == .running && !s.logFull G &&
    (wants G.a || wants G.b)

/-- The compile at the head of a slot's queue ends; a dial that the slot already holds is not compiled again (R255). A dial that
was compiled for a word that waits is not replaced before that word has issued. -/
def execDialCompileComplete (core : Nat) (k : DReg) (s : State) : Res :=
  let c := s.core core
  match c.compile.find? fun q => q.1 == k.toNat with
  | none => .next s
  | some q =>
    if s.gangs.any fun g => s.dialWanted core k.toNat g.2 then .next s
    else .next (s.setCore core { c with dials := c.dials.set k.toNat (some q.2), compile := c.compile.erase q })

def execDialld (d : DReg) (a : SReg) (e : BitVec 10) (s : State) : Res :=
  s.issue [] [a.toNat] fun x =>
    let off := bowerOff x a e 32
    match bowerTrap x.P off 32 32 false 0 with
    | some t => s.trap x.P x.G x.sl x.S t
    | none =>
      if x.P.bower.poisoned off.toNat 32 then s.trap x.P x.G x.sl x.S { code := 0x09, addr := BitVec.ofInt 64 off }
      else
        let rec_ := x.P.bower.readN off.toNat 32
        match dialBad rec_ with
        | some r => s.trap x.P x.G x.sl x.S (dialTrap r d.toNat off)
        | none =>
          let m := marksOf rec_
          if (s.core x.P.core).holdsDial d.toNat m then
            (s.setPlot { x.P with dials := x.P.dials.set d.toNat (some m) }).done x x.G 8
          else s.awaitDial x d.toNat m

/-- The binding state of a slot (R268). -/
def dialqWord (c : Core) (b : Option Marks) (k : Nat) : Word64 :=
  match b with
  | none => 0
  | some m => BitVec.ofNat 64 (m.tag * 256 + (if c.dials.toList.getD k none == some m then 2 else 0) + 1)

def execDialq (d : SReg) (a : DReg) (s : State) : Res :=
  s.issue [] [d.toNat] fun x => s.done x (x.G.ws d (dialqWord (s.core x.P.core) x.P.dials[a.toNat] a.toNat)) 8

/-- A lane-wise word on the dial in use. -/
def dialWord (g : Guard) (d : VReg) (a : HReg) (b : Option HReg) (k : DReg) (f : Marks → Word → Word → Word) (s : State) : Res :=
  s.vecS (some a) b none [d.toNat] [] fun x av bv _ G =>
    s.withDial x k fun m => s.done x (G.wv d.toNat (x.G.active x.S g) (lanes2 (f m) av bv)) 8

def execDsadd (o : V2) (c : DReg) (s : State) : Res := dialWord o.g o.d o.a (some o.b) c (fun m => setBin m.tAdd) s
def execDssub (o : V2) (c : DReg) (s : State) : Res := dialWord o.g o.d o.a (some o.b) c (fun m => setBin m.tSub) s
def execDsmul (o : V2) (c : DReg) (s : State) : Res := dialWord o.g o.d o.a (some o.b) c (fun m => setBin m.tMul) s
def execDsdiv (o : V2) (c : DReg) (s : State) : Res := dialWord o.g o.d o.a (some o.b) c (fun m => setBin m.tDiv) s
def execDsneg (o : VUn) (s : State) : Res := vecUn o negSet s
def execDsrcp (o : VUn) (c : DReg) (s : State) : Res := dialWord o.g o.d o.a none c (fun m x _ => setUn m.uRcp x) s
def execDssqr (o : VUn) (c : DReg) (s : State) : Res := dialWord o.g o.d o.a none c (fun m x _ => setUn m.uSqr x) s
def execDsuni (o : V2) (s : State) : Res := vec2 o (fun a b => a ||| b) s
def execDsint (o : V2) (s : State) : Res := vec2 o (fun a b => a &&& b) s
def execDscpl (o : VUn) (s : State) : Res := vecUn o (fun a => ~~~ a) s
def execDshull (o : VUn) (s : State) : Res := vecUn o (fun a => BitVec.ofNat 32 (hull a)) s
def execDsexp (o : VUn) (s : State) : Res := vecUn o (fun a => srcExpand (a.toNat % 65536)) s
def execDsfrom (o : VUn) (c : DReg) (s : State) : Res := dialWord o.g o.d o.a none c (fun m x _ => m.fromValue x) s
def execDsfromArc (o : V2) (c : DReg) (s : State) : Res := dialWord o.g o.d o.a (some o.b) c (fun m => m.fromArc) s
def execDslo (o : VUn) (c : DReg) (s : State) : Res := dialWord o.g o.d o.a none c (fun m x _ => m.low x) s
def execDshi (o : VUn) (c : DReg) (s : State) : Res := dialWord o.g o.d o.a none c (fun m x _ => m.high x) s

/-- DIAL_MISMATCH (R271). -/
def mismatchTrap (reason scale tag : Nat) (off : Int) : TrapInfo :=
  { code := 0x0C, info := BitVec.ofNat 64 (reason + 256 * scale + 65536 * tag), addr := BitVec.ofInt 64 off }

/-- The trap of a dial-set block, by R123 and R271. -/
def dialBlockTrap (bs : List Byte) (m : Marks) (off : Int) : Option TrapInfo :=
  let scale := (bs.getD 1 0).toNat
  match blkCheck bs anyFmt with
  | some r => some (blockTrap r off)
  | none =>
    if blkFmt bs < 0x10 then some (mismatchTrap 2 scale m.tag off)
    else if scale ≠ m.tag then some (mismatchTrap 1 scale m.tag off)
    else none

/-- The SR32 value of an element, 0 past the capacity. -/
def dialElem (bs : List Byte) (i : Nat) : Word :=
  if blkCap (blkFmt bs) ≤ i then 0
  else if blkFmt bs = 0x10 then srcExpand (blkRaw bs i) else BitVec.ofNat 32 (blkRaw bs i)

def execDsexpBlock (g : Guard) (d : VReg) (a : SReg) (c : DReg) (e : BitVec 10) (s : State) : Res :=
  s.issue [d.toNat] [a.toNat] fun x =>
    s.withDial x c fun m =>
      let act := x.G.active x.S g
      let off := bowerOff x a e 64
      if act = 0 then s.done x x.G 8
      else
        match bowerTrap x.P off 64 64 false act with
        | some t => s.trap x.P x.G x.sl x.S t
        | none =>
          if x.P.bower.poisoned off.toNat 64 then
            s.trap x.P x.G x.sl x.S { code := 0x09, addr := BitVec.ofInt 64 off, lanes := act }
          else
            let bs := x.P.bower.readN off.toNat 64
            match dialBlockTrap bs m off with
            | some t => s.trap x.P x.G x.sl x.S t
            | none => s.done x (x.G.wv d.toNat act (lanesOf (dialElem bs))) 8

/-- DSTEST (R273). -/
def setTest (g : Guard) (d : PReg) (a b : HReg) (t : Word → Word → Bool) (s : State) : Res :=
  s.vec 8 (some a) (some b) none [] [] fun x av bv _ G =>
    G.wpIn d (x.G.active x.S g) (maskOf fun i => t (Machine.laneAt av i) (Machine.laneAt bv i))

def execDstestMeet (g : Guard) (d : PReg) (a b : HReg) (s : State) : Res := setTest g d a b (fun x y => x &&& y != 0) s
def execDstestIn (g : Guard) (d : PReg) (a b : HReg) (s : State) : Res := setTest g d a b (fun x y => x &&& ~~~ y == 0) s

def execDsredUni (g : Guard) (d : SReg) (a : HReg) (s : State) : Res := reduce g d a redOr s
def execDsredInt (g : Guard) (d : SReg) (a : HReg) (s : State) : Res := reduce g d a redAnd s

end Sys2Proof.Machine
end

