-- ==== Sys2Proof/Machine/Tiles.lean ====
section
/-! DEFINITION. Machine/Tiles.lean: tile registers and shapes, and the gang-side words of range H (R223 to R236). -/

namespace Sys2Proof.Machine

/-! ### Shapes (R224, R225) -/

def shTfmt (w : Word) : Nat := w.toNat % 16
def shRows (w : Word) : Nat := w.toNat / 16 % 256
def shCols (w : Word) : Nat := w.toNat / 4096 % 512

/-- The bytes of a unit of a tile format; 0 for a reserved one. -/
def unitBytes (f : Nat) : Nat :=
  match f with
  | 1 => 4 | 2 => 2 | 3 => 2 | 4 => 64 | 5 => 64 | 6 => 64 | 7 => 64 | _ => 0

/-- A valid shape. -/
def shapeOk (w : Word) : Bool :=
  let f := shTfmt w
  unitBytes f != 0 && w.toNat / 2 ^ 21 == 0 && decide (1 ≤ shRows w) && decide (shRows w ≤ 128) && decide (1 ≤ shCols w) &&
    decide (shCols w ≤ if f < 4 then 256 else 16) && decide (shRows w * shCols w * unitBytes f ≤ 16384)

/-- The block FMT that a block tile format demands. -/
def blockFmt (f : Nat) : Nat := f - 3

def Tile.fresh : Tile := ⟨0, []⟩

/-- A tile locator (R230). DESIGN CHOICE (log 58): a tile number at or above 16, which GMMA's group B can name, and a byte offset at
or above 16,384 do not fit the field and are reported modulo its size. -/
def tileLoc (t off : Nat) : Word64 := BitVec.ofNat 64 (2 ^ 63 + 65536 * (t % 16) + off % 16384)

/-- TILE_SHAPE with its reason and locator. TLANE0 and TLANE1 are 0 where no single lane fails: at a tile number, and at the shape, format
and column checks of TRD.T (DESIGN CHOICE, log 58). -/
def tileTrap (reason t off : Nat) (lanes : Mask := 0) : TrapInfo :=
  { code := 0x11, info := BitVec.ofNat 64 reason, addr := tileLoc t off, lanes := lanes }

def Plot.tile? (P : Plot) (t : TReg) : Option Tile := P.tiles[t.toNat]?
def Plot.setTile (P : Plot) (t : TReg) (x : Tile) : Plot := { P with tiles := P.tiles.set t.toNat x }

/-! ### MOVTS, TWR, TRD, TRD.T, TZERO (R232, R233) -/

def shapeLen (b : ShapeSrc) : Nat :=
  match b with
  | .reg _ => 8
  | .k32 _ => 12

def execMovts (d : TReg) (b : ShapeSrc) (s : State) : Res :=
  let uses := match b with
    | .reg a => [a.toNat]
    | .k32 _ => []
  s.issue [] uses fun x =>
    match x.P.tile? d with
    | none => s.trap x.P x.G x.sl x.S (tileTrap 1 d.toNat 0)
    | some T =>
      let v : Word64 := match b with
        | .reg a => x.G.rs x.S a
        | .k32 k => k.setWidth 64
      if 2 ^ 32 ≤ v.toNat ∨ !shapeOk (v.setWidth 32) then s.trap x.P x.G x.sl x.S (tileTrap 3 d.toNat 0)
      else (s.setPlot (x.P.setTile d { T with shape := v.setWidth 32 })).done x x.G (shapeLen b)

/-- The checks of TWR and TRD on an offset, after the tile number. TINFO of MISALIGNED is 0, for the store TWR too: R150's layout has no
level for a tile (DESIGN CHOICE, log 58). -/
def tileAccess (t : Nat) (o : Nat) (act : Mask) : Option TrapInfo :=
  if o % 4 ≠ 0 then some { code := 0x04, addr := tileLoc t o, lanes := act }
  else
    match (maskLanes act).filter fun i => decide (16384 < o + 4 * i + 4) with
    | [] => none
    | i :: is => some (tileTrap 6 t (o + 4 * i) (lanesMask (i :: is)))

def execTwr (g : Guard) (d : TReg) (a : HReg) (b : SReg) (s : State) : Res :=
  s.vecS (some a) none none [] [b.toNat] fun x av _ _ G =>
    match x.P.tile? d with
    | none => s.trap x.P x.G x.sl x.S (tileTrap 1 d.toNat 0)
    | some T =>
      let act := x.G.active x.S g
      let o := (x.G.rs x.S b).toNat
      if act = 0 then s.done x G 8
      else match tileAccess d.toNat o act with
        | some t => s.trap x.P x.G x.sl x.S t
        | none =>
          let m := (maskLanes act).foldl (fun m i => Memory.writeN m (o + 4 * i) (leOf 4 (Machine.laneAt av i).toNat)) T.mem
          (s.setPlot (x.P.setTile d { T with mem := m })).done x G 8

def execTrd (g : Guard) (d : VReg) (a : TReg) (b : SReg) (s : State) : Res :=
  s.issue [d.toNat] [b.toNat] fun x =>
    match x.P.tile? a with
    | none => s.trap x.P x.G x.sl x.S (tileTrap 1 a.toNat 0)
    | some T =>
      let act := x.G.active x.S g
      let o := (x.G.rs x.S b).toNat
      if act = 0 then s.done x x.G 8
      else match tileAccess a.toNat o act with
        | some t => s.trap x.P x.G x.sl x.S t
        | none => s.done x (x.G.wv d.toNat act (lanesOf fun i => BitVec.ofNat 32 (natOf (T.mem.readN (o + 4 * i) 4)))) 8

/-- The checks of TRD.T, the tile number apart. The locator's byte offset is 0, for reason 6 too (DESIGN CHOICE, log 58). -/
def columnTrap (T : Tile) (t c : Nat) : Option TrapInfo :=
  if T.shape = 0 then some (tileTrap 2 t 0)
  else if shTfmt T.shape ≠ 1 then some (tileTrap 4 t 0)
  else if shCols T.shape ≤ c then some (tileTrap 6 t 0)
  else none

def execTrdT (g : Guard) (d : VReg) (a : TReg) (b : SReg) (s : State) : Res :=
  s.issue [d.toNat] [b.toNat] fun x =>
    match x.P.tile? a with
    | none => s.trap x.P x.G x.sl x.S (tileTrap 1 a.toNat 0)
    | some T =>
      let c := (x.G.rs x.S b).toNat
      match columnTrap T a.toNat c with
      | some t => s.trap x.P x.G x.sl x.S t
      | none =>
        s.done x (x.G.wv d.toNat (x.G.active x.S g) (lanesOf fun i =>
          if i < shRows T.shape then BitVec.ofNat 32 (natOf (T.mem.readN (4 * (i * shCols T.shape + c)) 4)) else 0)) 8

def execTzero (d : TReg) (s : State) : Res :=
  s.issue [] [] fun x =>
    match x.P.tile? d with
    | none => s.trap x.P x.G x.sl x.S (tileTrap 1 d.toNat 0)
    | some T => (s.setPlot (x.P.setTile d { T with mem := [] })).done x x.G 8

/-! ### SQGO, SQSIG, SQWAIT, SQSTAT (R234 to R236) -/

/-- The stream starts: every count of every gang is 0 (R228). -/
def State.startStream (s : State) (P : Plot) (start : Word64) : State :=
  let st := { SeqStream.idle with state := .run, start := start, pc := start }
  let s1 := s.setPlot { P with stream := st }
  { s1 with gangs := s1.gangs.map fun q => if q.2.plot = P.id then (q.1, { q.2 with sw := Vector.replicate 16 0 }) else q }

/-- The start that SQGO names: the template's stream, or a checked address (R234). -/
def seqStart (s : State) (P : Plot) (a : Word64) : Except TrapInfo Word64 :=
  if a = 0 then .ok P.tmpl.seqa
  else match s.gmCheck1 a.toNat 8 .load with
    | some t => .error t
    | none => if !aligned64 a then .error (globalTrap 0x04 0 .load a.toNat 0) else .ok a

def execSqgo (d a : SReg) (s : State) : Res :=
  s.issue [] [d.toNat, a.toNat] fun x =>
    let v := x.G.rs x.S a
    match seqStart s x.P v with
    | .error t => s.trap x.P x.G x.sl x.S t
    | .ok start =>
      if x.P.stream.state = .run ∨ x.P.stream.state = .wait then s.done x (x.G.ws d 1) 8
      else if v = 0 ∧ x.P.tmpl.seqa = 0 then s.done x (x.G.ws d 2) 8
      else s.startStream x.P start |>.done x { x.G.ws d 0 with sw := Vector.replicate 16 0 } 8

def execSqsig (k : BitVec 4) (s : State) : Res :=
  s.issue [] [] fun x =>
    let n := x.P.stream.sg.toList.getD k.toNat 0
    if 65535 ≤ n then s
    else (s.setPlot { x.P with stream := { x.P.stream with sg := x.P.stream.sg.set k.toNat (n + 1) } }).done x x.G 8

/-- The trap that a stream in FAULT raises at an SQWAIT (R230). -/
def SeqStream.trap (st : SeqStream) : TrapInfo :=
  { code := st.cause.toNat
    info := BitVec.ofNat 64 (2 ^ 32 * ((st.pc - st.start).toNat % 2 ^ 32) + st.reason.toNat)
    addr := st.faddr }

def execSqwait (k : BitVec 4) (s : State) : Res :=
  s.issue [] [] fun x =>
    let st := x.P.stream
    if st.state = .fault then
      s.trap { x.P with stream := { st with seen := true } } x.G x.sl x.S st.trap
    else if st.sa[k.toNat] ≠ x.G.sw[k.toNat] then
      s.done x { x.G with sw := x.G.sw.set k.toNat (x.G.sw[k.toNat] + 1) } 8
    else if st.state = .idle ∨ st.state = .done then s.trap x.P x.G x.sl x.S (misuse 5)
    else (s.setGang (x.G.block x.sl x.S .sqwait)).settled x.P.id

def SqState.code (q : SqState) : Nat :=
  match q with
  | .idle => 0 | .run => 1 | .wait => 2 | .done => 3 | .fault => 4

def sqstatWord (st : SeqStream) : Word64 :=
  BitVec.ofNat 64 (2 ^ 32 * ((st.pc - st.start).toNat % 2 ^ 32) + st.state.code +
    if st.state = .fault then 2 ^ 24 * st.cause.toNat + 2 ^ 16 * st.reason.toNat else 0)

def execSqstat (d : SReg) (s : State) : Res :=
  s.issue [] [d.toNat] fun x => s.done x (x.G.ws d (sqstatWord x.P.stream)) 8

end Sys2Proof.Machine
end

