-- ==== Sys2Proof/Machine/Seq.lean ====
section
/-! DEFINITION. Machine/Seq.lean: the sequencer words (R237 to R245), stream faults (R230), and the stops and
resumptions of the stream (R238, R246). A matrix word takes one step for each of its granules (R125, R246). -/

namespace Sys2Proof.Machine

/-- What a stream fault records (R230). -/
structure SeqFault where
  cause  : Nat
  reason : Nat
  addr   : Word64
  deriving DecidableEq, Repr

/-- The stream stops at its word. -/
def Plot.stopAt (P : Plot) (f : SeqFault) : Plot :=
  { P with stream := { P.stream with state := .fault, cause := BitVec.ofNat 8 f.cause, reason := BitVec.ofNat 8 f.reason,
                                     faddr := f.addr, seen := false, mat := none, word := none } }

/-- The stream goes on past its word. -/
def Plot.nextWord (P : Plot) : Plot := { P with stream := { P.stream with pc := P.stream.pc + 8 } }

/-- A word of the stream that the cursor names, in state RUN. -/
def State.onStream (s : State) (f : Plot → State) : Res :=
  match s.cur with
  | .stream p =>
    match s.plot? p with
    | some P => if P.stream.state = .run then .next (f P) else .next s
    | none => .refused .noIssuer
  | _ => .refused .noIssuer

/-- A word whose effect stays in the plot, or a fault. -/
def State.onPlot (s : State) (f : Plot → Except SeqFault Plot) : Res :=
  s.onStream fun P =>
    match f P with
    | .ok P1 => s.setPlot P1
    | .error e => s.setPlot (P.stopAt e)

/-! ### Control words (R238) -/

def execSqnop (s : State) : Res := s.onPlot fun P => .ok P.nextWord

/-- Some running gang has 2^32 - 1 arrivals to consume on the barrier (R228). -/
def arrivalsFull (P : Plot) (gs : List Gang) (k : TReg) : Bool :=
  gs.any fun G => G.life == .running && P.stream.sa[k.toNat] - G.sw[k.toNat] == 0xFFFFFFFF

def execSqarr (k : TReg) (s : State) : Res :=
  s.onStream fun P =>
    if arrivalsFull P (s.gangsOf P.id) k then s
    else
      let st := P.stream
      s.setPlot { P with stream := { st with sa := st.sa.set k.toNat (st.sa[k.toNat] + 1) } }.nextWord

/-- Consumes n signals where they have come, else waits in WAIT. -/
def SeqStream.take (st : SeqStream) (k n : Nat) : SeqStream :=
  let have_ := st.sg.toList.getD k 0
  if n ≤ have_ then
    { st with state := .run, want := none, sg := st.sg.set! k (have_ - n), pc := st.pc + 8 }
  else { st with state := .wait, want := some (k, n) }

def execSqwt (k : TReg) (n : BitVec 16) (s : State) : Res :=
  s.onPlot fun P => .ok { P with stream := P.stream.take k.toNat n.toNat }

/-- A stream in WAIT leaves it when the signal count reaches n. -/
def execSqwtResume (p : Nat) (s : State) : Res :=
  match s.plot? p with
  | some P =>
    match P.stream.state, P.stream.want with
    | .wait, some (k, n) => if P.place = .resident then .next (s.setPlot { P with stream := P.stream.take k n }) else .next s
    | _, _ => .next s
  | none => .next s

/-- A jump target that is not 8-byte aligned (R55, reason 4). -/
def jumpFault (tgt : Word64) : Option SeqFault := if tgt.toNat % 8 = 0 then none else some ⟨0x13, 4, 0⟩

def execSqjmp (off : BitVec 32) (s : State) : Res :=
  s.onPlot fun P =>
    let tgt := P.stream.pc + off.signExtend 64
    match jumpFault tgt with
    | some f => .error f
    | none => .ok { P with stream := { P.stream with pc := tgt } }

def execSqloop (c : BitVec 2) (off : BitVec 16) (n : BitVec 16) (s : State) : Res :=
  s.onPlot fun P =>
    let st := P.stream
    let tgt := st.pc + off.signExtend 64
    match jumpFault tgt with
    | some f => .error f
    | none =>
      let lc := st.lc[c.toNat] + 1
      if lc < n.toNat then .ok { P with stream := { st with lc := st.lc.set c.toNat lc, pc := tgt } }
      else .ok { P with stream := { st with lc := st.lc.set c.toNat 0, pc := st.pc + 8 } }

def execSqend (s : State) : Res := s.onPlot fun P => .ok { P with stream := { P.stream with state := .done } }

/-! ### Tile and bower checks (R226, R230) -/

def shapeFault (reason t : Nat) : SeqFault := ⟨0x11, reason, tileLoc t 0⟩

/-- Tile numbers, then set shapes, then formats, each over the tiles in order (R226). -/
def tilesFault (P : Plot) (ts : List (TReg × Option (List Nat))) : Option SeqFault :=
  let bad (t : TReg × Option (List Nat)) (k : Nat) : Bool :=
    match P.tile? t.1 with
    | none => k == 1
    | some T => (k == 2 && T.shape == 0) || (k == 4 && t.2.any fun fs => !(fs.contains (shTfmt T.shape)))
  ([1, 2, 4].findSome? fun k => (ts.find? fun t => bad t k).map fun t => shapeFault k t.1.toNat)

def alignFault (sk n : Nat) : Option SeqFault := if sk % n = 0 then none else some ⟨0x04, 0, BitVec.ofNat 64 sk⟩
/-- DESIGN CHOICE (log 108): the address that SCRATCH_BOUNDS records is SK, not that of the first byte outside (R230, R239). -/
def boundsFault (P : Plot) (sk hi : Nat) (reason : Nat := 0) : Option SeqFault :=
  if hi ≤ P.tmpl.l1s then none else some ⟨0x05, reason, BitVec.ofNat 64 sk⟩
def poisonFault (P : Plot) (a n : Nat) : Option SeqFault :=
  if P.bower.poisoned a n then some ⟨0x09, 0, BitVec.ofNat 64 a⟩ else none

/-- The decoding checks of one block against the format that its tile demands (R123). -/
def blockFault (bs : List Byte) (tfmt : Nat) (addr : Word64) : Option SeqFault :=
  (blkCheck bs fun f => f == blockFmt tfmt).map fun r => ⟨0x0A, r, addr⟩

/-- The decoding checks of the blocks of a tile's first rows, lower offsets first. -/
def tileRowsFault (T : Tile) (t rows : Nat) : Option SeqFault :=
  let f := shTfmt T.shape
  if f < 4 then none
  else (List.range (rows * shCols T.shape)).findSome? fun u =>
    blockFault (T.mem.readN (64 * u) 64) f (tileLoc t (64 * u))

/-- The decoding checks of every block of a tile. -/
def tileBlocksFault (T : Tile) (t : Nat) : Option SeqFault := tileRowsFault T t (shRows T.shape)

/-- A word's checks in order, then its effect. -/
def checked (fs : List (Option SeqFault)) (ok : Plot) : Except SeqFault Plot :=
  match fs.findSome? id with
  | some f => .error f
  | none => .ok ok

def Plot.tileD (P : Plot) (t : TReg) : Tile := (P.tile? t).getD Tile.fresh

/-! ### TLDQ, TSTQ, TZQ (R239) -/

/-- Row bytes of a shape. -/
def rowBytes (w : Word) : Nat := shCols w * unitBytes (shTfmt w)

def strideOf (sm : BitVec 8) (w : Word) : Nat := if sm = 0 then rowBytes w else 64 * sm.toNat

/-- The address checks of TLDQ and TSTQ. -/
def moveFaults (P : Plot) (w : Word) (sm : BitVec 8) (sk : Nat) : List (Option SeqFault) :=
  [alignFault sk 64,
   if sm ≠ 0 ∧ 64 * sm.toNat < rowBytes w then some ⟨0x05, 1, BitVec.ofNat 64 sk⟩ else none,
   boundsFault P sk (sk + (shRows w - 1) * strideOf sm w + rowBytes w)]

/-- The decoding checks of the blocks that TLDQ reads, and poison in what it reads. -/
def loadFault (P : Plot) (w : Word) (sm : BitVec 8) (sk : Nat) : Option SeqFault :=
  (List.range (shRows w)).findSome? fun r =>
    let a := sk + r * strideOf sm w
    if shTfmt w < 4 then poisonFault P a (rowBytes w)
    else (List.range (shCols w)).findSome? fun c =>
      let b := a + 64 * c
      (poisonFault P b 64) <|> blockFault (P.bower.readN b 64) (shTfmt w) (BitVec.ofNat 64 b)

def execTldq (td : TReg) (sm : BitVec 8) (sk : BitVec 32) (s : State) : Res :=
  s.onPlot fun P =>
    match tilesFault P [(td, none)] with
    | some f => .error f
    | none =>
      let T := P.tileD td
      let w := T.shape
      let m := (List.range (shRows w)).foldl (fun m r =>
        Memory.writeN m (r * rowBytes w) (P.bower.readN (sk.toNat + r * strideOf sm w) (rowBytes w))) T.mem
      checked (moveFaults P w sm sk.toNat ++ [loadFault P w sm sk.toNat]) (P.setTile td { T with mem := m }).nextWord

/-- Each word is written whole, by one row or by two that lie side by side (R229, R239). DESIGN CHOICE (log 108): a poisoned word that the
rows cover only in part stays poisoned, and the word raises nothing. -/
def execTstq (td : TReg) (sm : BitVec 8) (sk : BitVec 32) (s : State) : Res :=
  s.onPlot fun P =>
    match tilesFault P [(td, none)] with
    | some f => .error f
    | none =>
      let T := P.tileD td
      let w := T.shape
      let b := P.bower.writes ((List.range (shRows w)).map fun r =>
        (sk.toNat + r * strideOf sm w, T.mem.readN (r * rowBytes w) (rowBytes w)))
      checked (moveFaults P w sm sk.toNat) { P with bower := b }.nextWord

def execTzq (td : TReg) (s : State) : Res :=
  s.onPlot fun P =>
    match P.tile? td with
    | none => .error (shapeFault 1 td.toNat)
    | some T => .ok (P.setTile td { T with mem := [] }).nextWord

/-! ### Matrix words (R240 to R242) -/

/-- The FP format of a tile format. -/
def tileFp (f : Nat) : FFmt := if f = 1 then f32 else if f = 2 then f16 else bf16

/-- The granules of K of a tile. -/
def granules (w : Word) : Nat := if shTfmt w < 4 then (shCols w + 31) / 32 else shCols w

/-- The elements of row r in granule g; none at a clear position of a sparse block. -/
def rowGran (T : Tile) (r g : Nat) : List (Option FVal) :=
  let w := T.shape
  let f := shTfmt w
  let u := unitBytes f
  if f < 4 then
    (List.range (min 32 (shCols w - 32 * g))).map fun k =>
      some ((tileFp f).unpack (natOf (T.mem.readN ((r * shCols w + 32 * g + k) * u) u)))
  else
    let bs := T.mem.readN ((r * shCols w + g) * u) u
    (List.range (blkCap (blkFmt bs))).map fun j => if (blkCode bs j).isSome then some (blkVal bs j) else none

/-- The products of a granule: formed where both operands have an element. -/
def products : List (Option FVal) → List (Option FVal) → List FVal
  | some a :: as, some b :: bs => a.mul b :: products as bs
  | _ :: as, _ :: bs => products as bs
  | _, _ => []

def FVal.isZero : FVal → Bool
  | .fin _ 0 _ => true
  | _ => false

/-- One granule added into an accumulator (R125). -/
def accumulate (c : Nat) (ps : List FVal) : Nat :=
  let S := sumExact .rn ps
  if S.isNan then 0x7FC00000
  else if ps.isEmpty || S.isZero then c
  else f32.sum .rn [f32.unpack c, S]

/-- The element (i, j) of an FP32 tile's bytes. -/
def elemAt (m : Memory) (cols i j : Nat) : Nat := natOf (m.readN (4 * (i * cols + j)) 4)

/-- Granule g of rows `lo` to `lo + n - 1` of A with B, into C. -/
def granStep (a b : Tile) (g lo n cols : Nat) (m : Memory) : Memory :=
  (List.range n).foldl (fun m r =>
    let ar := rowGran a (lo + r) g
    (List.range (shRows b.shape)).foldl (fun m j =>
      Memory.writeN m (4 * ((lo + r) * cols + j)) (leOf 4 (accumulate (elemAt m cols (lo + r) j) (products ar (rowGran b j g))))) m) m

/-- Rows of C become +0.0. -/
def zeroRows (cols lo n : Nat) (m : Memory) : Memory := Memory.writeN m (4 * cols * lo) (List.replicate (4 * cols * n) 0)

/-- One granule of the matrix word under way; after the last of the last group, the word ends. -/
def Plot.matStep (P : Plot) (r : MatRun) : Plot :=
  match r.groups with
  | [] => { P with stream := { P.stream with mat := none, word := none } }.nextWord
  | (lo, n, b) :: rest =>
    let cols := shCols r.cshape
    let T := P.tiles.getD r.td Tile.fresh
    let m0 := if r.z ∧ r.gran = 0 then zeroRows cols lo n T.mem else T.mem
    let P1 := { P with tiles := P.tiles.set r.td { T with mem := granStep r.a b r.gran lo n cols m0 } }
    if r.gran + 1 < granules r.a.shape then { P1 with stream := { P1.stream with mat := some { r with gran := r.gran + 1 } } }
    else match rest with
      | [] => { P1 with stream := { P1.stream with mat := none, word := none } }.nextWord
      | g :: gs => { P1 with stream := { P1.stream with mat := some { r with groups := g :: gs, gran := 0 } } }

/-- The agreement of A, B and C, in the order of R226. -/
def agreeFault (a b c : Tile) (tb td : TReg) : Option SeqFault :=
  if shCols a.shape ≠ shCols b.shape then some (shapeFault 5 tb.toNat)
  else if shRows c.shape ≠ shRows a.shape ∨ shCols c.shape ≠ shRows b.shape then some (shapeFault 5 td.toNat)
  else none

/-- A matrix word under way goes on, or the word's checks are made and it begins. -/
def matWord (begin_ : Plot → Except SeqFault MatRun) (s : State) : Res :=
  s.onPlot fun P =>
    match P.stream.mat with
    | some r => .ok (P.matStep r)
    | none =>
      match begin_ P with
      | .error f => .error f
      | .ok r => .ok (P.matStep r)

/-- MMA and MMAS: the checks in the order of R230. -/
def mmaBegin (fs : List Nat) (td ta tb : TReg) (z : Bool) (P : Plot) : Except SeqFault MatRun :=
  match tilesFault P [(ta, some fs), (tb, some fs), (td, some [1])] with
  | some f => .error f
  | none =>
    let a := P.tileD ta
    let b := P.tileD tb
    let c := P.tileD td
    match agreeFault a b c tb td <|> tileBlocksFault a ta.toNat <|> tileBlocksFault b tb.toNat with
    | some f => .error f
    | none => .ok ⟨z, a, [(0, shRows a.shape, b)], td.toNat, c.shape, 0⟩

def execMmaT8 (td ta tb : TReg) (z : Bool) (s : State) : Res := matWord (mmaBegin [4] td ta tb z) s
def execMmaT6 (td ta tb : TReg) (z : Bool) (s : State) : Res := matWord (mmaBegin [5] td ta tb z) s
def execMmaF16 (td ta tb : TReg) (z : Bool) (s : State) : Res := matWord (mmaBegin [2] td ta tb z) s
def execMmaBf16 (td ta tb : TReg) (z : Bool) (s : State) : Res := matWord (mmaBegin [3] td ta tb z) s
def execMmaF32 (td ta tb : TReg) (z : Bool) (s : State) : Res := matWord (mmaBegin [1] td ta tb z) s
def execMmasT8 (td ta tb : TReg) (z : Bool) (s : State) : Res := matWord (mmaBegin [4, 6] td ta tb z) s
def execMmasT6 (td ta tb : TReg) (z : Bool) (s : State) : Res := matWord (mmaBegin [5, 7] td ta tb z) s

/-- The counts of GMMA, as the bower holds them. -/
def gmmaCounts (P : Plot) (sk n : Nat) : List Nat := (List.range n).map fun g => P.bower.nat (sk + 2 * g) 2

/-- The groups with a count: first row, rows and B's tile number. -/
def gmmaGroups (tb : Nat) : Nat → Nat → List Nat → List (Nat × Nat × Nat)
  | _, _, [] => []
  | f, g, n :: ns => if n = 0 then gmmaGroups tb f (g + 1) ns else (f, n, tb + g) :: gmmaGroups tb (f + n) (g + 1) ns

/-- The checks of the B tile of one group, with N its rows. -/
def groupFault (P : Plot) (a c : Tile) (td : TReg) (fmt t : Nat) : Option SeqFault :=
  match P.tiles[t]? with
  | none => some (shapeFault 1 t)
  | some b =>
    if b.shape = 0 then some (shapeFault 2 t)
    else if shTfmt b.shape ≠ fmt then some (shapeFault 4 t)
    else if shCols a.shape ≠ shCols b.shape then some (shapeFault 5 t)
    else if shRows c.shape ≠ shRows a.shape ∨ shCols c.shape ≠ shRows b.shape then some (shapeFault 5 td.toNat)
    else none

/-- GMMA's checks in their own order (R230); of A the word reads the rows that its counts cover, and checks the blocks of those
(R242). -/
def gmmaBegin (fmt : Nat) (td ta tb : TReg) (tx : BitVec 4) (z : Bool) (sk : BitVec 32) (P : Plot) : Except SeqFault MatRun :=
  match tilesFault P [(ta, some [fmt]), (td, some [1])] with
  | some f => .error f
  | none =>
    let a := P.tileD ta
    let c := P.tileD td
    let n := tx.toNat + 1
    let ns := gmmaCounts P sk.toNat n
    let gs := gmmaGroups tb.toNat 0 0 ns
    let bs := gs.map fun g => (g.1, g.2.1, P.tiles.getD g.2.2 Tile.fresh)
    match alignFault sk.toNat 64 <|> boundsFault P sk.toNat (sk.toNat + 2 * n) <|> poisonFault P sk.toNat (2 * n) <|>
        (if shRows a.shape < ns.sum then some ⟨0x12, 1, 0⟩ else none) <|>
        (gs.findSome? fun g => groupFault P a c td fmt g.2.2) <|>
        tileRowsFault a ta.toNat ns.sum <|> (gs.findSome? fun g => tileBlocksFault (P.tiles.getD g.2.2 Tile.fresh) g.2.2) with
    | some f => .error f
    | none => .ok ⟨z, a, bs, td.toNat, c.shape, 0⟩

def execGmmaT8 (td ta tb : TReg) (tx : BitVec 4) (z : Bool) (sk : BitVec 32) (s : State) : Res := matWord (gmmaBegin 4 td ta tb tx z sk) s
def execGmmaT6 (td ta tb : TReg) (tx : BitVec 4) (z : Bool) (sk : BitVec 32) (s : State) : Res := matWord (gmmaBegin 5 td ta tb tx z sk) s
def execGmmaF16 (td ta tb : TReg) (tx : BitVec 4) (z : Bool) (sk : BitVec 32) (s : State) : Res := matWord (gmmaBegin 2 td ta tb tx z sk) s
def execGmmaBf16 (td ta tb : TReg) (tx : BitVec 4) (z : Bool) (sk : BitVec 32) (s : State) : Res := matWord (gmmaBegin 3 td ta tb tx z sk) s

/-! ### TADD, TSCALE (R243) -/

/-- The FP32 elements of a shape, each from a function of its index. -/
def fillElems (w : Word) (f : Nat → Nat) (m : Memory) : Memory :=
  Memory.writeN m 0 ((List.range (shRows w * shCols w)).flatMap fun k => leOf 4 (f k))

/-- Unequal shapes: the later tile is named. -/
def sameFault (a b : Tile) (t : TReg) : Option SeqFault := if a.shape = b.shape then none else some (shapeFault 5 t.toNat)

def execTadd (td ta tb : TReg) (s : State) : Res :=
  s.onPlot fun P =>
    let a := P.tileD ta
    let b := P.tileD tb
    let d := P.tileD td
    let m := fillElems a.shape (fun k => f32.add .rn (elemAt a.mem 1 k 0) (elemAt b.mem 1 k 0)) d.mem
    checked [tilesFault P [(ta, some [1]), (tb, some [1]), (td, some [1])], sameFault a b tb, sameFault a d td]
      (P.setTile td { d with mem := m }).nextWord

def execTscale (td ta : TReg) (sk : BitVec 32) (s : State) : Res :=
  s.onPlot fun P =>
    let a := P.tileD ta
    let d := P.tileD td
    let m := fillElems a.shape (fun k => f32.mulF .rn (elemAt a.mem 1 k 0) sk.toNat) d.mem
    checked [tilesFault P [(ta, some [1]), (td, some [1])], sameFault a d td] (P.setTile td { d with mem := m }).nextWord

/-! ### TAMAX (R244) -/

/-- The largest absolute value of a tile's elements, a NaN canonical. -/
def tileAmax (T : Tile) : Word :=
  (List.range (shRows T.shape * shCols T.shape)).foldl (fun m k => amaxx m (BitVec.ofNat 32 (elemAt T.mem 1 k 0))) 0

/-- The exchange at SK and the old value at SK + 4. -/
def amaxWrite (P : Plot) (sk : Nat) (m : Word) : Plot :=
  let old := P.bower.readN sk 4
  { P with bower := (P.bower.writeN sk (leOf 4 m.toNat)).writeN (sk + 4) old }

def amaxFaults (P : Plot) (sk : Nat) : List (Option SeqFault) := [alignFault sk 8, boundsFault P sk (sk + 8), poisonFault P sk 4]

def execTamax (ta : TReg) (sk : BitVec 32) (s : State) : Res :=
  s.onPlot fun P =>
    checked (tilesFault P [(ta, some [1])] :: amaxFaults P sk.toNat) (amaxWrite P sk.toNat (tileAmax (P.tileD ta))).nextWord

def execTamaxRst (sk : BitVec 32) (s : State) : Res :=
  s.onPlot fun P => checked (amaxFaults P sk.toNat) (amaxWrite P sk.toNat 0).nextWord

/-! ### TCVT (R245) -/

/-- The shape that TCVT demands of TD. -/
def tcvtShape (f : Nat) (a d : Word) : Bool :=
  let cap := if f = 4 then 62 else 82
  shTfmt d == f && shRows d == shRows a && shCols d == (if f < 4 then shCols a else (shCols a + cap - 1) / cap)

/-- The bytes of the narrowed tile. -/
def tcvtBytes (f : Nat) (a : Tile) (q : Int) : List Byte :=
  let rows := shRows a.shape
  let cols := shCols a.shape
  let val (i j : Nat) : FVal := f32.unpack (elemAt a.mem cols i j)
  if f < 4 then
    (List.range (rows * cols)).flatMap fun k => leOf 2 ((tileFp f).pack .rn ((val (k / cols) (k % cols)).scale (-q)))
  else
    let T := if f = 4 then t8 else t6
    let cap := if f = 4 then 62 else 82
    let per := (cols + cap - 1) / cap
    (List.range (rows * per)).flatMap fun u =>
      denseBlock T ((List.range cap).map fun p =>
        let j := u % per * cap + p
        if j < cols then T.encode (val (u / per) j) q else 0) q

def tcvt (f : Nat) (td ta : TReg) (q : BitVec 8) (s : State) : Res :=
  s.onPlot fun P =>
    let a := P.tileD ta
    let d := P.tileD td
    checked [tilesFault P [(ta, some [1]), (td, none)],
             if td = ta then some (shapeFault 4 td.toNat) else none,
             if tcvtShape f a.shape d.shape then none else some (shapeFault 5 td.toNat)]
      (P.setTile td { d with mem := Memory.writeN d.mem 0 (tcvtBytes f a q.toInt) }).nextWord

def execTcvtT8 (td ta : TReg) (q : BitVec 8) (s : State) : Res := tcvt 4 td ta q s
def execTcvtT6 (td ta : TReg) (q : BitVec 8) (s : State) : Res := tcvt 5 td ta q s
def execTcvtF16 (td ta : TReg) (q : BitVec 8) (s : State) : Res := tcvt 2 td ta q s
def execTcvtBf16 (td ta : TReg) (q : BitVec 8) (s : State) : Res := tcvt 3 td ta q s

/-! ### Pre-emption (R246) -/

/-- A stream of a plot that halts stops at its next granule boundary: no word and no granule begins from here on. -/
def execStreamGranuleStop (p : Nat) (s : State) : Res :=
  match s.plot? p with
  | some P => if P.place = .halted then .next (s.setPlot { P with stream := { P.stream with stop := true } }) else .next s
  | none => .next s

end Sys2Proof.Machine
end

