-- ==== Sys2Proof/Machine/Engines.lean ====
section
/-! DEFINITION. Machine/Engines.lean: the engine classes and their words (R187 to R194), the waits (R190, R203), slot
rings (R204 to R207), and the operations of the classes CP, GS and CL step by step (R195 to R221). An access moves one
element of the operation. -/

namespace Sys2Proof.Machine

/-! ### Classes (R187 to R189) -/

def Gang.cls (G : Gang) (c : Nat) : ClassState :=
  match c with
  | 0 => G.cp
  | 1 => G.gs
  | 2 => G.cl
  | _ => G.ev

def Gang.setCls (G : Gang) (c : Nat) (x : ClassState) : Gang :=
  match c with
  | 0 => { G with cp := x }
  | 1 => { G with gs := x }
  | 2 => { G with cl := x }
  | _ => { G with ev := x }

def Gang.eng (G : Gang) (c : Nat) : List EngOp :=
  match c with
  | 0 => G.engCp
  | 1 => G.engGs
  | 2 => G.engCl
  | _ => G.engEv

def Gang.setEng (G : Gang) (c : Nat) (l : List EngOp) : Gang :=
  match c with
  | 0 => { G with engCp := l }
  | 1 => { G with engGs := l }
  | 2 => { G with engCl := l }
  | _ => { G with engEv := l }

/-- The operation of a class with a number. -/
def Gang.op? (G : Gang) (c n : Nat) : Option EngOp := (G.eng c).find? fun o => o.num.toNat == n

/-- Replaces an operation by its later self. -/
def Gang.setOp (G : Gang) (c : Nat) (o : EngOp) : Gang := G.setEng c ((G.eng c).map fun x => if x.num = o.num then o else x)

/-- q is covered by the mark (R189). -/
def covered (mark q : Word64) : Bool := (mark - q) != 0 && decide ((mark - q).toNat ≤ 2 ^ 63)

/-- A new operation joins its queue (R188, R189). -/
def Gang.enqueue (G : Gang) (c : Nat) (kind : EngKind) (off : Nat) (desc : List Byte) (now : Nat) (code : Byte) : Gang :=
  let k := G.cls c
  let o : EngOp := ⟨k.issued, kind, G.seq, off, desc, if code = 0 then .start else .finished, 0, 0, [], code, 0, 0, none, now⟩
  (G.setCls c { k with count := k.count + 1, issued := k.issued + 1 }).setEng c (G.eng c ++ [o])

/-- A word of a counted operation: it does not issue while it is full (R188); its block is checked (R194) and read at
issue; a poisoned block completes with POISON. -/
def engWordIf (full : Issuer → Bool) (c : Nat) (kind : EngKind) (a : SReg) (e : BitVec 10) (unit size : Nat) (ss : List Nat)
    (f : State → Issuer → Gang → State) (s : State) : Res :=
  match s.issuer with
  | none => .refused .noIssuer
  | some y =>
    if full y then .next s
    else
      s.global fun s => s.issue [] (a.toNat :: ss) fun x =>
        let off := bowerOff x a e unit
        match bowerTrap x.P off unit size false 0 with
        | some t => s.trap x.P x.G x.sl x.S t
        | none =>
          let code : Byte := if x.P.bower.poisoned off.toNat size then 8 else 0
          f s x (x.G.enqueue c kind off.toNat (x.P.bower.readN off.toNat size) s.ticks code)

/-- A counter at 63 holds the word (R188). -/
def engWord (c : Nat) (kind : EngKind) (a : SReg) (e : BitVec 10) (unit size : Nat) (ss : List Nat)
    (f : State → Issuer → Gang → State) (s : State) : Res :=
  engWordIf (fun y => decide (63 ≤ (y.G.cls c).count)) c kind a e unit size ss f s

/-- A CP word writes its promise at issue (R202). -/
def copyWord (kind : EngKind) (d a : SReg) (e : BitVec 10) (s : State) : Res :=
  engWord 0 kind a e 128 128 [d.toNat] (fun s x G =>
    let r := s.takeFree
    let p : Word64 := BitVec.ofNat 64 (x.G.cp.issued.toNat % 2 ^ 16 * 2 ^ 48 + (Config.freeDue r.1).toNat)
    r.2.done x (G.ws d p) 8) s

def execTmov (d a : SReg) (e : BitVec 10) (s : State) : Res := copyWord .tmov d a e s
def execTmovV (d a : SReg) (e : BitVec 10) (s : State) : Res := copyWord .tmovV d a e s
def execTmovW (d a : SReg) (e : BitVec 10) (s : State) : Res := copyWord .tmovW d a e s
def execTmovR (d a : SReg) (e : BitVec 10) (s : State) : Res := copyWord .tmovR d a e s
def execTmovZ (d a : SReg) (e : BitVec 10) (s : State) : Res := copyWord .tmovZ d a e s

def plainWord (c : Nat) (kind : EngKind) (a : SReg) (e : BitVec 10) (s : State) : Res :=
  engWord c kind a e 64 64 [] (fun s x G => s.done x G 8) s

def execGath (a : SReg) (e : BitVec 10) (s : State) : Res := plainWord 1 .gath a e s
def execScat (a : SReg) (e : BitVec 10) (s : State) : Res := plainWord 1 .scat a e s
def execCpydec (a : SReg) (e : BitVec 10) (s : State) : Res := plainWord 0 .cpydec a e s
def execCpyenc (a : SReg) (e : BitVec 10) (s : State) : Res := plainWord 0 .cpyenc a e s

/-! ### Collectives at issue (R216) -/

def State.group? (s : State) (h : Word) : Option Group := s.groups.find? fun g => g.handle == h

/-- The rank of a plot of this part in a group. -/
def Group.rankOf (g : Group) (part : Nat) (P : Plot) : Option Nat :=
  if g.ctx = P.ctx then g.ranks.findIdx? fun r => r == (part, P.lid) else none

/-- The count of the member's operations on the group rises by one; the operation keeps its place m (R216). One whose block is
poisoned stands in its place with its failure, which ends the other members with REMOTE (R217). -/
def State.joinGroup (s : State) (x : Issuer) (G : Gang) : State × Gang :=
  match (G.eng 2).getLast? with
  | none => (s, G)
  | some o =>
    match s.group? (BitVec.ofNat 32 (fieldAt o.desc 20 4)) with
    | none => (s, G)
    | some g =>
      match g.rankOf s.partno x.P with
      | none => (s, G)
      | some r =>
        let m := g.issued.getD r 0
        let g1 := { g with issued := g.issued.set r (m + 1) }
        ({ s with groups := s.groups.map fun y => if y.handle = g.handle then g1 else y }, 
          G.setOp 2 { o with ring := m, phase := if o.phase = .finished then .wait else o.phase })

def collWord (kind : EngKind) (a : SReg) (e : BitVec 10) (s : State) : Res :=
  engWord 2 kind a e 64 64 [] (fun s x G =>
    let r := s.joinGroup x G
    r.1.done x r.2 8) s

def execCollAr (a : SReg) (e : BitVec 10) (s : State) : Res := collWord .collAr a e s
def execCollAg (a : SReg) (e : BitVec 10) (s : State) : Res := collWord .collAg a e s
def execCollRs (a : SReg) (e : BitVec 10) (s : State) : Res := collWord .collRs a e s
def execCollBc (a : SReg) (e : BitVec 10) (s : State) : Res := collWord .collBc a e s
def execCollA2a (a : SReg) (e : BitVec 10) (s : State) : Res := collWord .collA2a a e s

/-! ### WAITOC, OCRD, PSLEEP (R190 to R192, R203) -/

/-- COPY_FAULT (R191): the lowest-numbered member of F is the first of the list. -/
def copyTrap (c : Nat) (f : OpFail) (n : Nat) : TrapInfo :=
  { code := 0x10
    info := BitVec.ofNat 64 (n % 2 ^ 32 * 2 ^ 32 + c * 2 ^ 18 + f.sub.toNat * 256 + f.code.toNat)
    addr := f.off }

def execWaitoc (cls : BitVec 2) (n : BitVec 6) (s : State) : Res :=
  s.issue [] [] fun x =>
    let c := cls.toNat
    let k := x.G.cls c
    if n.toNat < k.count then (s.setGang (x.G.block x.sl x.S .waitoc)).settled x.P.id
    else
      let top := k.issued - n.setWidth 64
      let mark := if covered top k.cover then top else k.cover
      let F := k.fails.filter fun f => covered mark f.num
      let G := x.G.setCls c { k with cover := mark, fails := k.fails.filter fun f => !covered mark f.num }
      match F with
      | f :: _ => s.trap x.P G x.sl x.S (copyTrap c f F.length)
      | [] => s.done x G 8

/-- OCRD's word (R192). -/
def ocrdWord (k : ClassState) : Word64 :=
  let st := match k.fails with
    | f :: _ => f.code.toNat + 256 * f.sub.toNat
    | [] => 0
  BitVec.ofNat 64 (st * 2 ^ 48 + min k.fails.length 255 * 2 ^ 40 + k.done.toNat % 2 ^ 32)

def execOcrd (cls : BitVec 2) (d : SReg) (s : State) : Res :=
  s.issue [] [d.toNat] fun x => s.done x (x.G.ws d (ocrdWord (x.G.cls cls.toNat))) 8

/-- A CP operation with the promise's tag is outstanding. -/
def Gang.promised (G : Gang) (p : Word64) : Bool := G.engCp.any fun o => o.num.toNat % 2 ^ 16 == p.toNat / 2 ^ 48

/-- The promise's time has come. -/
def promiseDue (now : Nat) (p : Word64) : Bool :=
  decide ((now + 2 ^ 48 - p.toNat % 2 ^ 48) % 2 ^ 48 < 2 ^ 47)

/-- PSLEEP at the end of its wait. -/
def State.promiseEnd (s : State) (x : Issuer) (p : Word64) : State :=
  if x.G.promised p then s.trap x.P x.G x.sl x.S { code := 0x0F, info := BitVec.ofNat 64 x.G.cp.count } else s.done x x.G 8

def execPsleep (a : SReg) (s : State) : Res :=
  s.issue [] [a.toNat] fun x =>
    let p := x.G.rs x.S a
    if promiseDue (s.ticks % 2 ^ 48) p || !x.G.promised p then s.promiseEnd x p
    else (s.setGang (x.G.block x.sl x.S (.psleep a))).settled x.P.id

/-- The wait of a PSLEEP ends. -/
def execPsleepWake (p g : Nat) (sl : SlotId) (s : State) : Res :=
  s.onSlot p g sl fun P G S =>
    match S.wait with
    | .psleep a =>
      let v := G.rs S a
      if promiseDue (s.ticks % 2 ^ 48) v || !G.promised v then s.promiseEnd ⟨P, G, sl, S⟩ v else s
    | _ => s

/-! ### Slot rings (R204 to R207) -/

/-- A slot-ring object. -/
structure Ring where
  resv  : Word64
  fill  : Word64
  np    : Nat
  rp    : Nat
  wp    : Nat
  count : Nat
  ssize : Nat
  base  : Nat
  deriving DecidableEq, Repr

def Ring.of (bs : List Byte) : Ring :=
  ⟨BitVec.ofNat 64 (fieldAt bs 24 8), BitVec.ofNat 64 (fieldAt bs 16 8), fieldAt bs 11 1, fieldAt bs 10 1, fieldAt bs 9 1,
   fieldAt bs 8 1, fieldAt bs 4 4, fieldAt bs 0 4⟩

/-- The object's bytes; bytes 12 to 15 are kept. -/
def Ring.put (r : Ring) (old : List Byte) : List Byte :=
  leOf 4 r.base ++ leOf 4 r.ssize ++ leOf 1 r.count ++ leOf 1 r.wp ++ leOf 1 r.rp ++ leOf 1 r.np ++ bytesAt old 12 4 ++
    leOf 8 r.fill.toNat ++ leOf 8 r.resv.toNat

def sizeOk (n : Nat) : Bool := n % 64 == 0 && decide (64 ≤ n) && decide (n ≤ 65536)

/-- A valid object in an allocation (R207). -/
def Ring.ok (r : Ring) (alloc : Nat) : Bool :=
  decide (1 ≤ r.count) && decide (r.count ≤ 64) && decide (r.np < r.count) && decide (r.rp < r.count) && decide (r.wp < r.count) &&
    r.base % 64 == 0 && sizeOk r.ssize && decide (r.base + r.count * r.ssize ≤ alloc)

def ringTrap (off : Int) (store : Bool) : TrapInfo :=
  { code := 0x05, info := if store then 12 else 8, addr := BitVec.ofInt 64 off }

def execRainit (a b c : SReg) (n : BitVec 7) (s : State) : Res :=
  s.issue [] [a.toNat, b.toNat, c.toNat] fun x =>
    let off := (x.G.rs x.S a).toInt
    let base := (x.G.rs x.S b).toNat
    let size := (x.G.rs x.S c).toNat
    match bowerTrap x.P off 32 32 true 0 with
    | some t => s.trap x.P x.G x.sl x.S t
    | none =>
      if n.toNat = 0 ∨ 64 < n.toNat ∨ !sizeOk size ∨ base % 64 ≠ 0 then s.trap x.P x.G x.sl x.S (ringTrap off true)
      else if x.P.tmpl.l1s < base + n.toNat * size then
        s.trap x.P x.G x.sl x.S { code := 0x05, info := 4, addr := BitVec.ofInt 64 off }
      else
        let r : Ring := ⟨0, 0, 0, 0, 0, n.toNat, size, base⟩
        (s.setPlot { x.P with bower := x.P.bower.writeN off.toNat (r.put []) }).done x x.G 8

/-- RAWAIT and RAREL find their object, checked (R207). -/
def withRing (s : State) (x : Issuer) (a : SReg) (store : Bool) (f : Nat → List Byte → Ring → State) : State :=
  let off := (x.G.rs x.S a).toInt
  match bowerTrap x.P off 32 32 store 0 with
  | some t => s.trap x.P x.G x.sl x.S t
  | none =>
    if x.P.bower.poisoned off.toNat 32 then
      s.trap x.P x.G x.sl x.S { code := 0x09, info := if store then 4 else 0, addr := BitVec.ofInt 64 off }
    else
      let bs := x.P.bower.readN off.toNat 32
      let r := Ring.of bs
      if r.ok x.P.tmpl.l1s then f off.toNat bs r else s.trap x.P x.G x.sl x.S (ringTrap off store)

def execRawait (d a : SReg) (s : State) : Res :=
  s.issue [] [d.toNat, a.toNat] fun x =>
    withRing s x a false fun _ _ r =>
      if r.fill.getLsbD r.rp then s.done x (x.G.ws d (BitVec.ofNat 64 (r.rp * 2 ^ 32 + (r.base + r.rp * r.ssize)))) 8
      else (s.setGang (x.G.block x.sl x.S .rawait)).settled x.P.id

def execRarel (d a : SReg) (s : State) : Res :=
  s.issue [] [d.toNat, a.toNat] fun x =>
    withRing s x a true fun off bs r =>
      if r.fill.getLsbD r.rp then
        let r1 := { r with fill := r.fill &&& ~~~ ((1 : Word64) <<< r.rp), rp := (r.rp + 1) % r.count }
        (s.setPlot { x.P with bower := x.P.bower.writeN off (r1.put bs) }).done x (x.G.ws d 0) 8
      else s.done x (x.G.ws d 1) 8

/-! ### Elements of an operation (R199) -/

/-- Where an element lies. -/
inductive Spot where
  | gm (a : Int) | scr (lv : Nat) (a : Int) | tile (t : Nat) (a : Int)
  deriving DecidableEq, Repr

/-- The element at an offset of a field in a space (R198): in the tile space the field names the tile. -/
def spotOf (space base : Nat) (off : Int) : Spot :=
  if space = 0 then .gm (base + off) else if space = 4 then .tile base off else .scr (space - 1) (base + off)

/-- How an access ends: its bytes, a wait (on a new fault, if any), or a failure with its CODE and SUB. -/
inductive EngEnd where
  | ok (bs : List Byte)
  | wait (fid : Option Nat)
  | fail (code sub : Nat)

/-- The checks of R199 on an element: R165 in global memory, R150 in a scratchpad. -/
def State.spotFault (s : State) (P : Plot) (z : Nat) (writes : Bool) : Spot → Option (Nat × Nat)
  | .gm a =>
    match firstFail s.domain [(0, a)] z (if writes then .store else .load) [1, 2, 3, 4, 5, 6, 7] with
    | some (7, _) => some (7, 0)
    | some (k, _) => some (4, k)
    | none => none
  | .scr lv a =>
    match s.scratch P lv with
    | none => some (6, 0)
    | some (_, size) =>
      if a % z ≠ 0 then some (4, 6) else if a < 0 ∨ (size : Int) < a + z then some (5, 0) else none
  | .tile t a => if P.tiles.length ≤ t ∨ a < 0 ∨ 16384 < a + z then some (5, 0) else none

/-- ACC of an engine's access in its records (R325): an indivisible step is an engine write. -/
def engAcc (k : AccKind) : Nat := if k = .atomic then AccKind.engWrite.code else k.code

/-- Translates an engine access (R323, R324): a fault writes its record, with PC 0. -/
def State.engLookup (s : State) (P : Plot) (G : Gang) (fid : Option Nat) (addr : Nat) (k : AccKind) :
    Except EngEnd (Loc × Nat) × State :=
  if fid.any s.faultOpen then (.error (.wait fid), s)
  else if fid.any s.faultDenied then (.error (.fail 7 0), s)
  else
    match s.lookup P.ctx addr k .engines with
    | (.ok l e, s) => (.ok (l, e), s.countAccess P.ctx addr (.die (dieOf P.core)))
    | (.hold, s) => (.error (.wait none), s)
    | (.absent, s) => (.error (.fail 4 4), s)
    | (.refuse, s) => (.error (.fail 7 0), s)
    | (.fault ty lv, s) =>
      let r := s.faultRecord P.ctx addr ty lv ⟨P.lid, whoWord 0 0 G.idx .A 7, 0, engAcc k⟩ (.die (dieOf P.core)) []
      (.error (.wait (some r.1)), r.2)
    | (.deny ty lv, s) =>
      let r := s.faultRecord P.ctx addr ty lv ⟨P.lid, whoWord 0 0 G.idx .A 7, 0, engAcc k⟩ (.die (dieOf P.core)) []
      (.error (.fail 7 0), r.2)

/-- The owner check of a confidential context: the leaf has CONF and the frame is the context's (R219, R362). -/
def State.ownedFrame (s : State) (ctx : Nat) (l : Loc) (pte : Nat) : Bool :=
  match l with
  | .hbm a => bitOf pte 10 && assoc s.frames (a / 2 ^ 37, a % 2 ^ 37 / 65536) == some ctx
  | _ => false

/-- A plot's scratchpads and tiles are within reach of its engines unless its image is saved (R221). -/
def Plot.reachable (P : Plot) : Bool := !P.away

/-- Reads `n` bytes from an element of `z` bytes on. `own` asks for the owner check. -/
def State.engRead (s : State) (P : Plot) (G : Gang) (fid : Option Nat) (sp : Spot) (z : Nat) (own : Bool) (n : Nat := z) : EngEnd × State :=
  match s.spotFault P z false sp with
  | some (c, u) => (.fail c u, s)
  | none =>
    match sp with
    | .gm a =>
      match s.engLookup P G fid a.toNat .engRead with
      | (.error e, s) => (e, s)
      | (.ok (l, e), s) =>
        if own && !s.ownedFrame P.ctx l e then (.fail 7 0, s)
        else if s.poisonedLoc l n then (.fail 8 0, s)
        else (.ok (s.readLoc l n), s)
    | .scr lv a =>
      if !P.reachable then (.wait none, s)
      else match s.scratch P lv with
        | none => (.fail 6 0, s)
        | some (st, _) => if st.poisoned a.toNat n then (.fail 8 0, s) else (.ok (st.readN a.toNat n), s)
    | .tile t a =>
      if !P.reachable then (.wait none, s) else (.ok ((P.tiles.getD t Tile.fresh).mem.readN a.toNat n), s)

/-- Checks where an element would be written, and writes it if there are bytes to write. -/
def State.engWrite (s : State) (P : Plot) (G : Gang) (fid : Option Nat) (sp : Spot) (z : Nat) (own : Bool)
    (bs : Option (List Byte)) : EngEnd × State :=
  match s.spotFault P z true sp with
  | some (c, u) => (.fail c u, s)
  | none =>
    match sp with
    | .gm a =>
      match s.engLookup P G fid a.toNat .engWrite with
      | (.error e, s) => (e, s)
      | (.ok (l, e), s) =>
        if own && !s.ownedFrame P.ctx l e then (.fail 7 0, s)
        else match bs with
          | some b => (.ok [], (s.writeLoc l b).fire l b.length)
          | none => (.ok [], s)
    | .scr lv a =>
      if !P.reachable then (.wait none, s)
      else match s.scratch P lv, bs with
        | none, _ => (.fail 6 0, s)
        | some (st, _), some b => (.ok [], s.setScratch P lv (st.writeN a.toNat b))
        | some _, none => (.ok [], s)
    | .tile t a =>
      if !P.reachable then (.wait none, s)
      else match bs with
        | some b =>
          let T := P.tiles.getD t Tile.fresh
          (.ok [], s.setPlot { P with tiles := P.tiles.set t { T with mem := T.mem.writeN a.toNat b } })
        | none => (.ok [], s)

/-- One indivisible step at 8 bytes (R208): what is there, and its change. In a host window it is an atomic (R166). -/
def State.engRmw (s : State) (P : Plot) (G : Gang) (fid : Option Nat) (sp : Spot) (f : List Byte → Option (List Byte)) :
    EngEnd × State :=
  match s.spotFault P 8 true sp with
  | some (c, u) => (.fail c u, s)
  | none =>
    match sp with
    | .gm a =>
      match s.engLookup P G fid a.toNat .atomic with
      | (.error e, s) => (e, s)
      | (.ok (l, _), s) =>
        if s.poisonedLoc l 8 then (.fail 8 0, s)
        else
          let old := s.readLoc l 8
          (.ok old, match f old with
            | some b => (s.writeLoc l b).fire l 8
            | none => s)
    | _ =>
      match s.engRead P G fid sp 8 false with
      | (.ok old, s) =>
        match f old with
        | some b => (.ok old, (s.engWrite P G none sp 8 false (some b)).2)
        | none => (.ok old, s)
      | r => r

/-! ### Descriptors -/

/-- The fields of a TMOV descriptor (R197, R198). -/
def EngOp.src (o : EngOp) : Nat := fieldAt o.desc 0 8
def EngOp.dst (o : EngOp) : Nat := fieldAt o.desc 8 8
def EngOp.ctl (o : EngOp) : Nat := fieldAt o.desc 16 8
def EngOp.aux (o : EngOp) : Nat := fieldAt o.desc 112 8
def EngOp.ndim (o : EngOp) : Nat := fieldOf o.ctl 8 3
def EngOp.esz (o : EngOp) : Nat := 2 ^ fieldOf o.ctl 6 2
def EngOp.dsp (o : EngOp) : Nat := fieldOf o.ctl 3 3
def EngOp.ssp (o : EngOp) : Nat := fieldOf o.ctl 0 3
def EngOp.soft (o : EngOp) : Bool := bitOf o.ctl 11
def EngOp.dims (o : EngOp) (at_ : Nat) : List Nat := (List.range 7).map fun d => fieldAt o.desc (at_ + 4 * d) 4
def EngOp.ext (o : EngOp) : List Nat := (o.dims 24).take o.ndim
def EngOp.strides (o : EngOp) (at_ : Nat) : List Int := ((o.dims at_).take o.ndim).map (signed 32)

/-- The SUB of the first bad field: fields with the byte where they begin, in order (R195). -/
def firstBad (l : List (Nat × Bool)) : Option Nat := (l.find? fun e => e.2).map (·.1)

/-- Entries of a dimension list that should be 0. -/
def EngOp.unused (o : EngOp) (at_ used : Nat) : Bool := ((o.dims at_).drop used).any fun x => x != 0

/-- CTL's checks (R198, R201, R206, R208, R211). -/
def EngOp.ctlBad (o : EngOp) : Bool :=
  let w := o.kind == .tmovW
  decide (2 ^ 12 ≤ o.ctl) || (o.soft && o.kind != .tmovV) || o.ndim == 0 || (w && (o.ndim != 1 || o.esz != 1)) ||
    decide (4 < o.dsp) || decide (4 < o.ssp) || (o.kind == .tmovV && o.dsp == 4) || (o.kind == .tmovR && o.dsp != 1) ||
    (w && (o.dsp == 4 || o.ssp != 0)) || (o.kind == .tmovZ && o.ssp != 0)

/-- The descriptor checks of the TMOV words (R199 to R201, R206, R208, R211). -/
def EngOp.tmovBad (o : EngOp) : Option Nat :=
  let w := o.kind == .tmovW
  let z := o.kind == .tmovZ
  firstBad
    [(0, (z && o.src != 0) || (w && o.src % 64 != 0)), (16, o.ctlBad), (24, o.unused 24 (if w then 0 else o.ndim)),
     (52, o.unused 52 (if w || z then 0 else o.ndim)), (80, o.unused 80 o.ndim || (w && (fieldAt o.desc 80 4) % 64 != 0)),
     (108, fieldAt o.desc 108 4 != 0), (112, o.aux != 0 && !(w || o.kind == .tmovV))]

/-- GATH and SCAT (R213). -/
def EngOp.gCtl (o : EngOp) : Nat := fieldAt o.desc 24 4
def EngOp.gCount (o : EngOp) : Nat := fieldAt o.desc 20 4
def EngOp.gEsz (o : EngOp) : Nat := 2 ^ fieldOf o.gCtl 6 2

def EngOp.gathBad (o : EngOp) : Option Nat :=
  firstBad
    [(20, decide (2 ^ 24 < o.gCount)), (24, decide (3 < fieldOf o.gCtl 0 3) || decide (3 < fieldOf o.gCtl 3 3) || decide (2 ^ 11 ≤ o.gCtl)),
     (28, fieldAt o.desc 28 28 != 0)]

/-- Collectives (R215). -/
def EngOp.cCtl (o : EngOp) : Nat := fieldAt o.desc 24 4
def EngOp.cOp (o : EngOp) : Nat := fieldOf o.cCtl 6 4
def EngOp.cCount (o : EngOp) : Nat := fieldAt o.desc 16 4
def EngOp.cRoot (o : EngOp) : Nat := fieldAt o.desc 28 4
def EngOp.cGroup (o : EngOp) : Word := BitVec.ofNat 32 (fieldAt o.desc 20 4)
def EngOp.cEsz (o : EngOp) : Nat := if o.cOp = 1 ∨ o.cOp = 9 then 8 else 4

def State.collBad (s : State) (P : Plot) (o : EngOp) : Option Nat :=
  let g := s.group? o.cGroup
  let n := (g.map fun g => g.ranks.length).getD 0
  firstBad
    [(16, decide (2 ^ 26 < o.cCount)), (20, !(g.any fun g => (g.rankOf s.partno P).isSome)),
     (24, decide (1 < fieldOf o.cCtl 0 3) || decide (1 < fieldOf o.cCtl 3 3) || decide (10 < o.cOp) || decide (2 ^ 10 ≤ o.cCtl)),
     (28, if o.kind = .collBc then decide (n ≤ o.cRoot) else o.cRoot != 0), (32, fieldAt o.desc 32 24 != 0)]

/-- CPYDEC and CPYENC (R218). -/
def EngOp.cpyLen (o : EngOp) : Nat := fieldAt o.desc 16 4
def EngOp.cpySlot (o : EngOp) : Nat := fieldAt o.desc 20 1 % 8
def EngOp.cpyIv (o : EngOp) : List Byte := bytesAt o.desc 24 12
def EngOp.cpyTag (o : EngOp) : List Byte := bytesAt o.desc 36 16

def EngOp.cpyBad (o : EngOp) : Option Nat :=
  firstBad
    [(16, o.cpyLen == 0 || decide (2 ^ 24 < o.cpyLen)), (20, decide (8 ≤ fieldAt o.desc 20 1)), (21, fieldAt o.desc 21 3 != 0),
     (52, fieldAt o.desc 52 4 != 0)]

def EngKind.isCopy (k : EngKind) : Bool :=
  match k with
  | .tmov => true | .tmovV => true | .tmovW => true | .tmovR => true | .tmovZ => true
  | _ => false

def EngKind.isColl (k : EngKind) : Bool :=
  match k with
  | .collAr => true | .collAg => true | .collRs => true | .collBc => true | .collA2a => true
  | _ => false

def EngKind.isCpy (k : EngKind) : Bool := k == .cpydec || k == .cpyenc
def EngKind.isGath (k : EngKind) : Bool := k == .gath || k == .scat

/-- The operation reads or writes a space of R198: 2 the pavilion, 3 the conservatory. -/
def EngOp.uses (o : EngOp) (sp : Nat) : Bool :=
  (o.kind.isCopy && (o.ssp == sp || o.dsp == sp)) || (o.kind.isGath && (fieldOf o.gCtl 0 3 == sp || fieldOf o.gCtl 3 3 == sp)) ||
    (o.kind.isColl && (fieldOf o.cCtl 0 3 == sp || fieldOf o.cCtl 3 3 == sp))

/-- A failure leaves the elements before it written (R196); the others write nothing. -/
def EngKind.keepsPrefix (k : EngKind) : Bool :=
  match k with
  | .tmov => true | .tmovR => true | .tmovZ => true | .gath => true | .scat => true | .cpyenc => true
  | _ => false

/-! ### The elements that an operation reads and writes -/

/-- Σ i_d × stride_d of element k, dimension 0 fastest (R199). -/
def strideSum : Nat → List Nat → List Int → Int
  | k, e :: es, t :: ts => (k % e : Nat) * t + strideSum (k / e) es ts
  | _, _, _ => 0

/-- A sequence of elements: how many, their size, and where each lies. -/
structure Plan where
  n    : Nat
  z    : Nat
  spot : Nat → Spot

/-- An index of GATH or SCAT, once read. -/
def EngOp.index (o : EngOp) (k : Nat) : Nat := fieldAt o.data (4 * k) 4

/-- The table side of GATH and SCAT, and the packed side (R214). -/
def EngOp.tablePlan (o : EngOp) : Plan :=
  ⟨o.gCount, o.gEsz, fun k => spotOf (fieldOf o.gCtl 0 3) o.src ((o.index k * 2 ^ fieldOf o.gCtl 8 3 : Nat) : Int)⟩
def EngOp.packPlan (o : EngOp) : Plan :=
  ⟨o.gCount, o.gEsz, fun k => spotOf (fieldOf o.gCtl 3 3) o.dst ((k * o.gEsz : Nat) : Int)⟩

/-- The ranks of a collective's group. -/
def State.ranksOf (s : State) (o : EngOp) : Nat := ((s.group? o.cGroup).map fun g => g.ranks.length).getD 0

/-- Rank of the issuing plot. -/
def State.myRank (s : State) (P : Plot) (o : EngOp) : Nat := ((s.group? o.cGroup).bind fun g => g.rankOf s.partno P).getD 0

/-- Elements that a rank reads and writes (R217). -/
def State.collReads (s : State) (P : Plot) (o : EngOp) : Nat :=
  match o.kind with
  | .collRs => s.ranksOf o * o.cCount
  | .collA2a => s.ranksOf o * o.cCount
  | .collBc => if s.myRank P o = o.cRoot then o.cCount else 0
  | _ => o.cCount

def State.collWrites (s : State) (o : EngOp) : Nat :=
  match o.kind with
  | .collAg => s.ranksOf o * o.cCount
  | .collA2a => s.ranksOf o * o.cCount
  | _ => o.cCount

/-- The reads of an operation. -/
def State.srcPlan (s : State) (P : Plot) (o : EngOp) : Plan :=
  match o.kind with
  | .gath => o.tablePlan
  | .scat => o.packPlan
  | .tmovZ => ⟨0, 1, fun _ => .gm 0⟩
  | .cpydec => ⟨o.cpyLen, 1, fun k => .gm (o.src + k)⟩
  | .cpyenc => ⟨o.cpyLen, 1, fun k => .gm (o.src + k)⟩
  | k =>
    if k.isColl then ⟨s.collReads P o, o.cEsz, fun k => spotOf (fieldOf o.cCtl 0 3) o.src ((k * o.cEsz : Nat) : Int)⟩
    else ⟨o.ext.foldl (fun a b => a * b) 1, o.esz, fun k => spotOf o.ssp o.src (strideSum k o.ext (o.strides 52))⟩

/-- The header of a weight segment (R209), as the first 64 bytes of the data read. -/
def EngOp.wRows (o : EngOp) : Nat := fieldAt o.data 6 1
def EngOp.wCols (o : EngOp) : Nat := fieldAt o.data 7 1

/-- The writes of an operation. DESIGN CHOICE (log 104): the element of CPYENC and CPYDEC is one byte. TMOV.R's slot stands in AUX once it is reserved (R206); TMOV.V writes past the version
word (R208). -/
def State.dstPlan (s : State) (o : EngOp) : Plan :=
  match o.kind with
  | .gath => o.packPlan
  | .scat => o.tablePlan
  | .cpydec => ⟨o.cpyLen, 1, fun k => .gm (o.dst + k)⟩
  | .cpyenc => ⟨o.cpyLen, 1, fun k => .gm (o.dst + k)⟩
  | .tmovW =>
    ⟨o.wRows * o.wCols, 64, fun k =>
      spotOf o.dsp o.dst ((k / o.wCols : Nat) * signed 32 (fieldAt o.desc 80 4) + ((64 * (k % o.wCols) : Nat) : Int))⟩
  | k =>
    if k.isColl then ⟨s.collWrites o, o.cEsz, fun k => spotOf (fieldOf o.cCtl 3 3) o.dst ((k * o.cEsz : Nat) : Int)⟩
    else
      let base := if k = .tmovV then o.dst + 8 else if k = .tmovR then o.aux % 2 ^ 32 else o.dst
      ⟨o.ext.foldl (fun a b => a * b) 1, o.esz, fun k => spotOf o.dsp base (strideSum k o.ext (o.strides 80))⟩

/-- Where the staged bytes of the first element stand in the data. -/
def EngOp.stagedAt (o : EngOp) : Nat := if o.kind.isGath then 4 * o.gCount else if o.kind = .tmovW then 64 else 0

/-- The elements that remain in force: those before the failing one. -/
def EngOp.limit (o : EngOp) (n : Nat) : Nat := if o.code = 0 then n else min n o.elem.toNat

def EngOp.finish (o : EngOp) (code sub elem : Nat) : EngOp :=
  { o with phase := .finished, code := BitVec.ofNat 8 code, sub := BitVec.ofNat 8 sub, elem := BitVec.ofNat 32 elem, fid := none }

/-- The failure of element k is noted; the elements before it remain. -/
def EngOp.noted (o : EngOp) (k code sub : Nat) : EngOp :=
  { o with code := BitVec.ofNat 8 code, sub := BitVec.ofNat 8 sub, elem := BitVec.ofNat 32 k, fid := none }

/-- The first element that fails the checks of R199, with its number. -/
def State.planFault (s : State) (P : Plot) (p : Plan) (writes : Bool) : Option (Nat × Nat × Nat) :=
  (List.range p.n).findSome? fun k => (s.spotFault P p.z writes (p.spot k)).map fun f => (k, f.1, f.2)

/-! ### Weight segments (R209 to R212) -/

def pad64 (n : Nat) : Nat := (n + 63) / 64 * 64

/-- Checks 0x01 to 0x03, and the part of 0x04 that concerns the index entry. -/
def segHead (o : EngOp) : Option Nat :=
  let h := o.data
  let t := o.aux % 2 ^ 32
  if fieldAt h 0 4 ≠ 0x31574B53 ∨ fieldAt h 4 1 ≠ 1 then some 1
  else if (fieldAt h 5 1 ≠ 1 ∧ fieldAt h 5 1 ≠ 2) ∨ o.wRows = 0 ∨ 128 < o.wRows ∨ o.wCols = 0 ∨ 16 < o.wCols ∨ fieldAt h 8 4 = 0 ∨
      fieldAt h 16 8 % 64 ≠ 0 ∨ fieldAt h 12 4 ≠ 0 ∨ fieldAt h 24 40 ≠ 0 then some 2
  else if fieldAt h 8 4 ≤ t then some 3
  else if o.aux / 2 ^ 32 * 64 < fieldAt h 16 8 + 8 * t + 8 then some 4
  else none

/-- The index entry's LEN and BOFF, once read behind the header. -/
def EngOp.segLen (o : EngOp) : Nat := fieldAt o.data 64 8 / 2 ^ 48
def EngOp.segOff (o : EngOp) : Nat := fieldAt o.data 64 8 % 2 ^ 48

/-- Check 0x04 on the body. -/
def segEntry (o : EngOp) : Option Nat :=
  if o.segOff % 64 ≠ 0 ∨ o.aux / 2 ^ 32 * 64 < o.segOff + 64 * o.segLen then some 4 else none

/-- The parts of a tile body. -/
structure SegBody where
  body  : List Byte
  p     : Nat
  es    : Nat
  bits  : Nat
  nblk  : Nat
  one   : Bool
  six   : Bool

def EngOp.segBody (o : EngOp) : SegBody :=
  let b := o.data.drop 72
  let t6 := fieldAt o.data 5 1 == 2
  let p := fieldAt b 0 1
  ⟨b, p, if t6 then 82 else 62, (p - 1).log2 + 1, o.wRows * o.wCols, bitOf (fieldAt b 1 1) 0, t6⟩

def SegBody.palSize (x : SegBody) : Nat := pad64 (16 + x.p)
def SegBody.nscale (x : SegBody) : Nat := if x.one then 1 else x.nblk
def SegBody.idxAt (x : SegBody) : Nat := x.palSize + pad64 x.nscale
def SegBody.idxBits (x : SegBody) : Nat := x.nblk * x.es * x.bits
/-- The index of element j of block b. -/
def SegBody.idx (x : SegBody) (b j : Nat) : Nat := natOf (x.body.drop x.idxAt) / 2 ^ ((b * x.es + j) * x.bits) % 2 ^ x.bits
def SegBody.code (x : SegBody) (i : Nat) : Nat := fieldAt x.body (16 + i) 1
def SegBody.scale (x : SegBody) (b : Nat) : Byte := x.body.getD (x.palSize + if x.one then 0 else b) 0

/-- Checks 0x05 to 0x09. DESIGN CHOICE (log 110): a body with LEN = 0 has no byte that gives P, and P counts as 0. -/
def segCheck (o : EngOp) : Option Nat :=
  let x := o.segBody
  if x.p < 2 ∨ 64 < x.p ∨ fieldAt x.body 1 1 / 2 ≠ 0 ∨ fieldAt x.body 2 2 ≠ 0 ∨ fieldAt x.body 8 8 ≠ 0 ∨
      (x.six ∧ (List.range x.p).any fun i => decide (64 ≤ x.code i)) then some 5
  else if 64 * o.segLen ≠ x.idxAt + pad64 ((x.idxBits + 7) / 8) then some 6
  else if (crc32c (x.body.drop 16)).toNat ≠ fieldAt x.body 4 4 then some 7
  else if (List.range x.nblk).any (fun b => (List.range x.es).any fun j => decide (x.p ≤ x.idx b j)) then some 8
  else if natOf ((x.body.take x.palSize).drop (16 + x.p)) ≠ 0 ∨ natOf ((x.body.take x.idxAt).drop (x.palSize + x.nscale)) ≠ 0 ∨
      natOf (x.body.drop x.idxAt) / 2 ^ x.idxBits ≠ 0 then some 9
  else none

/-- The block that expands block b (R211). -/
def SegBody.block (x : SegBody) (b : Nat) : List Byte :=
  denseBlock (if x.six then t6 else t8) ((List.range x.es).map fun j => x.code (x.idx b j)) (x.scale b).toInt

/-- The next read of TMOV.W: the header, the index entry, then the body in units of 64 bytes. -/
def segSpot (o : EngOp) : Spot × Nat :=
  match o.k with
  | 0 => (.gm o.src, 64)
  | 1 => (.gm (o.src + (fieldAt o.data 16 8 + 8 * (o.aux % 2 ^ 32) : Nat)), 8)
  | k => (.gm (o.src + (o.segOff + 64 * (k - 2) : Nat)), 64)

/-- What follows a read of TMOV.W: a failing check ends the operation with MALFORMED; the body complete, the blocks stand
in staging behind the header. -/
def segNext (o : EngOp) : EngOp :=
  let bad (r : Option Nat) (ok : EngOp) : EngOp :=
    match r with
    | some n => o.finish 2 n 0
    | none => ok
  let whole (o : EngOp) : EngOp :=
    match segCheck o with
    | some n => o.finish 2 n 0
    | none =>
      { o with phase := .check, k := 0,
               data := o.data.take 64 ++ (List.range o.segBody.nblk).flatMap o.segBody.block }
  match o.k with
  | 1 => bad (segHead o) o
  | 2 => bad (segEntry o) (if o.segLen = 0 then whole o else o)
  | k => if k - 2 < o.segLen then o else whole o

/-! ### Collectives (R216, R217) -/

/-- One combining step on element patterns. -/
def collStep (op a b : Nat) : Nat :=
  let w (f : Word → Word → Word) : Nat := (f (BitVec.ofNat 32 a) (BitVec.ofNat 32 b)).toNat
  match op with
  | 0 => (a + b) % 2 ^ 32
  | 1 => (a + b) % 2 ^ 64
  | 2 => w minI
  | 3 => w maxI
  | 4 => w minN
  | 5 => w maxN
  | 6 => w fun x y => x &&& y
  | 7 => w fun x y => x ||| y
  | 8 => f32.add .rn a b
  | 9 => f64.add .rn a b
  | _ => f32.pick false a b

/-- v_0 as the fold takes it: a NaN of a floating-point operation is canonical. -/
def collFirst (op a : Nat) : Nat :=
  if (op = 8 ∨ op = 10) ∧ f32.isNan a then f32.nan
  else if op = 9 ∧ f64.isNan a then f64.nan
  else a

def collFold (op : Nat) : List Nat → Nat
  | [] => 0
  | v :: vs => vs.foldl (collStep op) (collFirst op v)

/-- The destination bytes of rank r from the sources of all ranks. -/
def collResult (o : EngOp) (srcs : List (List Byte)) (r : Nat) : List Byte :=
  let z := o.cEsz
  let x (q k : Nat) : Nat := fieldAt (srcs.getD q []) (k * z) z
  let fold (k : Nat) : Nat := collFold o.cOp ((List.range srcs.length).map fun q => x q k)
  let ks := List.range o.cCount
  match o.kind with
  | .collAr => ks.flatMap fun k => leOf z (fold k)
  | .collRs => ks.flatMap fun k => leOf z (fold (r * o.cCount + k))
  | .collAg => srcs.flatMap fun b => bytesAt b 0 (o.cCount * z)
  | .collBc => bytesAt (srcs.getD o.cRoot []) 0 (o.cCount * z)
  | _ => srcs.flatMap fun b => bytesAt b (r * o.cCount * z) (o.cCount * z)

/-- The m-th operation of a rank of this part on the group: its gang and itself. -/
def State.collOf (s : State) (g : Group) (m : Nat) (r : Nat × Nat) : Option (Gang × EngOp) :=
  s.gangs.findSome? fun q =>
    (s.plot? q.2.plot).bind fun P =>
      if P.ctx = g.ctx ∧ P.lid = r.2 then (q.2.engCl.find? fun o => o.cGroup == g.handle && o.ring == m).map fun o => (q.2, o)
      else none

/-- The ranks of this part, with their numbers. -/
def State.localRanks (s : State) (g : Group) : List (Nat × (Nat × Nat)) :=
  ((List.range g.ranks.length).zip g.ranks).filter fun r => r.2.1 == s.partno

/-- Matched operations agree on mnemonic, OP, COUNT and ROOT. -/
def EngOp.agrees (a b : EngOp) : Bool := a.kind == b.kind && a.cOp == b.cOp && a.cCount == b.cCount && a.cRoot == b.cRoot

/-- Bytes that a peer part contributes: this state does not hold them, so they are free. -/
def freeBytes (n len : Nat) : List Byte :=
  ((List.range ((len + 7) / 8)).flatMap fun i => leOf 8 (Config.freeResult (n + i)).toNat).take len

/-- Replaces the operations of a collective. -/
def State.setOps (s : State) (l : List (Gang × EngOp)) : State :=
  l.foldl (fun s e =>
    match s.gang? e.1.plot e.1.idx with
    | some G => s.setGang (G.setOp 2 e.2)
    | none => s) s

/-- Every member's operation ends with one code. -/
def endAll (l : List (Gang × EngOp)) (code sub : Nat) : List (Gang × EngOp) := l.map fun e => (e.1, e.2.finish code sub 0)

/-- The first member with a failure: its own code stands, the others end with REMOTE. -/
def remoteAll (l : List (Gang × EngOp)) (code : Byte) : List (Gang × EngOp) :=
  l.map fun e => (e.1, if e.2.code ≠ 0 then { e.2 with phase := .finished } else e.2.finish 0x0B code.toNat 0)

/-- The sources of all ranks, those of peer parts free, and the state that has used the free values. -/
def State.collSources (s : State) (g : Group) (o : EngOp) (ops : List (Nat × Gang × EngOp)) : List (List Byte) × State :=
  let len := (if o.kind = .collRs ∨ o.kind = .collA2a then g.ranks.length * o.cCount else o.cCount) * o.cEsz
  (List.range g.ranks.length).foldl (fun acc r =>
    match ops.find? fun e => e.1 == r with
    | some e => (acc.1 ++ [e.2.2.data], acc.2)
    | none => (acc.1 ++ [freeBytes acc.2.free len], { acc.2 with free := acc.2.free + (len + 7) / 8 })) ([], s)

/-- All members of this part have come as far as `ph`: their ranks, gangs and operations. -/
def State.collAll (s : State) (g : Group) (m : Nat) (ph : EngPhase) : Option (List (Nat × Gang × EngOp)) :=
  let l := (s.localRanks g).map fun r => (s.collOf g m r.2).map fun e => (r.1, e.1, e.2)
  if l.all fun e => e.any fun x => x.2.2.phase == ph then some (l.filterMap id) else none

/-- The members meet once their sources are read: they agree and go on with their results, or all end. DESIGN CHOICE (log 111): members
that disagree end with MISMATCH also where one of them has failed, and where several have failed the others end with the code of the
lowest rank among those. -/
def State.collMeet (s : State) (g : Group) (m : Nat) : State :=
  match s.collAll g m .wait with
  | none => s
  | some ops =>
    let es := ops.map fun e => (e.2.1, e.2.2)
    match es with
    | [] => s
    | (_, o) :: _ =>
      let peers := g.ranks.any fun r => r.1 != s.partno
      let f := s.takeFree
      let v := (Config.freeResult f.1).toNat
      let s1 := if peers then f.2 else s
      if g.ranks.any fun r => !(s.domain.contains r.1) then s.setOps (endAll es 0x0C 0)
      else if !(es.all fun e => e.2.agrees o) ∨ (peers ∧ v % 3 = 1) then s1.setOps (endAll es 0x0A 0)
      else
        match es.find? fun e => e.2.code != 0 with
        | some bad => s1.setOps (remoteAll es bad.2.code)
        | none =>
          if peers ∧ v % 3 = 2 then s1.setOps (endAll es 0x0B (v / 3 % 256))
          else
            let r := s1.collSources g o ops
            r.2.setOps (ops.map fun e => (e.2.1, { e.2.2 with phase := .check, k := 0, data := collResult e.2.2 r.1 e.1 }))

/-- The members meet again before anything is written. -/
def State.collReady (s : State) (g : Group) (m : Nat) : State :=
  match s.collAll g m .ready with
  | none => s
  | some ops =>
    let es := ops.map fun e => (e.2.1, e.2.2)
    match es.find? fun e => e.2.code != 0 with
    | some bad => s.setOps (remoteAll es bad.2.code)
    | none => s.setOps (es.map fun e => (e.1, { e.2 with phase := if e.2.cCount = 0 then .finished else .write, k := 0 }))

/-! ### Starting an operation -/

/-- The key slot of a confidential context that an operation names (R219); none while an interface of the context is in ERROR (R360). -/
def State.keySlot (s : State) (P : Plot) (o : EngOp) : Option KeySlot :=
  let c := s.context P.ctx
  if c.conf && !(s.vfs.any fun q => q.2.ctx == P.ctx && q.2.tdisp == .error) then c.keys.getD o.cpySlot none else none

/-- The key and salt that an operation has taken stand before its data. -/
def KeySlot.head (k : KeySlot) : List Byte := keyBytes k.key ++ leOf 4 k.salt.toNat

/-- The end of a CPYDEC or CPYENC before it has read anything. A CPYENC has IV and TAG in its block all the same, before its status
(R220): `iv` is as much of the IV as is known, the rest is free. -/
def State.cpyFail (s : State) (G : Gang) (o : EngOp) (iv : List Byte) (code sub : Nat) : State :=
  if o.kind = .cpyenc then
    { s with free := s.free + 4 }.setGang
      (G.setOp 0 ({ o with desc := putAt o.desc 24 (iv ++ freeBytes s.free (28 - iv.length)) }.finish code sub 0))
  else s.setGang (G.setOp 0 (o.finish code sub 0))

/-- The start of CPYDEC and CPYENC (R219, R220): CPYDEC has its destination checked before it reads, CPYENC takes its counter. The security
engine's table must let the engines write to it (R383). DESIGN CHOICE (log 114): that is looked at after the block's checks and before the
key's. -/
def State.cpyStart (s : State) (P : Plot) (G : Gang) (o : EngOp) : State :=
  let put (o : EngOp) : State := s.setGang (G.setOp 0 o)
  match o.cpyBad, (if s.tableAllows targetSecurity .engines .store then s.keySlot P o else none) with
  | some b, _ => s.cpyFail G o [] 3 b
  | none, none => s.cpyFail G o [] (if s.tableAllows targetSecurity .engines .store then 0x0D else 7) 0
  | none, some k =>
    let o1 := { o with phase := .read, k := 0, ring := k.gen, data := k.head }
    if o.kind = .cpydec then
      if fieldAt o.desc 24 4 ≠ k.salt.toNat then put (o.finish 0x0D 0 0)
      else if ownerOf o.src ≠ 8 ∨ ownerOf o.dst = 8 then put (o.finish 7 0 0)
      else put { o1 with phase := .check }
    else
      let c := s.context P.ctx
      let s1 := s.setContext P.ctx { c with keys := c.keys.set o.cpySlot (some { k with send := k.send + 1 }) }
      if ownerOf o.dst ≠ 8 ∨ ownerOf o.src = 8 then
        s1.cpyFail G o (leOf 4 k.salt.toNat ++ leOf 8 (k.send + 1)) 7 0
      else s1.setGang (G.setOp 0 { o1 with ring := k.send + 1 })

/-- The version word of TMOV.V (R208). -/
def EngOp.versionSpot (o : EngOp) : Spot := spotOf o.dsp o.dst 0

/-- The reads of an operation are done, or the limit of a failing one is reached. -/
def EngOp.endRead (o : EngOp) : EngOp :=
  match o.kind with
  | .tmovV => { o with phase := .claim, k := 0 }
  | .cpydec => { o with phase := .claim, k := 0 }
  | .cpyenc =>
    let key := o.data.take 32
    let iv := bytesAt o.data 32 4 ++ leOf 8 o.ring
    let c := gcmText key iv (o.data.drop 36)
    { o with phase := .write, k := 0, data := c, desc := putAt o.desc 24 (iv ++ gcmTag key iv c) }
  | k => if k.isColl then { o with phase := .wait, k := 0 } else { o with phase := .write, k := 0 }

/-- The writes are done: TMOV.R fills its slot in its turn. -/
def EngOp.endWrite (o : EngOp) : EngOp := { o with phase := if o.kind = .tmovR then .fill else .finished, fid := none }

/-- Passes over reads and writes that have no element left. DESIGN CHOICE (log 104): with an extent of 0 a TMOV.V still makes its claim,
and a TMOV.R still reserves and fills a slot. -/
def State.settleOp (s : State) (P : Plot) (o : EngOp) : EngOp :=
  let o1 := if o.phase = .read ∧ o.kind ≠ .tmovW ∧ o.limit (s.srcPlan P o).n ≤ o.k then o.endRead else o
  if o1.phase = .write ∧ o1.limit (s.dstPlan o1).n ≤ o1.k then o1.endWrite else o1

/-- A descriptor of a TMOV word (R200, R206, R208). TMOV.R has its source checked before it reserves; a failure leaves the elements
before it to copy (R196). DESIGN CHOICE (log 104): where both a source and a destination element fail, the source's failure is
reported, whatever the element numbers. -/
def State.copyStart (s : State) (P : Plot) (o : EngOp) : EngOp :=
  match o.tmovBad with
  | some b => o.finish 3 b 0
  | none =>
    match o.kind with
    | .tmovR =>
      match s.planFault P (s.srcPlan P o) false with
      | some (k, c, u) => { o.noted k c u with phase := .reserve }
      | none => { o with phase := .reserve }
    | .tmovV =>
      match s.spotFault P 8 true o.versionSpot with
      | some f => o.finish f.1 f.2 0
      | none =>
        match s.planFault P (s.srcPlan P o) false <|> s.planFault P (s.dstPlan o) true with
        | some (k, c, u) => o.finish c u k
        | none => s.settleOp P { o with phase := .read, k := 0 }
    | _ => s.settleOp P { o with phase := .read, k := 0 }

/-- A descriptor of GATH or SCAT: the index array must lie in the bower (R214). -/
def State.gathStart (s : State) (P : Plot) (o : EngOp) : EngOp :=
  let ix := fieldAt o.desc 16 4
  match o.gathBad with
  | some b => o.finish 3 b 0
  | none =>
    if ix % 4 ≠ 0 ∨ P.tmpl.l1s < ix + 4 * o.gCount then o.finish 5 0 0
    else if o.gCount = 0 then o.finish 0 0 0
    else { o with phase := .index, k := 0 }

/-- A descriptor of a collective: its own failures wait for the other members. -/
def State.collStart (s : State) (P : Plot) (o : EngOp) : EngOp :=
  let fail (c u k : Nat) : EngOp := { o.noted k c u with phase := .wait }
  let mine := (s.group? o.cGroup).any fun g => (g.rankOf s.partno P).isSome
  match s.collBad P o with
  | some b => if mine then fail 3 b 0 else o.finish 3 b 0
  | none =>
    match s.planFault P (s.srcPlan P o) false <|> s.planFault P (s.dstPlan o) true with
    | some (k, c, u) => fail c u k
    | none => s.settleOp P { o with phase := .read, k := 0 }

/-! ### One access -/

/-- An access has failed at element k. -/
def EngOp.failAt (o : EngOp) (k code sub : Nat) : EngOp :=
  if o.phase = .write then
    (if o.kind = .tmovR then { o.noted k code sub with phase := .fill } else o.finish code sub k)
  else if o.kind.isColl then { o.noted k code sub with phase := if o.phase = .check then .ready else .wait }
  else if o.kind.keepsPrefix then o.noted k code sub
  else o.finish code sub k

/-- The elements that one access moves: one, but CPYDEC and CPYENC, whose elements are bytes, move the rest of an aligned 4-byte word,
which R168 makes one write. -/
def EngOp.unit (o : EngOp) (base n : Nat) : Nat := if o.kind.isCpy then min (4 - (base + o.k) % 4) (n - o.k) else 1

/-- An element has been read. -/
def State.readNext (s : State) (P : Plot) (o : EngOp) (bs : List Byte) : EngOp :=
  let z := (s.srcPlan P o).z
  let o1 := { o with data := o.data ++ bs, k := o.k + (if o.kind = .tmovW then 1 else bs.length / z), fid := none }
  if o.kind = .tmovW then segNext o1 else s.settleOp P o1

/-- One read of the operation. -/
def State.engReadStep (s : State) (P : Plot) (G : Gang) (c : Nat) (o : EngOp) : State :=
  let p := s.srcPlan P o
  let sp := if o.kind = .tmovW then segSpot o else (p.spot o.k, p.z)
  let r := s.engRead P G o.fid sp.1 sp.2 (o.kind == .cpyenc) (o.unit o.src (o.limit p.n) * sp.2)
  let o1 := match r.1 with
    | .ok bs => r.2.readNext P o bs
    | .wait fid => { o with fid := fid }
    | .fail code sub => r.2.settleOp P (o.failAt (if o.kind = .tmovW then 0 else o.k) code sub)
  r.2.setGang (G.setOp c o1)

/-- One index of GATH or SCAT; after the last, or the last before a poisoned one, the elements are read. -/
def State.engIndexStep (s : State) (P : Plot) (G : Gang) (c : Nat) (o : EngOp) : State :=
  let r := s.engRead P G none (.scr 0 ((fieldAt o.desc 16 4 + 4 * o.k : Nat) : Int)) 4 false
  let toRead (o : EngOp) : EngOp := r.2.settleOp P { o with phase := .read, k := 0, data := bytesAt o.data 0 (4 * o.gCount) }
  let o1 := match r.1 with
    | .ok bs =>
      let o1 := { o with data := o.data ++ bs, k := o.k + 1 }
      if o1.k < o.gCount then o1 else toRead o1
    | .wait _ => o
    | .fail code sub => toRead (o.noted o.k code sub)
  r.2.setGang (G.setOp c o1)

/-- After the last check of a destination. -/
def EngOp.endCheck (o : EngOp) : EngOp :=
  if o.kind.isColl then { o with phase := .ready, k := 0 }
  else if o.kind = .cpydec then { o with phase := .read, k := 0 }
  else { o with phase := .write, k := 0 }

/-- One destination of an operation that writes all or nothing is checked at its owner (R196). -/
def State.engCheckStep (s : State) (P : Plot) (G : Gang) (c : Nat) (o : EngOp) : State :=
  let p := s.dstPlan o
  if p.n ≤ o.k then s.setGang (G.setOp c o.endCheck)
  else
    let n := o.unit o.dst p.n
    let r := s.engWrite P G o.fid (p.spot o.k) p.z (o.kind == .cpydec) none
    let o1 := match r.1 with
      | .ok _ => { o with k := o.k + n, fid := none }
      | .wait fid => { o with fid := fid }
      | .fail code sub => o.failAt o.k code sub
    r.2.setGang (G.setOp c o1)

/-- TMOV.R's elements must lie within the reserved slot (R206). -/
def EngOp.slotFault (o : EngOp) (sp : Spot) (z : Nat) : Bool :=
  match o.kind, sp with
  | .tmovR, .scr _ a => decide (a < (o.aux % 2 ^ 32 : Nat)) || decide ((o.aux % 2 ^ 32 + o.aux / 2 ^ 32 : Nat) < a + z)
  | _, _ => false

/-- The operation has all its destinations checked before its first write (R196). -/
def EngOp.checks (o : EngOp) : Bool := o.kind == .tmovW || o.kind == .cpydec || o.kind.isColl

/-- The elements that a checked operation has still to write at the translations that their owners found for its check: they keep
an invalidation from completing (R320). -/
def EngOp.owed (o : EngOp) (n : Nat) : List Nat :=
  if !o.checks then []
  else match o.phase with
    | .check => List.range (min o.k n)
    | .ready => List.range n
    | .claim => List.range n
    | .read => if o.kind = .cpydec then List.range n else []
    | .write => (List.range n).drop o.k
    | _ => []

/-- A checked write that is not performed yet lies at an owner's offsets from `lo` up to `hi`, in a context. -/
def State.owes (s : State) (owner ctx lo hi : Nat) : Bool :=
  s.gangs.any fun q => (s.plot? q.2.plot).any fun P => P.ctx == ctx && (q.2.engCp ++ q.2.engCl).any fun o =>
    let p := s.dstPlan o
    (o.owed p.n).any fun k => match p.spot k with
      | .gm a => partOf a.toNat == s.partno && ownerOf a.toNat == owner && decide (lo ≤ offOf a.toNat) && decide (offOf a.toNat < hi)
      | _ => false

/-- One write of the operation. DESIGN CHOICE (log 60): a write that fails though its check has passed ends the operation at its
element. -/
def State.engWriteStep (s : State) (P : Plot) (G : Gang) (c : Nat) (o : EngOp) : State :=
  let p := s.dstPlan o
  let sp := p.spot o.k
  let n := o.unit o.dst (o.limit p.n)
  let bs := bytesAt o.data (o.stagedAt + o.k * p.z) (n * p.z)
  let r := if o.slotFault sp p.z ∧ (s.spotFault P p.z true sp).all (fun f => f.1 != 4) then (.fail 5 0, s)
    else s.engWrite P G o.fid sp p.z (o.kind == .cpydec) (some bs)
  let o1 := match r.1 with
    | .ok _ => r.2.settleOp P { o with k := o.k + n, fid := none }
    | .wait fid => { o with fid := fid }
    | .fail code sub => o.failAt o.k code sub
  r.2.setGang (G.setOp c o1)

/-- One step of an operation of the classes CP, GS and CL. -/
def State.engStep (s : State) (P : Plot) (G : Gang) (c : Nat) (o : EngOp) : State :=
  match o.phase with
  | .start =>
    if o.kind.isCpy then s.cpyStart P G o
    else s.setGang (G.setOp c (if o.kind.isCopy then s.copyStart P o else if o.kind.isGath then s.gathStart P o else s.collStart P o))
  | .index => s.engIndexStep P G c o
  | .read => s.engReadStep P G c o
  | .check => s.engCheckStep P G c o
  | .write => s.engWriteStep P G c o
  | .wait =>
    match s.group? o.cGroup with
    | some g => s.collMeet g o.ring
    | none => s.setGang (G.setOp c (o.finish 0x0C 0 0))
  | .ready =>
    match s.group? o.cGroup with
    | some g => s.collReady g o.ring
    | none => s.setGang (G.setOp c (o.finish 0x0C 0 0))
  | _ => s

/-! ### TMOV_R_RESERVE, TMOV_R_FILL, TMOV_V_CLAIM, CPYDEC_CHECK, GROUP_ABORT -/

/-- A step of an operation of a class whose gates are open (R168, R179, R308). -/
def State.onOp (s : State) (p g c n : Nat) (f : Plot → Gang → EngOp → State) : Res :=
  match s.plot? p, s.gang? p g with
  | some P, some G =>
    match G.op? c n with
    | some o => if G.pastBoundary o.seq && G.pastChimes o.seq && G.pastAcqLoads o.seq then .next (f P G o) else .next s
    | none => .next s
  | _, _ => .next s

/-- Every older TMOV.R of the gang on the same ring has reached past its reservation (R206). -/
def Gang.ringTurn (G : Gang) (o : EngOp) : Bool :=
  (G.engCp.takeWhile fun x => x.num != o.num).all fun x => !(x.kind == .tmovR && x.dst == o.dst && (x.phase == .start || x.phase == .reserve))

/-- The ring object of a TMOV.R, or the CODE that it ends with: POISON for one that cannot be read (R195), RING for one that is
invalid (R207). DESIGN CHOICE (log 104): a DST that is not 32-byte aligned, or that lies outside the allocation, ends it with RING. -/
def ringOf (P : Plot) (o : EngOp) : Except Nat (List Byte × Ring) :=
  if o.dst % 32 ≠ 0 ∨ P.tmpl.l1s < o.dst + 32 then .error 9
  else if P.bower.poisoned o.dst 32 then .error 8
  else
    let bs := P.bower.readN o.dst 32
    if (Ring.of bs).ok P.tmpl.l1s then .ok (bs, Ring.of bs) else .error 9

def execTmovRReserve (p g n : Nat) (s : State) : Res :=
  s.onOp p g 0 n fun P G o =>
    if o.phase = .reserve ∧ G.ringTurn o ∧ P.reachable then
      match ringOf P o with
      | .error c => s.setGang (G.setOp 0 (o.finish c 0 0))
      | .ok (bs, r) =>
        if r.resv.getLsbD r.np || r.fill.getLsbD r.np then s
        else
          let r1 := { r with resv := r.resv ||| ((1 : Word64) <<< r.np), np := (r.np + 1) % r.count }
          let P1 := { P with bower := P.bower.writeN o.dst (r1.put bs) }
          let slot := r.base + r.np * r.ssize
          let o1 := { o with phase := .read, k := 0, ring := r.np, desc := putAt o.desc 112 (leOf 4 slot ++ leOf 4 r.ssize) }
          let s1 := s.setPlot P1
          s1.setGang (G.setOp 0 (s1.settleOp P1 o1))
    else s

/-- A slot fills in its turn. An object that has become invalid ends the copy with RING, or POISON. -/
def execTmovRFill (p g n : Nat) (s : State) : Res :=
  s.onOp p g 0 n fun P G o =>
    if o.phase = .fill ∧ P.reachable then
      match ringOf P o with
      | .error c => s.setGang (G.setOp 0 (o.finish c 0 0))
      | .ok (bs, r) =>
        if r.wp = o.ring then
          let b : Word64 := (1 : Word64) <<< o.ring
          let r1 := { r with resv := r.resv &&& ~~~ b, fill := r.fill ||| b, wp := (o.ring + 1) % r.count }
          (s.setPlot { P with bower := P.bower.writeN o.dst (r1.put bs) }).setGang (G.setOp 0 { o with phase := .finished })
        else s
    else s

/-- The indivisible step at the version word (R208). -/
def execTmovVClaim (p g n : Nat) (s : State) : Res :=
  s.onOp p g 0 n fun P G o =>
    if o.phase = .claim ∧ o.kind = .tmovV then
      let r := s.engRmw P G o.fid o.versionSpot fun bs => if natOf bs = o.aux then some (leOf 8 (o.aux + 1)) else none
      let o1 := match r.1 with
        | .wait fid => { o with fid := fid }
        | .fail c u => o.finish c u 0
        | .ok bs => if natOf bs = o.aux then r.2.settleOp P { o with phase := .write, k := 0, fid := none } else o.finish 1 0 0
      r.2.setGang (G.setOp 0 o1)
    else s

/-- The security engine's check (R219, R363); the operations of one gang on one slot arrive in issue order. -/
def execCpydecCheck (p g n : Nat) (s : State) : Res :=
  s.onOp p g 0 n fun P G o =>
    let turn := (G.engCp.takeWhile fun x => x.num != o.num).all fun x =>
      !(x.kind == .cpydec && x.cpySlot == o.cpySlot && x.phase != .write && x.phase != .finished)
    if o.phase = .claim ∧ o.kind = .cpydec ∧ turn then
      let put (o : EngOp) : State := s.setGang (G.setOp 0 o)
      match s.keySlot P o with
      | none => put (o.finish 0x0D 0 0)
      | some k =>
        let ctr := fieldAt o.desc 28 8
        let cipher := o.data.drop 36
        if k.gen ≠ o.ring then put (o.finish 0x0D 0 0)
        else if ctr ≤ k.recv then put (o.finish 0x0E 0 0)
        else if gcmTag (keyBytes k.key) o.cpyIv cipher ≠ o.cpyTag then put (o.finish 0x0F 0 0)
        else
          let c := s.context P.ctx
          let s1 := s.setContext P.ctx { c with keys := c.keys.set o.cpySlot (some { k with recv := ctr }) }
          s1.setGang (G.setOp 0 { o with phase := .write, k := 0, data := gcmText (keyBytes k.key) o.cpyIv cipher })
    else s

/-- An operation of a group that has not ended. DESIGN CHOICE (log 60): one that is aborted while it writes has written some elements. -/
def EngOp.pendsOn (o : EngOp) (h : Word) : Bool := o.cGroup == h && o.phase != .finished

/-- Every pending operation on some groups ends with ABORT (R217, R369). -/
def State.abortGroups (s : State) (hs : List Word) : State :=
  { s with gangs := s.gangs.map fun q =>
      (q.1, { q.2 with engCl := q.2.engCl.map fun o => if hs.any o.pendsOn then o.finish 0x0C 0 0 else o }) }

/-- The group service aborts a group (R217). -/
def execGroupAbort (h : Word) (s : State) : Res := .next (s.abortGroups [h])

end Sys2Proof.Machine
end

