-- ==== Sys2Proof/Machine/Streams.lean ====
section
/-! DEFINITION. Machine/Streams.lean: capabilities (R277), the stream table and its watermarks (R275, R280, R282), notify,
fetch and replay (R278, R279, R281, R185), posts and marks at the hub (R297, R298), the stream service's steps (R295) and
the ERROR streams' acknowledgement (R356). -/

namespace Sys2Proof.Machine

/-! ### Capabilities (R277) -/

def capStream (c : List Byte) : Nat := fieldAt c 0 2 % 2 ^ 12
def capKind (c : List Byte) : Nat := fieldAt c 0 2 / 2 ^ 12 % 4
def capLog2 (c : List Byte) : Nat := fieldAt c 2 1 / 16 + 16 * (fieldAt c 3 1 % 2)
def capRights (c : List Byte) : Nat := fieldAt c 2 1 % 16
def capCtx (c : List Byte) : Nat := fieldAt c 4 2
def capGen (c : List Byte) : Nat := fieldAt c 6 2
def capRing (c : List Byte) : Nat := fieldAt c 8 8

def rightPost : Nat := 0
def rightMark : Nat := 1
def rightRead : Nat := 2
def rightMap : Nat := 3

/-- The first 96 bits of the CMAC over bytes 0 to 19 under the stream key. -/
def State.seal (s : State) (c : List Byte) : List Byte := (cmac (keyBytes s.fw.streamKey) (bytesAt c 0 20)).take 12

/-- The capability of a stream of this part that unseals. -/
def State.unseal (s : State) (c : List Byte) : Option Stream :=
  match s.streams.find (capStream c) with
  | none => none
  | some st =>
    if bytesAt c 20 12 = s.seal c ∧ fieldAt c 0 2 / 2 ^ 14 = 0 ∧ fieldAt c 3 1 / 2 = 0 ∧ fieldAt c 16 4 = 0 ∧
        4 ≤ capLog2 c ∧ capLog2 c ≤ 20 ∧ st.kind = capKind c ∧ st.ring = capRing c ∧ st.log2 = capLog2 c ∧ st.gen = capGen c then
      some st
    else none

def hasRight (c : List Byte) (k : Nat) : Bool := bitOf (capRights c) k

/-- The capability that the stream service issues. -/
def State.capOf (s : State) (n : Nat) (st : Stream) (rights : Nat) : List Byte :=
  let c := leOf 2 (n % 2 ^ 12 + st.kind % 4 * 2 ^ 12) ++ leOf 1 (rights % 16 + st.log2 % 16 * 16) ++ leOf 1 (st.log2 / 16 % 2) ++
    leOf 2 st.ctx ++ leOf 2 st.gen ++ leOf 8 st.ring ++ leOf 4 0
  c ++ s.seal c

/-! ### Streams (R275, R280 to R282) -/

/-- Epoch and position of a REPLAY stream's index (R281). -/
def Stream.epochOf (st : Stream) (q : Nat) : Nat := st.epoch0 + q / st.nrec
def Stream.replayEnd (st : Stream) : Nat := st.nrec * st.epochs

/-- The effective watermark (R280); an ERROR stream never constrains a horizon. -/
def State.watermark (s : State) (st : Stream) : Int :=
  if st.kind = kLive then (s.time.toNat - st.lateness : Nat)
  else if st.kind = kOrdered then st.weff
  else if st.kind = kReplay then
    (if st.replayEnd ≤ st.e then 2 ^ 64 - 1 else (st.epochOf st.e * 2 ^ 32 + st.e % st.nrec : Nat) - 1)
  else 2 ^ 64 - 1

/-- After readers have moved: events that every reader has passed leave the buffer, and the overrun state clears. -/
def Stream.trim (st : Stream) : Stream :=
  let r := (st.readers.map fun r => st.nextAt r.pos).min?.getD st.e
  let st1 := { st with evq := st.evq.filter fun v => decide (r ≤ v.idx) }
  { st1 with overrun := st1.overrun && decide (st1.room < st1.tail) }

/-- A mark (R280): it takes effect once every entry notified before it has been fetched. -/
def Stream.mark (st : Stream) (v : Nat) : Stream :=
  if v ≤ st.w then st
  else if st.tail ≤ st.e then { st with w := v, weff := max st.weff v }
  else { st with w := v, marks := st.marks ++ [(v, st.tail)] }

/-- Marks whose entries are all fetched. -/
def Stream.ripen (st : Stream) : Stream :=
  let ripe := st.marks.filter fun m => decide (m.2 ≤ st.e)
  { st with weff := (ripe.map (·.1)).foldl max st.weff, marks := st.marks.filter fun m => decide (st.e < m.2) }

def evTs (b : List Byte) : Nat := fieldAt b 0 8
def evSeq (b : List Byte) : Nat := fieldAt b 8 8
def evKind (b : List Byte) : Nat := fieldAt b 16 2
def evKey (b : List Byte) : Word := BitVec.ofNat 32 (fieldAt b 20 4)

/-- Consumes event e of a stream (R185, R280). -/
def State.consume (s : State) (n : Nat) (st : Stream) (ev : List Byte) : State :=
  let late := st.kind != kError && decide ((evTs ev : Int) ≤ s.watermark st)
  let st1 := ({ st with
    e := st.e + 1
    pending := decide (st.e + 1 < st.tail)
    late := if late then satInc st.late else st.late
    evq := if late then st.evq else st.evq ++ [⟨st.e, ev⟩] } : Stream).ripen.trim
  let s1 := { s with streams := s.streams.put n st1 }
  if late && st.kind == kOrdered then
    s1.errRecord st.ctx 0x0005 0 (wordBytes [n, evTs ev % 2 ^ 32, evTs ev / 2 ^ 32, evSeq ev % 2 ^ 32])
  else s1

/-! ### STREAM_FETCH, REPLAY_EMIT -/

/-- The stream that the scanner serves next (R279): the first pending one from the origin on. -/
def State.scanNext (s : State) : Option Nat :=
  let ns := (s.streams.filter fun q => q.2.pending && q.2.kind != kReplay).map (·.1)
  (ns.filter fun n => decide (s.scan ≤ n)).min? <|> ns.min?

/-- One fetch step of the stream that is served; the origin moves on. -/
def execStreamFetch (n : Nat) (s : State) : Res :=
  if !s.booted ∨ s.scanNext ≠ some n then .next s
  else
    match s.streams.find n with
    | none => .next s
    | some st =>
      match s.partAccess st.ctx (slotAddr st st.e) .engRead .escapement (hubWho .engRead) .other [n] with
      | (.ok l, s) =>
        let s1 := { s with scan := (n + 1) % 4096 }
        let ev := s.readLoc l 64
        if s.poisonedLoc l 64 ∨ evSeq ev ≠ st.e then .next s1 else .next (s1.consume n st ev)
      | (_, s) => .next { s with scan := (n + 1) % 4096 }

/-- mix of R281. -/
def replayMix (z : Word64) : Word64 :=
  let z := (z ^^^ (z >>> 30)) * 0xBF58476D1CE4E5B9
  let z := (z ^^^ (z >>> 27)) * 0x94D049BB133111EB
  z ^^^ (z >>> 31)

/-- ceil(log2 n). -/
def ceilLog2 (n : Nat) : Nat := if n ≤ 1 then 0 else (n - 1).log2 + 1

/-- h of R281, half the width w. -/
def replayHalf (n : Nat) : Nat := (max 2 (ceilLog2 n) + 1) / 2

/-- perm of R281. -/
def replayPerm (n : Nat) (seed : Word64) (ep v : Nat) : Nat :=
  let h := replayHalf n
  let k (j : Nat) : Word64 := replayMix (seed + BitVec.ofNat 64 ep * 0x9E3779B97F4A7C15 + BitVec.ofNat 64 j)
  let r := (List.range 4).foldl (fun (x : Nat × Nat) j =>
    (x.2, x.1 ^^^ ((replayMix (BitVec.ofNat 64 x.2 ^^^ k j)).toNat % 2 ^ h))) (v / 2 ^ h, v % 2 ^ h)
  r.1 * 2 ^ h + r.2

/-- Walks the cycle until a record number; the permutation's domain bounds the walk. -/
def replayWalk (n : Nat) (seed : Word64) (ep x : Nat) : Nat → Nat
  | 0 => x
  | fuel + 1 => if x < n then x else replayWalk n seed ep (replayPerm n seed ep x) fuel

/-- π(p). -/
def replayOrder (n : Nat) (seed : Word64) (ep p : Nat) : Nat :=
  replayWalk n seed ep (replayPerm n seed ep p) (2 ^ (2 * replayHalf n))

/-- A REPLAY stream emits its next record, which is consumed at once (R281). -/
def execReplayEmit (n : Nat) (s : State) : Res :=
  match s.streams.find n with
  | none => .next s
  | some st =>
    if !s.booted ∨ st.kind ≠ kReplay ∨ st.replayEnd ≤ st.e then .next s
    else
      let ep := st.epochOf st.e
      let p := st.e % st.nrec
      let x := replayOrder st.nrec st.seed ep p
      match s.partAccess st.ctx (st.ring + 64 * x) .engRead .escapement (hubWho .engRead) .other [n] with
      | (.ok l, s) =>
        let ev := leOf 8 (ep * 2 ^ 32 + p) ++ leOf 8 st.e ++ (s.readLoc l 64).drop 16
        .next (s.consume n { st with tail := st.e + 1 } ev)
      | (_, s) => .next s

/-! ### NOTIFY (R278) -/

/-- The reason of the first failing check. -/
def State.notifyFail (s : State) (off : Nat) (b : List Byte) : Option Nat :=
  let c := bytesAt b 0 32
  if off % 64 ≠ 0 ∨ b.length ≠ 64 ∨ fieldAt b 49 15 ≠ 0 ∨ 2 ≤ fieldAt b 48 1 then some 3
  else match s.unseal c with
    | none => some 1
    | some st =>
      if !hasRight c rightPost then some 2
      else if st.kind = kReplay ∨ st.kind = kError then some 4
      else if fieldAt b 48 1 = 1 ∧ !hasRight c rightMark then some 2
      else none

/-- A notify that passes its checks. -/
def State.notify (s : State) (b : List Byte) : State :=
  let n := capStream b
  match s.streams.find n with
  | none => s
  | some st =>
    let tail := fieldAt b 32 8
    let beyond := decide (st.room < tail)
    let st1 := { st with tail := max st.tail tail, overrun := st.overrun || beyond }
    let st2 := if fieldAt b 48 1 = 1 then st1.mark (fieldAt b 40 8) else st1
    let s1 := { s with streams := s.streams.put n { st2 with pending := decide (st2.e < st2.tail) } }
    if beyond && !st.overrun then
      s1.errRecord st.ctx 0x0006 0 (wordBytes [n, tail % 2 ^ 32, st.released % 2 ^ 32, 0])
    else s1

/-- A write to a notify page: one step at the hub. -/
def State.notifyWrite (s : State) (page off : Nat) (b : List Byte) : State :=
  match s.notifyPages.find page with
  | none => s
  | some ctx =>
    if !s.booted then s
    else match s.notifyFail off b with
    | some r => s.errRecord ctx 0x0007 0 (wordBytes [page, r, 0])
    | none => s.notify b

/-! ### Posts and marks at the hub (R298) -/

/-- How a post ends: a status, or a wait for a translation. -/
inductive HubEnd where
  | done (code sub elem : Nat)
  | wait

/-- The status of a post to a stream of a peer part, whose stream table this state does not hold: a free value. -/
def State.peerPost (s : State) : HubEnd × State :=
  let f := s.takeFree
  let v := (Config.freeResult f.1).toNat
  let q := v / 8 % 2 ^ 32
  (match v % 6 with
   | 0 => .done 0 0 q
   | 1 => .done 0 1 0
   | 2 => .done 0x10 0 0
   | 3 => .done 0x11 0 0
   | 4 => .done 0x12 0 0
   | _ => .done 0x13 0 0, f.2)

/-- The status of a mark on a stream of a peer part: a free value among those of R298, with ELEM 0. -/
def State.peerMark (s : State) : HubEnd × State :=
  let f := s.takeFree
  (match (Config.freeResult f.1).toNat % 3 with
   | 0 => .done 0 0 0
   | 1 => .done 0x10 0 0
   | _ => .done 0x13 0 0, f.2)

/-- The part whose hub owns a capability's stream: the owner of its ring. -/
def State.capHome (s : State) (c : List Byte) : Option Bool :=
  let part := partOf (capRing c)
  if part = s.partno then some true else if s.domain.contains part then some false else none

/-- The post of R298 at the hub of this part; `id` names the poster among those of its master. The slot is written under a hart's
context (R366), else under the stream's own (log 112). -/
def State.hubPostHere (s : State) (c ev : List Byte) (m : Master) (w : FaultWho) (id : List Nat) (as_ : Option Nat := none) : HubEnd × State :=
  let n := capStream c
  match s.unseal c with
  | none => (.done 0x10 0 0, s)
  | some st =>
    if !hasRight c rightPost then (.done 0x10 0 0, s)
    else if st.kind = kReplay ∨ st.kind = kError then (.done 0x13 0 0, s)
    else
      let W : Int := if st.kind = kLive then s.watermark st else st.w
      if (evTs ev : Int) ≤ W then (if st.kind = kLive then .done 0 1 0 else .done 0x11 0 0, s)
      else if st.room ≤ st.tail then (.done 0x12 0 0, s)
      else
        match s.partAccess (as_.getD st.ctx) (slotAddr st st.tail) .engWrite m w .other id with
        | (.wait, s) => (.wait, s)
        | (.denied, s) => (.done 0x07 0 0, s)
        | (.ok l, s) =>
          let e := putAt (bytesAt ev 0 64) 8 (leOf 8 st.tail)
          match s.streams.find n with
          | none => (.done 0x10 0 0, s)
          | some st1 =>
            (.done 0 0 (st.tail % 2 ^ 32),
             { (s.writeLoc l e).fire l 64 with streams := s.streams.put n { st1 with tail := st.tail + 1, pending := true } })

/-- A post at the hub that owns its stream. DESIGN CHOICE (log 112): a ring of a part outside the domain has no hub to unseal its
capability, and the post ends with ADDR, SUB 4, the status that R194 gives such an address. -/
def State.hubPost (s : State) (c ev : List Byte) (m : Master) (w : FaultWho) (id : List Nat) (as_ : Option Nat := none) : HubEnd × State :=
  match s.capHome c with
  | some true => s.hubPostHere c ev m w id as_
  | some false => s.peerPost
  | none => (.done 4 4 0, s)

/-- The mark of EVWM at the hub of this part; of a ring outside the domain as for a post (log 112). -/
def State.hubMark (s : State) (rec_ : List Byte) : HubEnd × State :=
  let c := bytesAt rec_ 0 32
  if fieldAt rec_ 40 16 ≠ 0 then (.done 3 40 0, s)
  else match s.capHome c with
    | none => (.done 4 4 0, s)
    | some false => s.peerMark
    | some true =>
      match s.unseal c with
      | none => (.done 0x10 0 0, s)
      | some st =>
        if !hasRight c rightMark then (.done 0x10 0 0, s)
        else if st.kind ≠ kOrdered then (.done 0x13 0 0, s)
        else (.done 0 0 0, { s with streams := s.streams.put (capStream c) (st.mark (fieldAt rec_ 32 8)) })

/-! ### EVPOST, EVPOST.NB, EVWM (R298, R390) -/

/-- The issue number since which a slot is blocked in EVPOST. -/
def PcSlot.postSince (S : PcSlot) : Option Nat :=
  match S.wait with
  | .evpost n _ => some n
  | _ => none

/-- No other slot has been blocked in EVPOST for longer. -/
def Gang.postTurn (G : Gang) (sl : SlotId) (mine : Option Nat) : Bool :=
  match (G.slot (otherSlot sl)).bind PcSlot.postSince with
  | some n => match mine with
    | some m => decide (m < n)
    | none => false
  | none => true

/-- The queue has an entry for the slot. -/
def Issuer.mayPost (x : Issuer) : Bool := decide (x.G.postq < 4) && x.G.postTurn x.sl x.S.postSince

/-- A post that finds no entry raises no counter (R390), so that a counter at 63 holds only one that finds an entry. -/
def Issuer.postFull (x : Issuer) : Bool := x.mayPost && decide (63 ≤ (x.G.cls 3).count)

def execEvpost (a : SReg) (e : BitVec 10) (s : State) : Res :=
  engWordIf Issuer.postFull 3 .evpost a e 32 96 [] (fun s x G =>
    if x.mayPost then s.done x { G with postq := G.postq + 1 } 8
    else (s.setGang (x.G.block x.sl x.S (.evpost (x.S.postSince.getD x.G.seq) (bowerOff x a e 32).toNat))).settled x.P.id) s

def execEvpostNb (d a : SReg) (e : BitVec 10) (s : State) : Res :=
  engWordIf Issuer.postFull 3 .evpost a e 32 96 [d.toNat] (fun s x G =>
    if x.mayPost then s.done x ({ G with postq := G.postq + 1 }.ws d 0) 8 else s.done x (x.G.ws d 1) 8) s

def execEvwm (a : SReg) (e : BitVec 10) (s : State) : Res :=
  engWord 3 .evwm a e 64 64 [] (fun s x G => s.done x G 8) s

/-- The oldest post or mark of a gang that has not been taken at the hub. -/
def Gang.nextPost (G : Gang) : Option EngOp :=
  G.engEv.find? fun o => (o.kind == .evpost || o.kind == .evwm) && o.phase != .finished

/-- A gang's next post or mark takes its step at the hub, in the gang's EV issue order. -/
def execPostAtHub (p g : Nat) (s : State) : Res :=
  match s.plot? p, s.gang? p g with
  | some P, some G =>
    match G.nextPost with
    | none => .next s
    | some o =>
      if G.pastBoundary o.seq && G.pastChimes o.seq && G.pastAcqLoads o.seq then
        let r := if o.kind = .evwm then s.hubMark o.desc
          else s.hubPost (bytesAt o.desc 0 32) (bytesAt o.desc 32 64) .engines
            ⟨P.lid, whoWord 0 0 g .A 7, 0, AccKind.engWrite.code⟩ [gangKey p g]
        match r with
        | (.wait, s) => .next s
        | (.done c u e, s) => .next (s.setGang (G.setOp 3 (o.finish c u e)))
      else .next s
  | _, _ => .next s

/-! ### STREAMQ (R299) -/

/-- The watermark that STREAMQ.WM reads. -/
def State.wmWord (s : State) (st : Stream) : Word64 :=
  if st.kind = kOrdered then BitVec.ofNat 64 st.w else BitVec.ofInt 64 (s.watermark st)

/-- STREAMQ.LATE; bit 63 is the sticky overflow bit of an ERROR stream (R356). -/
def Stream.lateWord (st : Stream) : Word64 := BitVec.ofNat 64 (st.late + if st.sticky then 2 ^ 63 else 0)

def streamq (d a : SReg) (e : BitVec 10) (f : State → Stream → Word64) (s : State) : Res :=
  hubWord [d.toNat, a.toNat] (fun s x =>
    let off := bowerOff x a e 32
    match bowerTrap x.P off 32 32 false 0 with
    | some t => s.trap x.P x.G x.sl x.S t
    | none =>
      if x.P.bower.poisoned off.toNat 32 then s.trap x.P x.G x.sl x.S { code := 0x09, addr := BitVec.ofInt 64 off }
      else
        let c := x.P.bower.readN off.toNat 32
        match s.capHome c with
        | some false =>
          let r := s.takeFree
          r.2.done x (x.G.ws d (Config.freeResult r.1)) 8
        | _ =>
          match s.unseal c with
          | some st => s.done x (x.G.ws d (if hasRight c rightRead then f s st else BitVec.allOnes 64)) 8
          | none => s.done x (x.G.ws d (BitVec.allOnes 64)) 8) s

def execStreamqTail (d a : SReg) (e : BitVec 10) (s : State) : Res := streamq d a e (fun _ st => BitVec.ofNat 64 st.tail) s
def execStreamqRel (d a : SReg) (e : BitVec 10) (s : State) : Res := streamq d a e (fun _ st => BitVec.ofNat 64 st.released) s
def execStreamqWm (d a : SReg) (e : BitVec 10) (s : State) : Res := streamq d a e (fun s st => s.wmWord st) s
def execStreamqLate (d a : SReg) (e : BitVec 10) (s : State) : Res := streamq d a e (fun _ st => st.lateWord) s

/-! ### The stream service (R275, R277, R281, R295, R356) -/

/-- A stream as it is created. -/
def Stream.fresh (c : StreamCfg) (gen : Nat) : Stream where
  kind := c.kind
  ring := c.ring
  log2 := c.log2
  gen := gen
  ctx := c.ctx
  tail := 0
  e := 0
  w := 0
  weff := 0
  marks := []
  lateness := c.late
  late := 0
  pending := false
  overrun := false
  readers := []
  evq := []
  nrec := c.nrec
  seed := c.seed
  epoch0 := c.epoch0
  epochs := c.epochs
  acked := 0
  sticky := false
  lost := 0
  lostKind := 0
  lostW0 := 0
  lostTs := 0

/-- A creation that the rules admit: a free number below 4,096, a kind, a size, and records for a REPLAY stream. -/
def State.mayCreate (s : State) (n : Nat) (c : StreamCfg) : Bool :=
  decide (n < 4096) && (s.streams.find n).isNone && decide (c.kind < 4) && decide (4 ≤ c.log2) && decide (c.log2 ≤ 20) &&
    c.ring % 64 == 0 && (c.kind != kReplay || (decide (1 ≤ c.nrec) && decide (c.nrec ≤ 2 ^ 32))) &&
    (c.kind != kError || (s.context c.ctx).errStream.isNone)

def execStreamCreate (n : Nat) (c : StreamCfg) (s : State) : Res :=
  if s.booted && s.mayCreate n c then
    let s1 := { s with streams := s.streams.put n (Stream.fresh c 0) }
    .next (if c.kind = kError then s1.setContext c.ctx { s1.context c.ctx with errStream := some n } else s1)
  else .next s

def execStreamDelete (n : Nat) (s : State) : Res :=
  match s.streams.find n with
  | none => .next s
  | some st =>
    let s1 := { s with streams := s.streams.del n }
    let c := s1.context st.ctx
    .next (if c.errStream = some n then s1.setContext st.ctx { c with errStream := none } else s1)

/-- A capability with a subset of rights, written where the service puts it. -/
def execCapabilityIssue (n : Nat) (rights : BitVec 4) (ctx addr : Nat) (s : State) : Res :=
  match s.streams.find n with
  | none => .next s
  | some st => .next (if s.booted then (s.tryWrite ctx addr (s.capOf n st rights.toNat) .harts).2 else s)

def execGenRaise (n : Nat) (s : State) : Res :=
  match s.streams.find n with
  | none => .next s
  | some st => .next { s with streams := s.streams.put n { st with gen := (st.gen + 1) % 2 ^ 16 } }

/-- A record's registrations end: it leaves its streams' readers and its order group (R291, R293). -/
def execRegistrationDelete (ctx : Nat) (rid : Word64) (s : State) : Res :=
  let drop (st : Stream) : Stream := { st with readers := st.readers.filter fun r => !(r.ctx == ctx && r.rid == rid) }
  .next { s with
    streams := s.streams.map fun q => (q.1, (drop q.2).trim)
    members := s.members.filter fun m => !(m.ctx == ctx && m.rid == rid) }

/-- The driver's position, and the sticky bit (R356). -/
def execErrorStreamAcknowledge (n : Nat) (idx : Word64) (clear : Bool) (s : State) : Res :=
  match s.streams.find n with
  | some st =>
    if st.kind = kError then
      let st1 := { st with acked := max st.acked (min idx.toNat st.tail), sticky := st.sticky && !clear }
      .next { s with streams := s.streams.put n st1 }
    else .next s
  | none => .next s

/-- The OVERFLOW record, once there is room. -/
def execErrorOverflowRecord (n : Nat) (s : State) : Res := .next (s.flushOverflow n)

end Sys2Proof.Machine
end

