-- ==== Sys2Proof/Machine/Escapement.lean ====
section
/-! DEFINITION. Machine/Escapement.lean: mapped automata (R284 to R292, R394, R396, R408): the horizon and the merge order,
candidates, transitions, timeouts and expiry, accepting, launches on their way to the backlogs, and post actions. -/

namespace Sys2Proof.Machine

/-! ### The record as mapped (R284, R285) -/

def Automaton.flags (a : Automaton) : Nat := fieldAt a.raw 8 4
def Automaton.policy (a : Automaton) : Nat := fieldOf a.flags 1 2
def Automaton.diag (a : Automaton) : Bool := bitOf a.flags 3
def Automaton.capacity (a : Automaton) : Nat := fieldAt a.raw 12 2
def Automaton.nstates (a : Automaton) : Nat := fieldAt a.raw 16 1
def Automaton.ntrans (a : Automaton) : Nat := fieldAt a.raw 17 1
def Automaton.nsrc (a : Automaton) : Nat := fieldAt a.raw 18 1
def Automaton.clocks (a : Automaton) : Nat := fieldAt a.raw 19 1 % 16
def Automaton.ogroup (a : Automaton) : Nat := fieldAt a.raw 19 1 / 16
def Automaton.rid (a : Automaton) : Word64 := BitVec.ofNat 64 (fieldAt a.raw 24 8)
/-- Capability k: sources 0 to 3, then 4 for the diagnostic stream. -/
def Automaton.cap (a : Automaton) (k : Nat) : List Byte := bytesAt a.raw (96 + 32 * k) 32
def Automaton.stateWord (a : Automaton) (i w : Nat) : Nat := fieldAt a.raw (256 + 16 * i + 8 * w) 8
def Automaton.transWord (a : Automaton) (j w : Nat) : Nat := fieldAt a.raw (512 + 16 * j + 8 * w) 8
def Automaton.declares (a : Automaton) (k : Nat) : Bool := bitOf a.clocks k

/-- ACT of a state; a state with ACT not 0 is accepting. -/
def Automaton.act (a : Automaton) (q : Nat) : Nat := fieldOf (a.stateWord q 1) 0 2
def Automaton.accepting (a : Automaton) (q : Nat) : Bool := a.act q != 0

/-- A transition entry. -/
structure Trans where
  src     : Nat
  kind    : Nat
  kmask   : Nat
  from_   : Nat
  dest    : Nat
  keyop   : Nat
  kslot   : Nat
  clkv    : Bool
  clkop   : Nat
  clkref  : Nat
  clkd    : Nat
  reset   : Nat
  bindv   : Bool
  bslot   : Nat
  consume : Bool

def Automaton.trans (a : Automaton) (j : Nat) : Trans :=
  let w := a.transWord j 0
  let v := a.transWord j 1
  { src := fieldOf w 8 2, kind := fieldOf w 16 16, kmask := fieldOf w 32 16, from_ := fieldOf w 0 4, dest := fieldOf w 4 4,
    keyop := fieldOf w 48 2, kslot := fieldOf w 50 2, clkv := bitOf w 56, clkop := fieldOf w 54 2, clkref := fieldOf w 52 2,
    clkd := fieldOf v 0 40, reset := fieldOf w 57 4, bindv := bitOf w 61, bslot := fieldOf w 62 2, consume := bitOf v 40 }

def Automaton.transList (a : Automaton) : List Trans := (List.range a.ntrans).map a.trans
def Automaton.exits (a : Automaton) (q : Nat) : List Trans := a.transList.filter fun t => t.from_ == q

/-! ### Candidates (R286, R288) -/

def Cand.reset? (c : Cand) (k : Nat) : Nat := c.xreset.getD k 0

/-- An event as it is offered: its source, index and bytes. -/
structure Offer where
  src : Nat
  idx : Nat
  ev  : List Byte

/-- A clock guard (R285, R288). -/
def clockHolds (op : Nat) (v d : Int) : Bool :=
  match op with
  | 0 => decide (v < d)
  | 1 => decide (v ≤ d)
  | 2 => decide (d < v)
  | _ => decide (d ≤ v)

/-- The transition matches the event for the candidate (R288). -/
def Trans.matchesCand (t : Trans) (c : Cand) (o : Offer) : Bool :=
  o.src == t.src && (evKind o.ev &&& t.kmask) == (t.kind &&& t.kmask) &&
    (t.keyop != 1 || !c.bound || evKey o.ev == c.key) &&
    (t.keyop != 2 || match c.binds.getD t.kslot none with
      | some b => evKey o.ev == evKey b.2
      | none => false) &&
    (!t.clkv || clockHolds t.clkop ((evTs o.ev : Int) - c.reset? t.clkref) t.clkd)

/-- A candidate as its creation finds it: every declared clock reset to the event's TS. -/
def Automaton.newCand (a : Automaton) (birth ts : Nat) : Cand :=
  ⟨a.nextUid, birth, 0, 0, false, List.replicate 4 none, (List.range 4).map fun k => if a.declares k then ts else 0, false, none, false⟩

/-- apply of R288, but for accepting. -/
def Trans.apply (t : Trans) (c : Cand) (o : Offer) : Cand :=
  { c with
    xreset := (List.range 4).map fun k => if bitOf t.reset k then evTs o.ev else c.reset? k
    binds := if t.bindv then c.binds.set t.bslot (some (o.src, o.ev)) else c.binds
    key := if t.keyop = 1 then evKey o.ev else c.key
    bound := c.bound || t.keyop == 1
    state := t.dest
    spent := c.spent && t.reset == 0 }

/-- A timeout's instant, or the expiry instant of a state whose every exit is bounded above (R288). -/
def Automaton.instant (a : Automaton) (c : Cand) : Option Int :=
  let w := a.stateWord c.state 0
  if bitOf w 42 then some ((c.reset? (fieldOf w 40 2) : Int) + fieldOf w 0 40)
  else
    let xs := a.exits c.state
    if xs.all fun t => t.clkv && decide (t.clkop < 2) then
      (xs.map fun t => (c.reset? t.clkref : Int) + t.clkd - (if t.clkop = 0 then 1 else 0)).max?
    else none

/-- The candidate's deadline. -/
def Automaton.deadline (a : Automaton) (c : Cand) : Option Int := if c.spent then none else a.instant c

def Automaton.timesOut (a : Automaton) (c : Cand) : Bool := bitOf (a.stateWord c.state 0) 42

/-! ### The horizon and the next item (R287) -/

/-- The stream number of a source. -/
def Automaton.srcStream (a : Automaton) (i : Nat) : Nat := capStream (a.cap i)

def State.sourceOf (s : State) (a : Automaton) (i : Nat) : Option Stream := s.streams.find (a.srcStream i)

/-- H: the least effective watermark over the sources. -/
def State.horizon (s : State) (a : Automaton) : Int :=
  ((List.range a.nsrc).map fun i => ((s.sourceOf a i).map s.watermark).getD (2 ^ 64 - 1)).min?.getD (2 ^ 64 - 1)

/-- The events that wait to be offered. -/
def State.waitingEvents (s : State) (a : Automaton) : List Offer :=
  (List.range a.nsrc).flatMap fun i =>
    match s.sourceOf a i with
    | none => []
    | some st => (st.evq.filter fun v => decide (a.srcpos.getD i 0 ≤ v.idx) && !(a.seen.contains (i, v.idx))).map fun v => ⟨i, v.idx, v.bytes⟩

/-- Merge order: (TS, stream number, SEQ). -/
def Automaton.before (a : Automaton) (x y : Offer) : Bool :=
  let kx := (evTs x.ev, a.srcStream x.src, x.idx)
  let ky := (evTs y.ev, a.srcStream y.src, y.idx)
  decide (kx.1 < ky.1) || (kx.1 == ky.1 && (decide (kx.2.1 < ky.2.1) || (kx.2.1 == ky.2.1 && decide (kx.2.2 < ky.2.2))))

def Automaton.firstOffer (a : Automaton) : List Offer → Option Offer
  | [] => none
  | x :: xs =>
    match a.firstOffer xs with
    | some y => if a.before y x then some y else some x
    | none => some x

/-- The next event at or below the horizon. -/
def State.nextEvent (s : State) (a : Automaton) : Option Offer :=
  a.firstOffer ((s.waitingEvents a).filter fun o => decide ((evTs o.ev : Int) ≤ s.horizon a))

/-- The candidate with the least instant of a kind, then the lowest birth; candidates stand in birth order. -/
def firstOf (f : Cand → Option Int) : List Cand → Option (Int × Cand)
  | [] => none
  | c :: cs =>
    match f c, firstOf f cs with
    | some d, some (e, y) => if e < d then some (e, y) else some (d, c)
    | some d, none => some (d, c)
    | none, r => r

/-- The candidate's next virtual event: a candidate's virtual events fire at strictly rising instants (R288). -/
def Automaton.pendingAt (a : Automaton) (c : Cand) : Option Int :=
  (a.deadline c).filter fun d => c.fired.all fun f => decide (f < d)

/-- The next virtual event: of a restored candidate that is due, at once and in birth order (R396), else the first that the
horizon has passed. -/
def State.nextVirtual (s : State) (a : Automaton) : Option (Int × Cand) :=
  match a.cands.find? (·.due) with
  | some c => (a.deadline c).map fun d => (d, c)
  | none => (firstOf a.pendingAt a.cands).filter fun v => decide (v.1 + 1 ≤ s.horizon a)

/-- An item in merge order. -/
inductive Item where
  | event (o : Offer)
  | virtual (d : Int) (c : Cand)

/-- The next item: a virtual event at D comes after every event with TS ≤ D, and one that is due before any event. -/
def State.nextItem (s : State) (a : Automaton) : Option Item :=
  match s.nextEvent a, s.nextVirtual a with
  | some o, some (d, c) => if !c.due && decide ((evTs o.ev : Int) ≤ d) then some (.event o) else some (.virtual d c)
  | some o, none => some (.event o)
  | none, some (d, c) => some (.virtual d c)
  | none, none => none

/-! ### Launches on their way (R289, R291) -/

/-- The backlogs' entries in use. -/
def State.backlogLoad (s : State) : Nat :=
  (s.backlog.filter fun b => match b.what with
    | .launch _ => true
    | .plot _ => false).length

/-- HDONE of a member: live while its record is mapped, else as saved. -/
def State.memberDone (s : State) (m : Member) : Nat :=
  match s.autos.find? fun q => q.2.ctx == m.ctx && q.2.rid == m.rid with
  | some q => q.2.hdone
  | none => m.hdone

def launchBefore (x y : Launch) : Bool :=
  decide (x.at_ < y.at_) || (x.at_ == y.at_ && (decide (x.rid.toNat < y.rid.toNat) || (x.rid == y.rid && decide (x.aseq < y.aseq))))

/-- The launch may enter a backlog: of an order group, when every member has come past its instant and no member holds an
earlier one (R291). -/
def State.mayEnter (s : State) (l : Launch) : Bool :=
  l.ogroup == 0 ||
    ((s.members.filter fun m => m.ctx == l.ctx && m.ogroup == l.ogroup).all (fun m => decide (l.at_ ≤ s.memberDone m)) &&
     !(s.autos.any fun q => q.2.ctx == l.ctx && q.2.ogroup == l.ogroup && q.2.launches.any fun y => launchBefore y l) &&
     !(s.orphans.any fun y => y.ctx == l.ctx && y.ogroup == l.ogroup && launchBefore y l))

/-- A launch that could enter finds no free entry, and is held. -/
def State.launchHeld (s : State) (a : Automaton) : Bool :=
  match a.launches with
  | [] => false
  | l :: _ => s.mayEnter l && decide (65536 ≤ s.backlogLoad)

/-- The automaton processes nothing further while a launch is held or a post has not taken its step (R291, R408). -/
def State.autoBlocked (s : State) (a : Automaton) : Bool := s.launchHeld a || !a.posts.isEmpty

/-! ### Accepting (R289) -/

/-- A candidate takes its place in birth order. -/
def insertCand (c : Cand) : List Cand → List Cand
  | [] => [c]
  | d :: ds => if c.birth < d.birth then c :: d :: ds else d :: insertCand c ds

def Automaton.removeCand (a : Automaton) (uid : Nat) : Automaton := { a with cands := a.cands.filter fun c => c.uid != uid }
def Automaton.setCand (a : Automaton) (c : Cand) : Automaton :=
  { a with cands := a.cands.map fun x => if x.uid = c.uid then c else x }

/-- The launch record of an accepting candidate. -/
def State.launchOf (s : State) (slot : Nat) (a : Automaton) (c : Cand) (t : Nat) : Launch where
  ctx := a.ctx
  slot := slot
  aseq := a.accepts
  tmplAt := a.stateWord c.state 1 / 2 ^ 8 * 64
  prio := 0
  binds := c.binds
  streams := c.binds.map fun b => match b with
    | some x => BitVec.ofNat 32 (a.srcStream x.1)
    | none => 0xFFFFFFFF
  key := c.key
  xclk := (List.range 4).map fun k => if a.declares k then (t + 2 ^ 64 - c.reset? k) % 2 ^ 64 else 0
  at_ := t
  ats := s.time.toNat
  rid := a.rid
  ogroup := a.ogroup

/-- The derived event of a post action (R285). -/
def postBytes (w1 t : Nat) (key : Word) (aseq : Nat) : List Byte :=
  eventBytes t 0 (fieldOf w1 16 16) 0 key.toNat (wordBytes [fieldOf w1 32 32, aseq % 2 ^ 32, aseq / 2 ^ 32 % 2 ^ 32])

/-- accept(c) at the instant t: the candidate, already in the accepting state, is removed and its action is taken. -/
def State.accept (s : State) (slot : Nat) (a : Automaton) (c : Cand) (t : Nat) : State × Automaton :=
  let w1 := a.stateWord c.state 1
  let a1 := { a.removeCand c.uid with accepts := (a.accepts + 1) % 2 ^ 64 }
  match a.act c.state with
  | 1 => (s, { a1 with launches := a1.launches ++ [s.launchOf slot a c t] })
  | 2 =>
    let tid := fieldOf w1 16 32
    if tid / 2 ^ 28 = s.partno then
      ((s.chime a.ctx tid (fieldOf w1 8 6) (BitVec.ofNat 32 a.accepts) 0xFFFFFF).2, a1)
    else (s, a1)
  | _ => (s, { a1 with posts := a1.posts ++ [⟨a.accepts, fieldOf w1 8 2, postBytes w1 t c.key a.accepts, false⟩] })

/-- A candidate in a new state: it stays, or it is accepted. -/
def State.enterState (s : State) (slot : Nat) (a : Automaton) (c : Cand) (t : Nat) : State × Automaton :=
  if a.accepting c.state then s.accept slot a c t else (s, a.setCand c)

/-! ### EVENT_RELEASE (R288, R290) -/

/-- Offers an event to the candidates, oldest first: the flag says that it is consumed. -/
def State.offerAll (s : State) (slot : Nat) (a : Automaton) (o : Offer) : List Nat → State × Automaton × Bool
  | [] => (s, a, false)
  | b :: bs =>
    match a.cands.find? fun c => c.uid == b with
    | none => s.offerAll slot a o bs
    | some c =>
      match (a.exits c.state).find? fun t => t.matchesCand c o with
      | none => s.offerAll slot a o bs
      | some t =>
        let r := s.enterState slot a (t.apply c o) (evTs o.ev)
        if t.consume then (r.1, r.2, true) else r.1.offerAll slot r.2 o bs

/-- The candidate that POLICY removes for a new one (R290). -/
def Automaton.victim (a : Automaton) : Option Cand :=
  match a.policy with
  | 0 => a.cands.head?
  | 1 => none
  | _ => match firstOf a.deadline a.cands with
    | some v => some v.2
    | none => a.cands.head?

/-- The oldest diagnostic event takes its step at the hub: a failed post is counted, one that meets a fault waits (R290). -/
def State.diagTake (s : State) (slot : Nat) (a : Automaton) : State × Automaton :=
  match a.diags with
  | [] => (s, a)
  | b :: bs =>
    match s.hubPost (a.cap 4) b .escapement (hubWho .engWrite) [slot, 4] with
    | (.wait, s) => (s, a)
    | (.done c _ _, s) => (s, { a with diags := bs, diagFails := if c = 0 then a.diagFails else a.diagFails + 1 })

/-- The event of an overflow with DIAG (R290). -/
def State.diagPost (s : State) (slot : Nat) (a : Automaton) (o : Offer) (removed : Option Cand) : State × Automaton :=
  if a.diag then
    let b := match removed with
      | some c => c.birth
      | none => 2 ^ 64 - 1
    let ev := eventBytes (evTs o.ev) 0 0xFFF0 0 (a.rid.toNat % 2 ^ 32)
      (wordBytes [a.policy, b % 2 ^ 32, b / 2 ^ 32, a.srcStream o.src, o.idx % 2 ^ 32])
    let a1 := { a with diags := a.diags ++ [ev] }
    if a.diags.isEmpty then s.diagTake slot a1 else (s, a1)
  else (s, a)

/-- Creates a candidate by a transition out of state 0. -/
def State.createCand (s : State) (slot : Nat) (a : Automaton) (o : Offer) (t : Trans) : State × Automaton :=
  let c := t.apply (a.newCand a.nextCand (evTs o.ev)) o
  let a1 := { a with cands := insertCand c a.cands, nextCand := (a.nextCand + 1) % 2 ^ 64, nextUid := a.nextUid + 1 }
  s.enterState slot a1 c (evTs o.ev)

/-- The creation that an event that no candidate consumed makes (R288, R290). -/
def State.offerCreation (s : State) (slot : Nat) (a : Automaton) (o : Offer) : State × Automaton :=
  match (a.exits 0).find? fun t => t.matchesCand (a.newCand a.nextCand (evTs o.ev)) o with
  | none => (s, a)
  | some t =>
    if a.cands.length < a.capacity then s.createCand slot a o t
    else
      let v := a.victim
      let a1 := { a with overflows := satInc a.overflows }
      let r := s.diagPost slot a1 o v
      match v with
      | some c => r.1.createCand slot (r.2.removeCand c.uid) o t
      | none => r

/-- An event is processed. -/
def State.processEvent (s : State) (slot : Nat) (a : Automaton) (o : Offer) : State × Automaton :=
  let r := s.offerAll slot a o (a.cands.map (·.uid))
  if r.2.2 then (r.1, r.2.1) else r.1.offerCreation slot r.2.1 o

/-- A virtual event fires: a timeout takes its candidate to TOTGT, an expiry removes it (R288). -/
def State.processVirtual (s : State) (slot : Nat) (a : Automaton) (d : Int) (c : Cand) : State × Automaton :=
  if a.timesOut c then
    let c1 := { c with state := fieldOf (a.stateWord c.state 0) 48 4, spent := false, fired := some d, due := false }
    let c2 := { c1 with spent := (a.instant c1).any fun e => decide (e ≤ d) }
    s.enterState slot a c2 d.toNat
  else (s, { a.removeCand c.uid with expired := satInc a.expired })

/-! ### Positions (R282, R291) -/

/-- SRCPOS moves past every event that has been offered or that is late. -/
def advance (st : Stream) (seen : List (Nat × Nat)) (i pos : Nat) : Nat → Nat
  | 0 => pos
  | fuel + 1 =>
    let n := st.nextAt pos
    if seen.contains (i, n) then advance st seen i (n + 1) fuel else n

/-- The automaton after an item: positions, registrations and HDONE, below which a virtual event that waits for its horizon stays. -/
def State.settleAuto (s : State) (slot : Nat) (a : Automaton) : State :=
  let pos := (List.range 4).map fun i =>
    match s.sourceOf a i with
    | some st => if i < a.nsrc then advance st a.seen i (a.srcpos.getD i 0) (a.seen.length + 1) else a.srcpos.getD i 0
    | none => a.srcpos.getD i 0
  let a1 := { a with srcpos := pos, seen := a.seen.filter fun q => decide (pos.getD q.1 0 ≤ q.2) }
  let h := s.horizon a1
  let done : Int := match s.nextItem a1 with
    | some (.event o) => (evTs o.ev : Int) - 1
    | some (.virtual d _) => d - 1
    | none => match firstOf a1.pendingAt a1.cands with
      | some v => min h (v.1 - 1)
      | none => h
  let a2 := { a1 with hdone := max a1.hdone (min done (2 ^ 64 - 1)).toNat }
  let move (q : Nat × Stream) : Nat × Stream :=
    match (List.range a.nsrc).find? fun i => a.srcStream i == q.1 with
    | some i =>
      (q.1, ({ q.2 with readers := q.2.readers.map fun r =>
        if r.ctx = a.ctx ∧ r.rid = a.rid then { r with pos := pos.getD i 0 } else r } : Stream).trim)
    | none => q
  { s with autos := s.autos.put slot a2, streams := s.streams.map move }

/-- The next item of a mapped automaton, if it is an event; with no item left, HDONE comes up to the horizon. -/
def execEventRelease (slot : Nat) (s : State) : Res :=
  match s.autos.find slot with
  | none => .next s
  | some a =>
    if s.autoBlocked a then .next s
    else match s.nextItem a with
      | some (.event o) =>
        let r := s.processEvent slot a o
        .next (r.1.settleAuto slot { r.2 with seen := r.2.seen ++ [(o.src, o.idx)] })
      | some (.virtual _ _) => .next s
      | none => .next (s.settleAuto slot a)

/-- The next item of a mapped automaton, if it is a virtual event. -/
def execVirtualEventFire (slot : Nat) (s : State) : Res :=
  match s.autos.find slot with
  | none => .next s
  | some a =>
    if s.autoBlocked a then .next s
    else match s.nextItem a with
      | some (.virtual d c) =>
        let r := s.processVirtual slot a d c
        .next (r.1.settleAuto slot r.2)
      | _ => .next s

/-! ### LAUNCH_BACKLOG_ENTRY, POST_ACTION, FIRMWARE_RECORD_REMAP -/

/-- The launches of a slot that may be next: those whose record is no longer mapped, then the record's oldest. -/
def State.slotLaunches (s : State) (slot : Nat) : List Launch :=
  (s.orphans.filter fun l => l.slot == slot) ++ ((s.autos.find slot).bind fun a => a.launches.head?).toList

/-- A launch leaves the place where it waits. -/
def State.dropLaunch (s : State) (slot : Nat) (l : Launch) : State :=
  match s.autos.find slot with
  | some a =>
    if a.launches.head? = some l then { s with autos := s.autos.put slot { a with launches := a.launches.tail } }
    else { s with orphans := s.orphans.filter fun x => x != l }
  | none => { s with orphans := s.orphans.filter fun x => x != l }

/-- The slot's oldest launch that may enters the backlog of its template's priority (R291). DESIGN CHOICE (log 113): a PRIO above 11, which
admission will refuse, enters backlog 11. -/
def execLaunchBacklogEntry (slot : Nat) (s : State) : Res :=
  match (s.slotLaunches slot).find? s.mayEnter with
  | none => .next s
  | some l =>
    if 65536 ≤ s.backlogLoad then .next s
    else
      let enter (s : State) (prio : Nat) : State := (s.dropLaunch slot l).enqueueEntry prio (.launch { l with prio := prio })
      match s.partAccess l.ctx (l.tmplAt + 26) .engRead .escapement (hubWho .engRead) .other [slot] with
      | (.ok p, s) => .next (enter s (min (natOf (s.readLoc p 1)) 11))
      | (.wait, s) => .next s
      | (.denied, s) => .next (enter s 0)

/-- The automaton's oldest post action takes its step at the hub (R408). -/
def State.postStep (s : State) (slot : Nat) (a : Automaton) : State :=
  match a.posts with
  | [] => s
  | p :: ps =>
    match s.hubPost (a.cap p.cap) p.bytes .escapement (hubWho .engWrite) [slot, p.cap] with
    | (.wait, s) => s
    | (.done c _ _, s) =>
      if c = 0x12 then { s with autos := s.autos.put slot { a with posts := { p with held := true } :: ps } }
      else
        let s1 := { s with autos := s.autos.put slot { a with posts := ps } }
        if c = 0 then s1 else s1.errRecord a.ctx 0x0009 0 (wordBytes [slot, p.aseq % 2 ^ 32, c, capStream (a.cap p.cap)])

/-- A diagnostic event that has waited takes its step, and then the oldest post action. -/
def execPostAction (slot : Nat) (s : State) : Res :=
  match s.autos.find slot with
  | none => .next s
  | some a =>
    if a.diags.isEmpty then .next (s.postStep slot a)
    else
      let r := s.diagTake slot a
      .next ({ r.1 with autos := r.1.autos.put slot r.2 }.postStep slot r.2)

/-- Firmware moves a mapped record to a free slot; nothing else changes (R292, R293). -/
def execFirmwareRecordRemap (slot newSlot : Nat) (s : State) : Res :=
  match s.autos.find slot, s.autos.find newSlot with
  | some a, none => if newSlot < 64 then .next { s with autos := (s.autos.del slot).put newSlot a } else .next s
  | _, _ => .next s

end Sys2Proof.Machine
end

