-- ==== Sys2Proof/Machine/Auto.lean ====
section
/-! DEFINITION. Machine/Auto.lean: AUTOMAP, AUTOUNMAP and AUTOQ (R293, R294, R299, R395, R396, R409), service calls (R295),
scratchpad grants (R147, R148), code load (R46), and the steps that every engine class shares: ENGINE_ACCESS and
ENGINE_COMPLETE (R188, R195). -/

namespace Sys2Proof.Machine

/-! ### Launch templates (R289, R409) -/

/-- A static field of a launch template fails R409. -/
def tmplBad (t : List Byte) : Bool :=
  let entry := fieldAt t 0 8
  let seqa := fieldAt t 8 8
  let g := fieldAt t 19 1
  let l1s := fieldAt t 20 4
  fieldAt t 32 34 != 0 || decide (2 ≤ fieldAt t 27 1) || decide (8 ≤ fieldAt t 24 1) || entry == 0 || entry % 64 != 0 ||
    seqa % 64 != 0 || decide (11 < fieldAt t 26 1) || decide (16 < fieldAt t 25 1) || l1s % 128 != 0 || decide (l1s < 512) ||
    decide (524288 < l1s) || fieldAt t 28 4 % 128 != 0 || fieldAt t 18 1 == 0 || decide (24 < fieldAt t 18 1) ||
    decide (fieldAt t 16 2 < 8) || decide (1536 < fieldAt t 16 2) ||
    !(if bitOf g 7 then g % 32 == 0 else decide (g < 32) && decide (1 ≤ g) && decide (g ≤ 16))

/-! ### The checks of AUTOMAP (R294) -/

/-- Entry words of a state that is declared. -/
def stateBad (a : Automaton) (q : Nat) : List (Nat × Bool) :=
  let w := a.stateWord q 0
  let v := a.stateWord q 1
  let act := fieldOf v 0 2
  let tov := bitOf w 42
  let at0 := 256 + 16 * q
  [(at0, fieldOf w 43 5 != 0 || fieldOf w 52 12 != 0 ||
      (tov && (decide (a.nstates ≤ fieldOf w 48 4) || !a.declares (fieldOf w 40 2))) ||
      (act != 0 && (tov || !(a.exits q).isEmpty))),
   (at0 + 8, fieldOf v 2 6 != 0 || (act == 2 && (fieldOf v 14 2 != 0 || fieldOf v 48 16 != 0)) || (act == 3 && fieldOf v 10 6 != 0))]

/-- Entry words of a transition that is declared. KEYOP 3, to which R285 gives no meaning, is a bad field (DEDUCED, log 68). -/
def transBad (a : Automaton) (j : Nat) : List (Nat × Bool) :=
  let w := a.transWord j 0
  let t := a.trans j
  let at0 := 512 + 16 * j
  [(at0, fieldOf w 10 6 != 0 || decide (a.nstates ≤ t.from_) || decide (a.nstates ≤ t.dest) || t.keyop == 3 ||
      (t.clkv && !a.declares t.clkref) || (List.range 4).any fun k => bitOf t.reset k && !a.declares k),
   (at0 + 8, decide (2 ^ 41 ≤ a.transWord j 1))]

/-- A CAPS entry that should be 0, or a second source of one stream. -/
def capBad (a : Automaton) (k : Nat) : Bool :=
  if k < 4 then
    (decide (a.nsrc ≤ k) && fieldAt (a.cap k) 0 32 != 0) ||
      (decide (k < a.nsrc) && (List.range k).any fun i => a.srcStream i == a.srcStream k)
  else !a.diag && fieldAt (a.cap 4) 0 32 != 0

/-- The fields of the fixed part of a record, in order. -/
def recordFields (a : Automaton) : List (Nat × Bool) :=
  [(8, a.policy == 3 || decide (2 ^ 4 ≤ a.flags)), (12, a.capacity == 0 || decide (1024 < a.capacity)),
   (14, decide (a.capacity < fieldAt a.raw 14 2)), (16, a.nstates == 0 || decide (16 < a.nstates)), (17, decide (64 < a.ntrans)),
   (18, a.nsrc == 0 || decide (4 < a.nsrc)), (20, fieldAt a.raw 20 4 != 0)] ++
  ((List.range 5).map fun k => (96 + 32 * k, capBad a k)) ++
  ((List.range 16).flatMap fun q =>
    if q < a.nstates then stateBad a q else [(256 + 16 * q, fieldAt a.raw (256 + 16 * q) 16 != 0)]) ++
  ((List.range 64).flatMap fun j =>
    if j < a.ntrans then transBad a j else [(512 + 16 * j, fieldAt a.raw (512 + 16 * j) 16 != 0)])

/-- A saved candidate's 320 bytes. -/
def savedAt (raw : List Byte) (i : Nat) : List Byte := bytesAt raw (1536 + 320 * i) 320

def savedBad (a : Automaton) (c : List Byte) : Bool :=
  let st := fieldAt c 296 1
  decide (16 ≤ st) || decide (a.nstates ≤ st) || a.accepting st || decide (32 ≤ fieldAt c 297 1) || fieldAt c 288 8 != 0 ||
    fieldAt c 299 1 != 0

/-- SUB of BADREC: the offset of the first bad field by 8, or 0xFF for a saved candidate; templates apart. -/
def recordBad (a : Automaton) : Option Nat :=
  match firstBad (recordFields a) with
  | some o => some (o / 8)
  | none => if (List.range (fieldAt a.raw 14 2)).any fun i => savedBad a (savedAt a.raw i) then some 0xFF else none

/-- A candidate as saved (R286), restored (R396): an undeclared clock restores as 0. -/
def candOf (uid clocks : Nat) (c : List Byte) : Cand :=
  let b := fieldAt c 297 1
  ⟨uid, fieldAt c 304 8, fieldAt c 296 1, BitVec.ofNat 32 (fieldAt c 300 4), bitOf b 4,
   (List.range 4).map fun k => if bitOf b k then some (fieldOf (fieldAt c 298 1) (2 * k) 2, bytesAt c (64 * k) 64) else none,
   (List.range 4).map fun k => if bitOf clocks k then fieldAt c (256 + 8 * k) 8 else 0, false, none, false⟩

/-- A candidate as AUTOUNMAP writes it (R286). -/
def Automaton.saveCand (a : Automaton) (c : Cand) : List Byte :=
  let occ := (List.range 4).map fun k => if (c.binds.getD k none).isSome then 2 ^ k else 0
  let src := (List.range 4).map fun k => ((c.binds.getD k none).map (·.1)).getD 0 * 4 ^ k
  (((List.range 4).flatMap fun k => match c.binds.getD k none with
    | some b => bytesAt b.2 0 64
    | none => List.replicate 64 0) : List Byte) ++
  ((List.range 4).flatMap fun k => leOf 8 (c.reset? k)) ++ List.replicate 8 (0 : Byte) ++ leOf 1 c.state ++
  leOf 1 (occ.sum + if c.bound then 16 else 0) ++ leOf 2 src.sum ++ leOf 4 c.key.toNat ++ leOf 8 c.birth ++
  leOf 8 (match a.deadline c with
    | some d => (BitVec.ofInt 64 d).toNat
    | none => 2 ^ 64 - 1)

/-- A record of a context as it would run once mapped. -/
def automatonOf (ctx addr : Nat) (raw : List Byte) : Automaton where
  ctx := ctx
  addr := addr
  raw := raw
  cands := (List.range (fieldAt raw 14 2)).foldl (fun l i => insertCand (candOf i (fieldAt raw 19 1 % 16) (savedAt raw i)) l) []
  srcpos := (List.range 4).map fun i => fieldAt raw (64 + 8 * i) 8
  seen := []
  hdone := fieldAt raw 48 8
  accepts := fieldAt raw 40 8
  nextCand := fieldAt raw 32 8
  nextUid := fieldAt raw 14 2
  overflows := fieldAt raw 56 4
  expired := fieldAt raw 60 4
  launches := []
  posts := []
  diags := []
  diagFails := 0

/-- A source or diagnostic capability fails (CAP). -/
def State.capsBad (s : State) (a : Automaton) : Bool :=
  let bad (k right : Nat) : Bool :=
    let c := a.cap k
    (s.unseal c).isNone || !hasRight c right || capCtx c != a.ctx
  ((List.range a.nsrc).any fun k => bad k rightMap) || (a.diag && bad 4 rightPost)

/-- A stream holds 16 readers without the record (NOSLOT, SUB 1). -/
def State.readersFull (s : State) (a : Automaton) : Bool :=
  (List.range a.nsrc).any fun i => match s.sourceOf a i with
    | some st => decide (16 ≤ (st.readers.filter fun r => !(r.ctx == a.ctx && r.rid == a.rid)).length)
    | none => false

def State.freeSlot (s : State) : Option Nat := (List.range 64).find? fun k => (s.autos.find k).isNone

/-- Candidate records in use. -/
def State.candLoad (s : State) : Nat := (s.autos.map fun q => q.2.capacity).sum

/-- CODE and SUB of a mapping that fails after the record's own checks. -/
def State.mapFail (s : State) (a : Automaton) : Option (Nat × Nat) :=
  if s.capsBad a then some (0x10, 0)
  else if s.freeSlot.isNone then some (0x15, 0)
  else if s.readersFull a then some (0x15, 1)
  else if 8192 < s.candLoad + a.capacity then some (0x16, 0)
  else none

/-- Registers the record as a reader of a source at its SRCPOS (R293). -/
def Stream.register (st : Stream) (a : Automaton) (i : Nat) : Stream :=
  { st with readers := (st.readers.filter fun r => !(r.ctx == a.ctx && r.rid == a.rid)) ++ [⟨a.ctx, a.rid, a.srcpos.getD i 0⟩] }

/-- A restored candidate is due when its deadline D has D + 1 ≤ HDONE (R396). -/
def Automaton.markDue (a : Automaton) : Automaton :=
  { a with cands := a.cands.map fun c => { c with due := (a.deadline c).any fun d => decide (d + 1 ≤ (a.hdone : Int)) } }

/-- An event of a source that stands at or above SRCPOS has been offered when its TS is at or below HDONE: the watermark has made
every such event that came later late. An ERROR source, which has no watermark, is offered in index order, so that SRCPOS alone tells. -/
def State.offered (s : State) (a : Automaton) (o : Offer) : Bool :=
  (s.sourceOf a o.src).any (fun st => st.kind != kError) && evTs o.ev != 0 && decide (evTs o.ev ≤ a.hdone)

/-- The record takes a slot and resumes from SRCPOS and HDONE. -/
def State.mapRecord (s : State) (slot : Nat) (a : Automaton) : State :=
  let streams := s.streams.map fun q =>
    match (List.range a.nsrc).find? fun i => a.srcStream i == q.1 with
    | some i => (q.1, q.2.register a i)
    | none => q
  let s1 := { s with streams := streams }
  let seen := ((s1.waitingEvents a).filter (s1.offered a)).map fun o => (o.src, o.idx)
  let members := (s1.members.filter fun m => !(m.ctx == a.ctx && m.rid == a.rid)) ++ [⟨a.ctx, a.rid, a.ogroup, a.hdone⟩]
  { s1 with autos := s1.autos.put slot { a.markDue with seen := seen }, members := members }

/-! ### AUTOMAP and AUTOUNMAP step by step -/

def EngOp.record (o : EngOp) : Nat := fieldAt o.desc 0 8
def EngOp.expect (o : EngOp) : Nat := fieldAt o.desc 8 8

/-- The request checks: DESC, then the record's address. -/
def State.requestFault (s : State) (P : Plot) (o : EngOp) : Option (Nat × Nat) :=
  match firstBad [(8, o.kind == .autounmap && o.expect != 0), (16, fieldAt o.desc 16 40 != 0)] with
  | some b => some (3, b)
  | none => s.spotFault P 64 false (.gm o.record)

/-- The slot of a record that a context has mapped. -/
def State.mappedAt (s : State) (ctx addr : Nat) : Option (Nat × Automaton) :=
  s.autos.find? fun q => q.2.ctx == ctx && q.2.addr == addr

/-- The request's checks. ELEM holds VERSION after the operation: one that ends with DESC reads it first; one whose record cannot be
accessed has none to read. -/
def mapStart (s : State) (P : Plot) (o : EngOp) : EngOp :=
  match s.requestFault P o with
  | some f => if (s.spotFault P 64 false (.gm o.record)).isNone then { o.noted 0 f.1 f.2 with phase := .ready } else o.finish f.1 f.2 0
  | none =>
    if o.kind = .automap then { o with phase := .claim }
    else if (s.mappedAt P.ctx o.record).isSome then { o with phase := .wait } else { o with phase := .read }

/-- The indivisible step at the record's owner: VERSION and MAPPED are looked at, and MAPPED is set. -/
def State.mapClaim (s : State) (P : Plot) (G : Gang) (o : EngOp) : State :=
  match s.engRead P G o.fid (.gm o.record) 64 false with
  | (.wait fid, s) => s.setGang (G.setOp 3 { o with fid := fid })
  | (.fail c u, s) => s.setGang (G.setOp 3 (o.finish c u 0))
  | (.ok b, s) =>
    let v := fieldAt b 0 8
    if v ≠ o.expect ∨ bitOf (fieldAt b 8 4) 0 then s.setGang (G.setOp 3 (o.finish 0x14 0 v))
    else
      match s.engWrite P G none (.gm (o.record + 8)) 4 false (some (leOf 4 (fieldAt b 8 4 ||| 1))) with
      | (.wait fid, s) => s.setGang (G.setOp 3 { o with fid := fid })
      | (.fail c u, s) => s.setGang (G.setOp 3 (o.finish c u v))
      | (.ok _, s) => s.setGang (G.setOp 3 { o with phase := .read, k := 0, data := b, fid := none })

/-- The mapping fails after its claim: MAPPED is to be cleared in one further step. -/
def EngOp.unclaim (o : EngOp) (code sub : Nat) : EngOp :=
  { o with phase := .write, code := BitVec.ofNat 8 code, sub := BitVec.ofNat 8 sub, fid := none }

/-- The 64-byte lines of a record: the fixed part, then its saved candidates. -/
def recordLines (data : List Byte) : Nat :=
  let n := fieldAt data 14 2
  if data.length < 1536 ∨ 1024 < n then 24 else 24 + 5 * n

/-- One line of the record is read. -/
def State.mapRead (s : State) (P : Plot) (G : Gang) (o : EngOp) : State :=
  match s.engRead P G o.fid (.gm (o.record + 64 * o.k)) 64 false with
  | (.wait fid, s) => s.setGang (G.setOp 3 { o with fid := fid })
  | (.fail c u, s) => s.setGang (G.setOp 3 (o.unclaim c u))
  | (.ok b, s) =>
    let o1 := { o with k := o.k + 1, data := o.data.take (64 * o.k) ++ b, fid := none }
    s.setGang (G.setOp 3 (if recordLines o1.data ≤ o1.k then { o1 with phase := .check, k := 0 } else o1))

/-- The launch states of a record, in order. -/
def Automaton.launchStates (a : Automaton) : List Nat := (List.range a.nstates).filter fun q => a.act q == 1

/-- How the read of a launch template may end without its bytes. -/
inductive TmplEnd where
  | wait | denied | poison
  deriving DecidableEq, Repr

/-- Reads a launch template in 64-byte lines (R289). -/
def State.readTemplate (s : State) (ctx addr : Nat) (m : Master) (id : List Nat) : Except TmplEnd (List Byte) × State :=
  (List.range 3).foldl (fun acc k =>
    match acc with
    | (.error e, s) => (.error e, s)
    | (.ok b, s) =>
      match s.partAccess ctx (addr + 64 * k) .engRead m (hubWho .engRead) .other id with
      | (.ok l, s) => if s.poisonedLoc l 64 then (.error .poison, s) else (.ok (b ++ s.readLoc l 64), s)
      | (.wait, s) => (.error .wait, s)
      | (.denied, s) => (.error .denied, s)) (.ok [], s)

/-- The end of the validation: the record is mapped, or its claim is undone. -/
def State.mapFinish (s : State) (G : Gang) (o : EngOp) (a : Automaton) : State :=
  match s.mapFail a, s.freeSlot with
  | some f, _ => s.setGang (G.setOp 3 (o.unclaim f.1 f.2))
  | none, some slot => (s.mapRecord slot a).setGang (G.setOp 3 (o.finish 0 0 o.expect))
  | none, none => s.setGang (G.setOp 3 (o.unclaim 0x15 0))

/-- Validates in the order of the record's offsets: its fields, with one template for each launch state at its place, then
the rest. DEDUCED (log 68): a launch action whose template address fails R165 is a bad field of the state's second word. -/
def State.mapCheck (s : State) (P : Plot) (G : Gang) (o : EngOp) : State :=
  let a := automatonOf P.ctx o.record o.data
  let q := (a.launchStates.drop o.k).head?
  let bad (q : Nat) : Nat := (256 + 16 * q + 8) / 8
  match recordBad a, q with
  | some u, none => s.setGang (G.setOp 3 (o.unclaim 0x17 u))
  | none, none => s.mapFinish G o a
  | r, some q =>
    if r.any fun u => decide (u ≤ bad q) then s.setGang (G.setOp 3 (o.unclaim 0x17 (r.getD 0)))
    else
      let at_ : Nat := a.stateWord q 1 / 2 ^ 8 * 64
      if (s.spotFault P 64 false (.gm at_)).isSome then s.setGang (G.setOp 3 (o.unclaim 0x17 (bad q)))
      else match s.readTemplate P.ctx at_ .engines [gangKey G.plot G.idx] with
        | (.error .wait, s) => s
        | (.error .denied, s) => s.setGang (G.setOp 3 (o.unclaim 7 0))
        | (.error .poison, s) => s.setGang (G.setOp 3 (o.unclaim 8 0))
        | (.ok t, s) => s.setGang (G.setOp 3 (if tmplBad t then o.unclaim 0x17 (bad q) else { o with k := o.k + 1 }))

/-- MAPPED := 0 after a failed validation. -/
def State.mapUndo (s : State) (P : Plot) (G : Gang) (o : EngOp) : State :=
  match s.engWrite P G o.fid (.gm (o.record + 8)) 4 false (some (leOf 4 (fieldAt o.data 8 4 / 2 * 2))) with
  | (.wait fid, s) => s.setGang (G.setOp 3 { o with fid := fid })
  | (_, s) => s.setGang (G.setOp 3 { o with phase := .finished, elem := BitVec.ofNat 32 o.expect, fid := none })

/-- An unmap may begin: no launch that could enter is on its way and no post, and every event that has been offered stands at or
below HDONE, so that the record says where to resume. A launch that waits on its order group does not hold the unmap. -/
def State.mayUnmap (s : State) (a : Automaton) : Bool :=
  a.launches.head?.all (fun l => !s.mayEnter l) && a.posts.isEmpty && a.diags.isEmpty &&
    (List.range a.nsrc).all fun i => match s.sourceOf a i with
      | none => true
      | some st => st.kind == kError || st.evq.all fun v => !(a.seen.contains (i, v.idx)) || decide (evTs v.bytes ≤ a.hdone)

/-- What AUTOUNMAP writes into the record, but for the version. -/
def Automaton.image (a : Automaton) : List (Nat × List Byte) :=
  [(8, leOf 4 (a.flags / 2 * 2)), (14, leOf 2 a.cands.length), (32, leOf 8 a.nextCand), (40, leOf 8 a.accepts), (48, leOf 8 a.hdone),
   (56, leOf 4 a.overflows), (60, leOf 4 a.expired)] ++
  ((List.range 4).map fun i => (64 + 8 * i, leOf 8 (a.srcpos.getD i 0))) ++
  let c := a.cands.flatMap a.saveCand
  (List.range (c.length / 64)).map fun k => (1536 + 64 * k, bytesAt c (64 * k) 64)

/-- Checks, or makes, a list of writes: how the first that does not pass ends. -/
def State.engWrites (s : State) (P : Plot) (G : Gang) (fid : Option Nat) (addr : Nat) (really : Bool) : List (Nat × List Byte) → EngEnd × State
  | [] => (.ok [], s)
  | (o, b) :: l =>
    match s.engWrite P G fid (.gm (addr + o)) b.length false (if really then some b else none) with
    | (.ok _, s) => s.engWrites P G fid addr really l
    | e => e

/-- The unmap's writes; the slot and the candidate records return, the registrations stay. -/
def State.unmapWrite (s : State) (P : Plot) (G : Gang) (o : EngOp) : State :=
  match s.mappedAt P.ctx o.record with
  | none => s.setGang (G.setOp 3 { o with phase := .read })
  | some (slot, a) =>
    if !s.mayUnmap a then s
    else match s.engWrites P G o.fid o.record false a.image with
      | (.wait fid, s) => s.setGang (G.setOp 3 { o with fid := fid })
      | (.fail c u, s) => s.setGang (G.setOp 3 (o.finish c u 0))
      | (.ok _, s) =>
        let s1 := (s.engWrites P G none o.record true a.image).2
        let members := s1.members.map fun m => if m.ctx = a.ctx ∧ m.rid = a.rid then { m with hdone := a.hdone } else m
        { s1 with autos := s1.autos.del slot, members := members, orphans := s1.orphans ++ a.launches }.setGang (G.setOp 3 { o with phase := .fill, fid := none })

/-- The version rises, as the unmap's last write. -/
def State.unmapVersion (s : State) (P : Plot) (G : Gang) (o : EngOp) : State :=
  match s.engRead P G o.fid (.gm o.record) 8 false with
  | (.wait fid, s) => s.setGang (G.setOp 3 { o with fid := fid })
  | (.fail c u, s) => s.setGang (G.setOp 3 (o.finish c u 0))
  | (.ok b, s) =>
    let v := (natOf b + 1) % 2 ^ 64
    match s.engWrite P G none (.gm o.record) 8 false (some (leOf 8 v)) with
    | (.wait fid, s) => s.setGang (G.setOp 3 { o with fid := fid })
    | (.fail c u, s) => s.setGang (G.setOp 3 (o.finish c u 0))
    | (.ok _, s) => s.setGang (G.setOp 3 (o.finish 0 0 v))

/-- NOTMAPPED, with the version as it stands. -/
def State.unmapNone (s : State) (P : Plot) (G : Gang) (o : EngOp) : State :=
  match s.engRead P G o.fid (.gm o.record) 8 false with
  | (.wait fid, s) => s.setGang (G.setOp 3 { o with fid := fid })
  | (.fail _ _, s) => s.setGang (G.setOp 3 (o.finish 0x18 0 0))
  | (.ok b, s) => s.setGang (G.setOp 3 (o.finish 0x18 0 (natOf b)))

/-- The end of a request that failed with DESC, with the version as it stands. -/
def State.readVersion (s : State) (P : Plot) (G : Gang) (o : EngOp) : State :=
  match s.engRead P G o.fid (.gm o.record) 8 false with
  | (.wait fid, s) => s.setGang (G.setOp 3 { o with fid := fid })
  | (.fail _ _, s) => s.setGang (G.setOp 3 { o with phase := .finished, fid := none })
  | (.ok b, s) => s.setGang (G.setOp 3 { o with phase := .finished, elem := BitVec.ofNat 32 (natOf b), fid := none })

/-- One step of an AUTOMAP or AUTOUNMAP. -/
def State.mapStep (s : State) (P : Plot) (G : Gang) (o : EngOp) : State :=
  let auto := o.kind == .automap
  match o.phase with
  | .start => s.setGang (G.setOp 3 (mapStart s P o))
  | .claim => s.mapClaim P G o
  | .read => if auto then s.mapRead P G o else s.unmapNone P G o
  | .check => s.mapCheck P G o
  | .write => s.mapUndo P G o
  | .ready => s.readVersion P G o
  | .wait => s.unmapWrite P G o
  | .fill => s.unmapVersion P G o
  | _ => s

def execAutomap (a : SReg) (e : BitVec 10) (s : State) : Res :=
  engWord 3 .automap a e 64 64 [] (fun s x G => s.done x G 8) s
def execAutounmap (a : SReg) (e : BitVec 10) (s : State) : Res :=
  engWord 3 .autounmap a e 64 64 [] (fun s x G => s.done x G 8) s

/-! ### AUTOQ (R299) -/

/-- The state word of a mapped record. -/
def State.autoWord (s : State) (slot : Nat) (a : Automaton) : Word64 :=
  let held := s.launchHeld a || a.posts.any (·.held)
  BitVec.ofNat 64 (1 + 2 * slot + (if held then 128 else 0) + 2 ^ 16 * a.cands.length)

/-- A live value of a mapped record, or a load of the record in memory: the field's offset, its size and its destination. -/
def autoq (d a : SReg) (live : State → Nat → Automaton → Word64) (off size : Nat) (dest : LoadDest) (s : State) : Res :=
  s.global fun s => hubWord [d.toNat, a.toNat] (fun s x =>
    let addr := (x.G.rs x.S a).toNat
    match s.gmCheck1 addr 64 .load with
    | some t => s.trap x.P x.G x.sl x.S t
    | none =>
      match s.mappedAt x.P.ctx addr with
      | some (slot, a) => s.done x (x.G.ws d (live s slot a)) 8
      | none =>
        let op : LoadOp := ⟨x.G.seq, x.G.seq, x.sl, x.S.pc, false, dest, size, [(0, addr + off)], [], s.ticks⟩
        s.done x { x.G with loads := x.G.loads ++ [op] } 8) s

def execAutoqSt (d a : SReg) (s : State) : Res := autoq d a (fun s slot a => s.autoWord slot a) 8 8 (.autoSt d) s
def execAutoqAcc (d a : SReg) (s : State) : Res := autoq d a (fun _ _ a => BitVec.ofNat 64 a.accepts) 40 8 (.scl d) s
def execAutoqOvf (d a : SReg) (s : State) : Res := autoq d a (fun _ _ a => BitVec.ofNat 64 a.overflows) 56 4 (.scl d) s
def execAutoqExp (d a : SReg) (s : State) : Res := autoq d a (fun _ _ a => BitVec.ofNat 64 a.expired) 60 4 (.scl d) s

/-! ### Services (R295) -/

def execSvcall (a : SReg) (e : BitVec 10) (s : State) : Res :=
  engWord 3 .svcall a e 64 64 [] (fun s x G => s.done x G 8) s

def EngOp.service (o : EngOp) : Nat := fieldAt o.desc 0 4
def EngOp.function (o : EngOp) : Nat := fieldAt o.desc 4 4
def EngOp.callId (o : EngOp) : Word64 := BitVec.ofNat 64 (fieldAt o.desc 8 8)
def EngOp.arg (o : EngOp) (k : Nat) : Nat := fieldAt o.desc (16 + 8 * k) 8

/-- The call completes with a result, which a repeat of the call will find. -/
def State.callDone (s : State) (P : Plot) (G : Gang) (o : EngOp) (result : Word64) : State :=
  let c := s.context P.ctx
  let s1 := s.setContext P.ctx { c with calls := assocPut c.calls (P.lid, o.service, o.callId) result }
  s1.setGang (G.setOp 3 { o.finish 0 0 0 with data := leOf 8 result.toNat })

/-- A plot gives up its grant at a level (1 pavilion, 2 conservatory). -/
def State.releaseGrant (s : State) (P : Plot) (lv : Nat) : State :=
  (s.setPlot (if lv = 1 then { P with pav := none } else if lv = 2 then { P with cons := none } else P)).dropPads

/-- The instruction caches of a context are invalidated, and the lines that its tile streams execute from (R46). -/
def State.dropCode (s : State) (ctx : Nat) : State :=
  { s with
    cores := s.cores.map fun q => (q.1, { q.2 with icache := q.2.icache.filter fun l => l.1.1 != ctx })
    plots := s.plots.map fun q => if q.2.ctx = ctx then (q.1, { q.2 with stream := { q.2.stream with line := none } }) else q }

/-- A call whose outcome the services' own definitions give: its result is a free value. The code-load service has invalidated the
context's instruction caches before it reports (R46). -/
def State.callFree (s : State) (P : Plot) (G : Gang) (o : EngOp) : State :=
  let f := s.takeFree
  (if o.service = 4 then f.2.dropCode P.ctx else f.2).callDone P G o (Config.freeResult f.1)

/-- One step of a service call: it ends with what an equal call has ended with, its service answers, or a grant request waits for the
service. DESIGN CHOICE (log 103): FUNCTION 2 gives the grant up at once, whatever engine accesses are under way. -/
def State.callStep (s : State) (P : Plot) (G : Gang) (o : EngOp) : State :=
  if o.phase ≠ .start then s
  else if o.service = 0 ∨ 4 < o.service then s.setGang (G.setOp 3 (o.finish 0x19 0 0))
  else
    match assoc (s.context P.ctx).calls (P.lid, o.service, o.callId) with
    | some r => s.setGang (G.setOp 3 { o.finish 0 0 0 with data := leOf 8 r.toNat })
    | none =>
      if o.service = 2 ∧ o.function = 1 then s.setGang (G.setOp 3 { o with phase := .wait })
      else if o.service = 2 ∧ o.function = 2 then
        let f := s.takeFree
        (f.2.releaseGrant P (o.arg 0)).callDone ((f.2.releaseGrant P (o.arg 0)).plot? P.id |>.getD P) G o (Config.freeResult f.1)
      else s.callFree P G o

/-- Where a grant of a level lies for a plot: its cluster, or its die. -/
def padHome (P : Plot) (lv : Nat) : Nat := if lv = 1 then P.core / 12 else dieOf P.core

def padRoom (lv : Nat) : Nat := if lv = 1 then 2 ^ 23 else 2 ^ 26

/-- The home of a grant whose image lies in a save record: its space on the part is released (R353). -/
def savedHome : Nat := 4096

/-- Storage granted at a home. -/
def State.padLoad (s : State) (lv home : Nat) : Nat :=
  ((s.pads.filter fun q => q.2.level == lv && q.2.home == home).map fun q => q.2.size).sum

/-- A plot takes a grant, and the one that it held is replaced. -/
def Plot.hold (P : Plot) (lv : Nat) (g : Grant) : Plot := if lv = 1 then { P with pav := some g } else { P with cons := some g }

/-- A fresh grant, zeroed; none where its home has no room. One of a plot that stands in its save record finds its home when the plot is
restored (R300, R334). DESIGN CHOICE (log 103): a grant that it replaces is given up at once,
whatever engine accesses are under way, and a byte count of 0 or one that is no multiple of 128, or span code 6 or 7, is refused. -/
def State.newGrant (s : State) (P : Plot) (lv size span : Nat) : Option State :=
  let old := if lv = 1 then { P with pav := none } else { P with cons := none }
  let s0 := (s.setPlot old).dropPads
  if size % 128 = 0 ∧ size ≠ 0 ∧ span < 6 ∧ (P.away ∨ s0.padLoad lv (padHome P lv) + size ≤ padRoom lv) then
    some ({ s0 with
      pads := s0.pads.put s0.nextKey ⟨lv, if P.away then savedHome else padHome P lv, P.ctx, size, Store.empty⟩
      nextKey := s0.nextKey + 1 }.setPlot (P.hold lv ⟨s0.nextKey, size, span⟩))
  else none

/-- A grant that other plots of the context hold in the same place. -/
def State.sharedGrant (s : State) (P : Plot) (lv pad span : Nat) : Option State :=
  match s.pads.find pad with
  | some q =>
    if q.level = lv ∧ q.home = padHome P lv ∧ q.ctx = P.ctx ∧ span < 6 then
      some (s.setPlot (P.hold lv ⟨pad, q.size, span⟩)).dropPads
    else none
  | none => none

/-- The service answers a grant request, or repeats what it has answered an equal call (R295). DESIGN CHOICE (log 103): a request for a
level other than 1 and 2 is refused. -/
def execScratchGrant (p g n : Nat) (accept : Bool) (share : Option Nat) (s : State) : Res :=
  match s.plot? p, s.gang? p g with
  | some P, some G =>
    match G.op? 3 n with
    | some o =>
      if o.kind = .svcall ∧ o.phase = .wait then
        let lv := o.arg 0
        match assoc (s.context P.ctx).calls (P.lid, o.service, o.callId) with
        | some r => .next (s.setGang (G.setOp 3 { o.finish 0 0 0 with data := leOf 8 r.toNat }))
        | none =>
        let r := if !accept ∨ (lv ≠ 1 ∧ lv ≠ 2) then none
          else match share with
            | some pad => s.sharedGrant P lv pad (o.arg 2)
            | none => s.newGrant P lv (o.arg 1) (o.arg 2)
        match r with
        | some s1 => .next (s1.callDone ((s1.plot? p).getD P) G o 0)
        | none => .next (s.callDone P G o 1)
      else .next s
    | none => .next s
  | _, _ => .next s

/-- An engine operation that uses a level is still under way. -/
def Gang.copying (G : Gang) (lv : Nat) : Bool := (G.engCp ++ G.engGs ++ G.engCl).any fun o => o.phase != .finished && o.uses (lv + 1)

/-- A service fails: every pending call to it ends with RESTART (R295). -/
def State.serviceFail (s : State) (n : Nat) : State :=
  let fail (o : EngOp) : EngOp :=
    if o.kind = .svcall ∧ o.service = n ∧ 1 ≤ n ∧ n ≤ 4 ∧ o.phase ≠ .finished then o.finish 0 0 0xFFFFFFF0 else o
  { s with gangs := s.gangs.map fun q => (q.1, { q.2 with engEv := q.2.engEv.map fail }) }

/-- The service revokes a grant, after every access already issued has been performed (R148). -/
def execGrantRevoke (p : Nat) (level : BitVec 2) (s : State) : Res :=
  match s.plot? p with
  | some P => if (s.gangsOf p).any (fun G => G.copying level.toNat) then .next s else .next (s.releaseGrant P level.toNat)
  | none => .next s

/-- The code-load service writes code and invalidates the context's instruction caches (R46). -/
def execCodeLoad (ctx addr : Nat) (bytes : List Byte) (s : State) : Res :=
  let s1 := (List.range bytes.length).foldl (fun s i => (s.tryWrite ctx (addr + i) [bytes.getD i 0] .harts).2) s
  .next (s1.dropCode ctx)

/-! ### ENGINE_ACCESS and ENGINE_COMPLETE -/

/-- One step of an operation of a class: a check, a read or a write (R168). -/
def execEngineAccess (p g : Nat) (cls : BitVec 2) (n : Nat) (s : State) : Res :=
  s.onOp p g cls.toNat n fun P G o =>
    match o.kind with
    | .automap => s.mapStep P G o
    | .autounmap => s.mapStep P G o
    | .svcall => s.callStep P G o
    | .evpost => s
    | .evwm => s
    | _ => s.engStep P G cls.toNat o

/-- Where an operation's status stands in its block (R195, R298). -/
def EngOp.statusAt (o : EngOp) : Nat :=
  match o.kind with
  | .evpost => 40
  | k => if k.isCopy then 120 else 56

/-- The status word (R195). -/
def EngOp.status (o : EngOp) : Nat := o.code.toNat + 256 * o.sub.toNat + 2 ^ 32 * o.elem.toNat

/-- Everything that a completion writes into the block: CPYENC's IV and tag, a call's RESULT, and the status last. -/
def EngOp.blockWrites (o : EngOp) : List (Nat × List Byte) :=
  (if o.kind = .cpyenc then [(o.off + 24, bytesAt o.desc 24 28)] else []) ++
    (if o.kind = .svcall ∧ !o.data.isEmpty then [(o.off + 48, o.data)] else []) ++ [(o.off + o.statusAt, leOf 8 o.status)]

/-- A completion writes its block; while the plot is saved, the writes wait for its bower's restore (R221, R300). -/
def Plot.writeBlock (P : Plot) (o : EngOp) : Plot :=
  if P.away then { P with late := P.late ++ o.blockWrites } else { P with bower := P.bower.writes o.blockWrites }

/-- The operation's status counts as a failure (R196). -/
def EngOp.failed (o : EngOp) : Bool := o.code != 0 && !(o.code == 1 && o.kind == .tmovV && o.soft)

/-- The slot that has been blocked in EVPOST for longest, with its issue number and its record. -/
def Gang.postWaiter (G : Gang) : Option (SlotId × PcSlot × Nat × Nat) :=
  let f (sl : SlotId) (o : Option PcSlot) : Option (SlotId × PcSlot × Nat × Nat) :=
    match o with
    | some S => match S.wait with
      | .evpost n off => some (sl, S, n, off)
      | _ => none
    | none => none
  match f .A G.a, f .B G.b with
  | some x, some y => if y.2.2.1 < x.2.2.1 then some y else some x
  | x, y => x <|> y

/-- The blocked EVPOST takes the entry that has freed, and its slot goes on (R390). -/
def Gang.givePost (G : Gang) (P : Plot) (now : Nat) : Gang :=
  match G.postWaiter with
  | none => G
  | some (sl, S, n, off) =>
    let G1 := { G with seq := n, postq := G.postq + 1 }.enqueue 3 .evpost off (P.bower.readN off 96) now
      (if P.bower.poisoned off 96 then 8 else 0)
    { G1 with seq := G.seq }.setSlot sl (some (S.skip 8))

/-- The class's oldest operation completes once it is finished: its status is written and the counter falls; a post's entry goes to the
EVPOST that waits for one. While the gang drains, a failure is recorded (R69). -/
def execEngineComplete (p g : Nat) (cls : BitVec 2) (s : State) : Res :=
  match s.plot? p, s.gang? p g with
  | some P, some G =>
    let c := cls.toNat
    match G.eng c with
    | [] => .next s
    | o :: os =>
      if o.phase ≠ .finished then .next s
      else
        let k := G.cls c
        let f : OpFail := ⟨o.num, o.code, o.sub, BitVec.ofNat 64 o.off⟩
        let k1 := { k with count := k.count - 1, done := k.done + 1, fails := if o.failed then k.fails ++ [f] else k.fails,
                           late := if P.away then k.late + 1 else k.late }
        let G1 := (G.setCls c k1).setEng c os
        let P1 := P.writeBlock o
        let G2 := if o.kind = .evpost then { G1 with postq := G1.postq - 1 }.givePost P1 s.ticks else G1
        let s1 := ((s.setPlot P1).setGang G2).sample P.core 3 (s.ticks - o.at_)
        .next (if o.code != 0 && G.life != .running then
          s1.errRecord P.ctx 0x0003 P.lid (wordBytes [c, o.code.toNat + 256 * o.sub.toNat, o.off, P.lid]) else s1)
  | _, _ => .next s

end Sys2Proof.Machine
end

