-- ==== Sys2Proof/Machine/Record.lean ====
section
/-! DEFINITION. Machine/Record.lean: what stands in a save record (R353), written and read back by one description for both
directions. DESIGN CHOICE (log 8): the layout within a section; the spec gives the sections' contents and their order only. A restore
reads every part of the sections back, so that whatever the runtime has edited (R347) takes effect. -/

namespace Sys2Proof.Machine

/-- How a value stands in a record: its bytes, and the value that bytes give with the bytes that follow it. -/
structure Codec (α : Type) where
  put : α → List Byte
  get : List Byte → α × List Byte

/-- A part of a thing, as it stands in a record: `get` sets the part from the bytes. -/
structure Field (σ : Type) where
  put : σ → List Byte
  get : List Byte → σ → σ × List Byte

namespace Codec
variable {α β σ : Type}

/-- A little-endian number of `n` bytes. -/
def nat (n : Nat) : Codec Nat := ⟨leOf n, fun b => (natOf (b.take n), b.drop n)⟩

/-- The same bytes, read as another type. -/
def iso (c : Codec α) (f : α → β) (g : β → α) : Codec β := ⟨fun y => c.put (g y), fun b => (f (c.get b).1, (c.get b).2)⟩

/-- A word of `w` bits in `n` bytes. -/
def bits (w n : Nat) : Codec (BitVec w) := (nat n).iso (BitVec.ofNat w) BitVec.toNat

def bool : Codec Bool := (nat 1).iso (fun n => n % 2 == 1) fun b => if b then 1 else 0

/-- One of a list of values, by its place there. -/
def oneOf [DecidableEq α] (l : List α) (d : α) : Codec α := (nat 1).iso (fun k => l.getD k d) fun x => l.idxOf x

def pair (c : Codec α) (d : Codec β) : Codec (α × β) :=
  ⟨fun x => c.put x.1 ++ d.put x.2, fun b => (((c.get b).1, (d.get (c.get b).2).1), (d.get (c.get b).2).2)⟩

/-- A valid bit in a byte, and the value where it is set. -/
def opt (c : Codec α) : Codec (Option α) where
  put
    | none => [0]
    | some x => 1 :: c.put x
  get
    | [] => (none, [])
    | t :: b => if t.getLsbD 0 then (some (c.get b).1, (c.get b).2) else (none, b)

/-- `n` values, one after the other. -/
def times (c : Codec α) : Nat → List Byte → List α × List Byte
  | 0, b => ([], b)
  | n + 1, b => ((c.get b).1 :: (c.times n (c.get b).2).1, (c.times n (c.get b).2).2)

/-- A number of values, at most 65,535, in two bytes, and the values. -/
def list (c : Codec α) : Codec (List α) :=
  ⟨fun l => leOf 2 l.length ++ l.flatMap c.put, fun b => c.times (natOf (b.take 2)) (b.drop 2)⟩

/-- A fixed number of values. -/
def vec (c : Codec α) (n : Nat) (d : α) : Codec (Vector α n) :=
  ⟨fun v => v.toList.flatMap c.put, fun b => (Vector.ofFn fun i => (c.times n b).1.getD i d, (c.times n b).2)⟩

/-- A part of a structure. -/
def at_ (c : Codec α) (f : σ → α) (g : σ → α → σ) : Field σ := ⟨fun x => c.put (f x), fun b x => (g x (c.get b).1, (c.get b).2)⟩

end Codec

namespace Field
variable {σ τ : Type}

/-- The bytes of a section. -/
def encode (fs : List (Field σ)) (x : σ) : List Byte := fs.flatMap fun f => f.put x

/-- A section read back, field by field, and the bytes that follow it. -/
def decode : List (Field σ) → List Byte → σ → σ × List Byte
  | [], b, x => (x, b)
  | f :: fs, b, x => decode fs (f.get b x).2 (f.get b x).1

/-- A structure from its fields; `d` gives what no field sets. -/
def whole (fs : List (Field σ)) (d : σ) : Codec σ := ⟨encode fs, fun b => decode fs b d⟩

/-- The fields of a part of a thing. -/
def under (f : τ → σ) (g : τ → σ → τ) (fs : List (Field σ)) : Field τ :=
  ⟨fun x => encode fs (f x), fun b x => (g x (decode fs b (f x)).1, (decode fs b (f x)).2)⟩

end Field

/-- Memory from bytes that stand from an address on, in canonical form. -/
def Memory.ofBytes (a : Nat) : List Byte → Memory
  | [] => []
  | b :: bs => if b = 0 then Memory.ofBytes (a + 1) bs else (a, b) :: Memory.ofBytes (a + 1) bs

/-! ### Parts of both sections -/

open Codec in
/-- A PC: its bits [1:0] are 0, whatever stands in the record (R44). -/
def pcCodec : Codec Word64 := (nat 8).iso (fun v => BitVec.ofNat 64 (v / 4 * 4)) BitVec.toNat

def slotCodec : Codec SlotId := Codec.oneOf [.A, .B] .A
def word64 : Codec Word64 := Codec.bits 64 8
def maskCodec : Codec Mask := Codec.bits 96 12
def sregCodec : Codec SReg := Codec.bits 6 1
def fidsCodec : Codec (List Nat) := (Codec.nat 4).list

/-- A lane of a store: its number, its address and its value. -/
def laneCodec : Codec (Nat × Nat × Nat) := (Codec.nat 1).pair ((Codec.nat 8).pair (Codec.nat 8))

def condCodec : Codec WaitCond := Codec.oneOf [.eq, .ne, .ge] .eq

/-- A WAITC that a fault holds: since when, its address, comparison, compare value, destination, issue number and length (R82). -/
structure WaitcRec where
  since : Nat
  addr  : Nat
  c     : WaitCond
  v     : Word64
  d     : SReg
  seq   : Nat
  len   : Nat

def waitcFields : List (Field WaitcRec) :=
  [(Codec.nat 8).at_ (·.since) fun x v => { x with since := v }, (Codec.nat 8).at_ (·.addr) fun x v => { x with addr := v },
   condCodec.at_ (·.c) fun x v => { x with c := v }, word64.at_ (·.v) fun x v => { x with v := v },
   sregCodec.at_ (·.d) fun x v => { x with d := v }, (Codec.nat 8).at_ (·.seq) fun x v => { x with seq := v },
   (Codec.nat 1).at_ (·.len) fun x v => { x with len := v }]

def waitcCodec : Codec WaitcRec := Field.whole waitcFields ⟨0, 0, .eq, 0, 0, 0, 0⟩

/-- A store that a fault holds. -/
def storeCodec : Codec (Nat × Nat × List (Nat × Nat × Nat)) := (Codec.nat 1).pair ((Codec.nat 1).pair laneCodec.list)

/-- How a slot waits in a record: the waits that a save keeps (R328, R352); every other one has been left. -/
def waitCodec : Codec Wait where
  put
    | .join t => 1 :: (Codec.nat 8).put t
    | .vclaim => [2]
    | .bar c => 3 :: (Codec.nat 1).put c
    | .store false size len lanes => 4 :: storeCodec.put (size, len, lanes)
    | .store true size len lanes => 5 :: storeCodec.put (size, len, lanes)
    | .waitc t a c v d q n => 6 :: waitcCodec.put ⟨t, a, c, v, d, q, n⟩
    | _ => [0]
  get
    | [] => (.none, [])
    | t :: b =>
      match t.toNat with
      | 1 => (.join ((Codec.nat 8).get b).1, ((Codec.nat 8).get b).2)
      | 2 => (.vclaim, b)
      | 3 => (.bar ((Codec.nat 1).get b).1, ((Codec.nat 1).get b).2)
      | 4 => let r := storeCodec.get b; (.store false r.1.1 r.1.2.1 r.1.2.2, r.2)
      | 5 => let r := storeCodec.get b; (.store true r.1.1 r.1.2.1 r.1.2.2, r.2)
      | 6 => let r := waitcCodec.get b; (.waitc r.1.since r.1.addr r.1.c r.1.v r.1.d r.1.seq r.1.len, r.2)
      | _ => (.none, b)

/-- A slot: its PC, its mask, how it waits, and the FID that it waits on. Spin counts restore as 0. -/
def slotFields : List (Field PcSlot) :=
  [pcCodec.at_ (·.pc) fun S v => { S with pc := v }, maskCodec.at_ (·.mask) fun S v => { S with mask := v },
   waitCodec.at_ (·.wait) fun S v => { S with wait := v }, (Codec.nat 4).opt.at_ (·.fid) fun S v => { S with fid := v }]

def pcSlotCodec : Codec (Option PcSlot) := (Field.whole slotFields (PcSlot.fresh 0 0)).opt

/-! ### The plot section -/

/-- A plot as its section holds it: with its target's chime block address at the hub. -/
structure SavedPlot where
  P     : Plot
  block : Nat

def circleEntry : Codec (Nat × BitVec 16) := (Codec.nat 1).pair (Codec.bits 16 2)

def tmplFields : List (Field Template) :=
  [word64.at_ (·.entry) fun x v => { x with entry := v }, word64.at_ (·.seqa) fun x v => { x with seqa := v },
   (Codec.nat 1).at_ (·.gangs) fun x v => { x with gangs := v }, (Codec.nat 1).at_ (·.vregs) fun x v => { x with vregs := v },
   (Codec.nat 2).at_ (·.budget) fun x v => { x with budget := v }, (Codec.nat 4).at_ (·.l1s) fun x v => { x with l1s := v },
   (Codec.nat 1).at_ (·.span) fun x v => { x with span := v }, (Codec.nat 1).at_ (·.tiles) fun x v => { x with tiles := v },
   (Codec.nat 1).at_ (·.prio) fun x v => { x with prio := v }, Codec.bool.at_ (·.handoff) fun x v => { x with handoff := v },
   (Codec.nat 4).at_ (·.l2s) fun x v => { x with l2s := v }, circleEntry.list.at_ (·.circles) fun x v => { x with circles := v }]

def claimCodec : Codec Claim :=
  ((Codec.nat 1).pair (slotCodec.pair (Codec.nat 1))).iso (fun x => ⟨x.1, x.2.1, x.2.2⟩) fun c => (c.gang, c.slot, c.n)

/-- An arrival: its gang, its opcode, its payload, its destination, and whether its slot waits. The first one's opcode is the
generation's (R83). -/
def arrivalCodec : Codec Arrival :=
  ((Codec.nat 1).pair ((Codec.nat 2).pair (word64.pair (sregCodec.opt.pair Codec.bool)))).iso
    (fun x => ⟨x.1, x.2.1, x.2.2.1, x.2.2.2.1, x.2.2.2.2⟩) fun a => (a.gang, a.op, a.payload, a.dest, a.blocks)

def circleCodec : Codec Circle :=
  ((Codec.nat 1).pair ((Codec.bits 16 2).pair arrivalCodec.list)).iso (fun x => ⟨x.1, x.2.1, x.2.2⟩) fun c => (c.id, c.members, c.gen)

/-- A dial binding: its seven marks (R256). -/
def marksCodec : Codec Marks := ⟨fun m => (List.range 7).flatMap fun k => leOf 4 (m.getD k 0).toNat, (Codec.bits 32 4).times 7⟩

/-- A matrix word under way: the resume granule, whether groups begin at zero, and the number of groups still to do (R246). The shapes
and tiles that it read when it began stay with the plot. -/
structure MatRec where
  gran   : Nat
  z      : Bool
  groups : Nat

def matCodec : Codec MatRec :=
  ((Codec.nat 4).pair (Codec.bool.pair (Codec.nat 1))).iso (fun x => ⟨x.1, x.2.1, x.2.2⟩) fun m => (m.gran, m.z, m.groups)

def MatRun.rec_ (m : MatRun) : MatRec := ⟨m.gran, m.z, m.groups.length⟩

/-- The matrix word as a restore resumes it. -/
def MatRun.resume (m : Option MatRun) (r : Option MatRec) : Option MatRun :=
  match m, r with
  | some m, some r => some { m with gran := r.gran, z := r.z, groups := m.groups.drop (m.groups.length - r.groups) }
  | _, _ => none

def streamFields : List (Field SeqStream) :=
  [(Codec.oneOf [SqState.idle, .run, .wait, .done, .fault] .idle).at_ (·.state) fun q v => { q with state := v },
   word64.at_ (·.start) fun q v => { q with start := v }, word64.at_ (·.pc) fun q v => { q with pc := v },
   ((Codec.nat 4).vec 4 0).at_ (·.lc) fun q v => { q with lc := v }, ((Codec.nat 2).vec 16 0).at_ (·.sg) fun q v => { q with sg := v },
   ((Codec.bits 32 4).vec 16 0).at_ (·.sa) fun q v => { q with sa := v }, (Codec.bits 8 1).at_ (·.cause) fun q v => { q with cause := v },
   (Codec.bits 8 1).at_ (·.reason) fun q v => { q with reason := v }, word64.at_ (·.faddr) fun q v => { q with faddr := v },
   Codec.bool.at_ (·.seen) fun q v => { q with seen := v },
   ((Codec.nat 1).pair (Codec.nat 4)).opt.at_ (·.want) fun q v => { q with want := v },
   word64.opt.at_ (·.word) fun q v => { q with word := v },
   matCodec.opt.at_ (fun q => q.mat.map MatRun.rec_) fun q v => { q with mat := MatRun.resume q.mat v },
   (Codec.nat 4).opt.at_ (·.fid) fun q v => { q with fid := v }]

def plotFields : List (Field Plot) :=
  [Field.under (·.tmpl) (fun P T => { P with tmpl := T }) tmplFields, word64.at_ (·.entry) fun P v => { P with entry := v },
   (Codec.nat 1).at_ (·.req) fun P v => { P with req := v },
   (Codec.nat 2).at_ (·.budget) fun P v => { P with budget := v }, (Codec.nat 2).at_ (·.reserve) fun P v => { P with reserve := v },
   claimCodec.list.at_ (·.claims) fun P v => { P with claims := v }, circleCodec.list.at_ (·.circles) fun P v => { P with circles := v },
   (marksCodec.opt.vec 4 none).at_ (·.dials) fun P v => { P with dials := v },
   (Codec.nat 4).opt.at_ (·.target) fun P v => { P with target := v }, (Codec.nat 1).at_ (·.handler) fun P v => { P with handler := v },
   Field.under (·.stream) (fun P q => { P with stream := q }) streamFields]

/-- The plot section: the template, the priority, the class request, B and the reserve, the claim queue, the circles with their open
generations, the dial bindings, the target with its block and its handler gang, the stream. -/
def savedPlotFields : List (Field SavedPlot) :=
  [Field.under (·.P) (fun x P => { x with P := P }) plotFields, (Codec.nat 8).at_ (·.block) fun x v => { x with block := v }]

/-- The block address of a plot's target. -/
def State.blockOf (s : State) (P : Plot) : Nat := ((P.target.bind fun t => s.target? P.ctx t).map (·.block)).getD 0

/-- The hub's entry of a plot's target follows the plot's section. -/
def State.retarget (s : State) (x : SavedPlot) : State :=
  match x.P.target with
  | none => s
  | some tid =>
    match s.target? x.P.ctx tid with
    | some t => if t.plot = x.P.id then s.setTarget tid { t with block := x.block, gang := x.P.handler } else s
    | none => s

/-! ### The gang sections -/

/-- A frame: which handler, both slots as they resume, and the base (R74). -/
def frameCodec : Codec Frame :=
  ((Codec.oneOf [Handler.trap, .chime] .trap).pair (pcSlotCodec.pair (pcSlotCodec.pair (Codec.nat 1)))).iso
    (fun x => ⟨x.1, x.2.1, x.2.2.1, x.2.2.2⟩) fun f => (f.kind, f.a, f.b, f.base)

def lanesCodec : Codec Lanes := (Codec.bits 32 4).vec 96 0

/-- A class's counter with I and C (R189). Completions that came while the plot was saved are applied to what the record holds (R221,
R300). -/
def classFields : List (Field ClassState) :=
  [(Codec.nat 1).at_ (·.count) fun k v => { k with count := v - k.late }, word64.at_ (·.issued) fun k v => { k with issued := v },
   word64.at_ (·.cover) fun k v => { k with cover := v },
   word64.at_ (·.done) fun k v => { k with done := v + BitVec.ofNat 64 k.late, late := 0 }]

/-- A TMOV.R that waits to reserve a slot: its number, its block's offset and its block (R221). -/
def ringCodec : Codec (Word64 × Nat × List Byte) :=
  word64.pair ((Codec.nat 4).pair ⟨fun b => bytesAt b 0 128, fun b => (b.take 128, b.drop 128)⟩)

def Gang.rings (G : Gang) : List (Word64 × Nat × List Byte) :=
  (G.engCp.filter fun o => o.kind == .tmovR && o.phase == .reserve).map fun o => (o.num, o.off, o.desc)

/-- The waiting TMOV.R as the record holds them. -/
def Gang.setRings (G : Gang) (l : List (Word64 × Nat × List Byte)) : Gang :=
  { G with engCp := G.engCp.map fun o =>
      match l.find? fun x => x.1 == o.num with
      | some x => if o.kind = .tmovR ∧ o.phase = .reserve then { o with off := x.2.1, desc := x.2.2 } else o
      | none => o }

/-- A load's destination: its form and its register. -/
def destCodec : Codec LoadDest where
  put
    | .vec r => [0] ++ (Codec.bits 8 1).put r
    | .pair r => [1] ++ (Codec.bits 8 1).put r
    | .scl r => [2] ++ sregCodec.put r
    | .autoSt r => [3] ++ sregCodec.put r
    | .sclSh r => [4] ++ sregCodec.put r
    | .autoStSh r => [5] ++ sregCodec.put r
  get b :=
    let v := (Codec.bits 8 1).get (b.drop 1)
    let r := sregCodec.get (b.drop 1)
    match (b.headD 0).toNat with
    | 0 => (.vec v.1, v.2)
    | 1 => (.pair v.1, v.2)
    | 2 => (.scl r.1, r.2)
    | 3 => (.autoSt r.1, r.2)
    | 4 => (.sclSh r.1, r.2)
    | _ => (.autoStSh r.1, r.2)

/-- A load of the operand log: its numbers, its slot and PC, what it is (acquire, size, destination), its lanes with their addresses,
and its FIDs (R328). -/
def loadFields : List (Field LoadOp) :=
  [(Codec.nat 8).at_ (·.id) fun x v => { x with id := v }, (Codec.nat 8).at_ (·.seq) fun x v => { x with seq := v },
   slotCodec.at_ (·.slot) fun x v => { x with slot := v }, word64.at_ (·.pc) fun x v => { x with pc := v },
   Codec.bool.at_ (·.acq) fun x v => { x with acq := v }, destCodec.at_ (·.dest) fun x v => { x with dest := v },
   (Codec.nat 1).at_ (·.size) fun x v => { x with size := v },
   ((Codec.nat 1).pair (Codec.nat 8)).list.at_ (·.lanes) fun x v => { x with lanes := v },
   fidsCodec.at_ (·.fids) fun x v => { x with fids := v }, (Codec.nat 8).at_ (·.at_) fun x v => { x with at_ := v }]

def loadCodec : Codec LoadOp := Field.whole loadFields ⟨0, 0, .A, 0, false, .vec 0, 0, [], [], 0⟩

def atomLaneCodec : Codec AtomLane :=
  ((Codec.nat 1).pair ((Codec.nat 8).pair (word64.pair word64))).iso (fun x => ⟨x.1, x.2.1, x.2.2.1, x.2.2.2⟩)
    fun l => (l.lane, l.addr, l.c, l.e)

/-- An atomic of the operand log: the same, with its function and its operands. -/
def atomFields : List (Field AtomOp) :=
  [(Codec.nat 8).at_ (·.id) fun x v => { x with id := v }, (Codec.nat 8).at_ (·.seq) fun x v => { x with seq := v },
   slotCodec.at_ (·.slot) fun x v => { x with slot := v }, word64.at_ (·.pc) fun x v => { x with pc := v },
   Codec.bool.at_ (·.acq) fun x v => { x with acq := v },
   (Codec.oneOf [AtomFn.add, .minI, .maxI, .minN, .maxN, .and, .or, .xor, .xchg, .xchg64, .cas, .cas64, .fadd, .amaxx] .add).at_
     (·.fn) fun x v => { x with fn := v },
   (Codec.bits 8 1).at_ (·.dest) fun x v => { x with dest := v }, atomLaneCodec.list.at_ (·.lanes) fun x v => { x with lanes := v },
   fidsCodec.at_ (·.fids) fun x v => { x with fids := v }, (Codec.nat 8).at_ (·.at_) fun x v => { x with at_ := v }]

def atomCodec : Codec AtomOp := Field.whole atomFields ⟨0, 0, .A, 0, false, .add, 0, [], [], 0⟩

/-- An entry of the store buffer that a fault holds. -/
def bufCodec : Codec BufLine :=
  ((Codec.nat 8).pair (((Codec.nat 1).pair (Codec.bits 8 1)).list.pair (Codec.nat 4).opt)).iso (fun x => ⟨x.1, x.2.1, x.2.2⟩)
    fun l => (l.line, l.bytes, l.fid)

def boundCodec : Codec Boundary :=
  ((Codec.oneOf [BoundKind.phase, .rel, .barPh, .exit, .trap, .save, .implicit, .atomic, .overlap, .fenceOwn, .forced] .save).pair
    (Codec.nat 8)).iso (fun x => ⟨x.1, x.2⟩) fun b => (b.kind, b.seq)

def deferFields : List (Field Deferred) :=
  [(Codec.nat 1).at_ (·.code) fun x v => { x with code := v }, (Codec.nat 8).at_ (·.op) fun x v => { x with op := v },
   (Codec.nat 1).at_ (·.entry) fun x v => { x with entry := v }, (Codec.nat 4).at_ (·.fid) fun x v => { x with fid := v },
   word64.at_ (·.addr) fun x v => { x with addr := v }, maskCodec.at_ (·.lanes) fun x v => { x with lanes := v },
   slotCodec.at_ (·.slot) fun x v => { x with slot := v }, word64.at_ (·.pc) fun x v => { x with pc := v },
   Codec.bool.at_ (·.store) fun x v => { x with store := v }]

def deferCodec : Codec Deferred := Field.whole deferFields ⟨0, 0, 0, 0, 0, 0, .A, 0, false⟩

/-- The operand log (R328): the operations that wait, their entries, the buffer entries and the boundary that a fault holds, the denials
that are due, and the decrement of EXIT.D. -/
def logFields : List (Field Gang) :=
  [(Codec.nat 8).at_ (·.seq) fun G v => { G with seq := v }, loadCodec.list.at_ (·.loads) fun G v => { G with loads := v },
   atomCodec.list.at_ (·.atoms) fun G v => { G with atoms := v },
   ((Codec.nat 1).pair (Codec.nat 8)).list.at_ (·.oplog) fun G v => { G with oplog := v },
   bufCodec.list.at_ (·.sbuf) fun G v => { G with sbuf := v }, boundCodec.opt.at_ (·.pend) fun G v => { G with pend := v },
   deferCodec.list.at_ (·.defer) fun G v => { G with defer := v }, word64.opt.at_ (·.armed) fun G v => { G with armed := v },
   (Codec.nat 4).opt.at_ (·.decFid) fun G v => { G with decFid := v }, word64.at_ (·.decPc) fun G v => { G with decPc := v },
   slotCodec.at_ (·.decSlot) fun G v => { G with decSlot := v }]

def gangFields : List (Field Gang) :=
  [pcSlotCodec.at_ (·.a) fun G v => { G with a := v }, pcSlotCodec.at_ (·.b) fun G v => { G with b := v },
   (Codec.nat 1).at_ (·.depth) fun G v => { G with depth := v }, (Codec.nat 1).at_ (·.base) fun G v => { G with base := v },
   maskCodec.at_ (·.exited) fun G v => { G with exited := v }, frameCodec.list.at_ (·.frames) fun G v => { G with frames := v },
   pcCodec.at_ (·.chpca) fun G v => { G with chpca := v }, pcCodec.at_ (·.chpcb) fun G v => { G with chpcb := v },
   Codec.bool.at_ (·.swapped) fun G v => { G with swapped := v }, (word64.vec 5 0).at_ (·.shadow) fun G v => { G with shadow := v },
   (word64.vec 64 0).at_ (·.s) fun G v => { G with s := v }, (maskCodec.vec 8 0).at_ (·.p) fun G v => { G with p := v },
   lanesCodec.list.at_ (·.v) fun G v => { G with v := v },
   Field.under (·.cp) (fun G k => { G with cp := k }) classFields, Field.under (·.gs) (fun G k => { G with gs := k }) classFields,
   Field.under (·.cl) (fun G k => { G with cl := k }) classFields, Field.under (·.ev) (fun G k => { G with ev := k }) classFields,
   ringCodec.list.at_ Gang.rings Gang.setRings] ++ logFields ++
  [((Codec.bits 32 4).vec 16 0).at_ (·.sw) fun G v => { G with sw := v },
   ((Codec.nat 1).pair Codec.bool).list.at_ (·.open_) fun G v => { G with open_ := v },
   word64.at_ (·.tentry) fun G v => { G with tentry := v }, word64.at_ (·.chentry) fun G v => { G with chentry := v },
   word64.at_ (·.tcause) fun G v => { G with tcause := v }, pcCodec.at_ (·.tpca) fun G v => { G with tpca := v },
   pcCodec.at_ (·.tpcb) fun G v => { G with tpcb := v }, word64.at_ (·.tinfo) fun G v => { G with tinfo := v },
   word64.at_ (·.taddr) fun G v => { G with taddr := v }, word64.at_ (·.tlane0) fun G v => { G with tlane0 := v },
   word64.at_ (·.tlane1) fun G v => { G with tlane1 := v }]

/-! ### Tiles, the bower and the grants -/

/-- Bytes of a memory from 0 on. -/
def memCodec (n : Nat) : Codec Memory := ⟨fun m => m.readN 0 n, fun b => (Memory.ofBytes 0 (b.take n), b.drop n)⟩

/-- A tile: 16 KiB, and its shape. -/
def tileCodec : Codec Tile := ((memCodec 16384).pair (Codec.bits 32 4)).iso (fun x => ⟨x.2, x.1⟩) fun t => (t.mem, t.shape)

def Plot.grants (P : Plot) : List Grant := P.pav.toList ++ P.cons.toList

/-- No other plot holds the storage of a grant. -/
def State.soleHolder (s : State) (p pad : Nat) : Bool :=
  !(s.plots.any fun q => q.1 != p && q.2.grants.any fun g => g.pad == pad)

/-- The grants that a plot holds alone: the keys of their storage, their sizes and their images. -/
def State.soleGrants (s : State) (P : Plot) : List (Nat × Nat × List Byte) :=
  P.grants.filterMap fun g =>
    if s.soleHolder P.id g.pad then (s.pads.find g.pad).map fun q => (g.pad, q.size, q.store.readN 0 q.size) else none

/-- A grant's image. -/
def grantCodec : Codec (Nat × Nat × List Byte) where
  put x := leOf 8 x.1 ++ leOf 4 x.2.1 ++ bytesAt x.2.2 0 x.2.1
  get b :=
    let n := natOf ((b.drop 8).take 4)
    ((natOf (b.take 8), n, (b.drop 12).take n), b.drop (12 + n))

/-- An image returns to its storage, if the plot still holds it and the storage has left the part with the plot. -/
def State.loadGrant (s : State) (P : Plot) (x : Nat × Nat × List Byte) : State :=
  match s.pads.find x.1 with
  | some q =>
    if q.home = savedHome ∧ P.grants.any fun g => g.pad == x.1 then
      { s with pads := s.pads.put x.1 { q with store := { q.store with mem := Memory.ofBytes 0 x.2.2 } } }
    else s
  | none => s

/-! ### The sections -/

/-- The gangs whose sections a record holds: those that have not drained. -/
def State.savedGangs (s : State) (P : Plot) : List Gang := (s.gangsOf P.id).filter fun G => G.life == .running || G.life == .draining

/-- A gang's section: its index and its fields. -/
def gangSection (G : Gang) : List Byte := leOf 1 G.idx ++ Field.encode gangFields G

/-- The sections of a plot's record, in the order of R353, filled up to a multiple of 64 bytes. -/
def State.sections (s : State) (P : Plot) : List Byte :=
  let gs := s.savedGangs P
  let b := Field.encode savedPlotFields ⟨P, s.blockOf P⟩ ++ leOf 1 gs.length ++ gs.flatMap gangSection ++ P.tiles.flatMap tileCodec.put ++
    (memCodec P.tmpl.l1s).put P.bower.mem ++ grantCodec.list.put (s.soleGrants P)
  b ++ List.replicate ((64 - b.length % 64) % 64) 0

/-- A plot as a record's sections give it, and the bytes that follow its section. -/
def State.savedPlot (s : State) (P : Plot) (b : List Byte) : SavedPlot × List Byte := Field.decode savedPlotFields b ⟨P, s.blockOf P⟩

/-- The gangs of a record, each from its section. -/
def State.loadGangs (s : State) (P : Plot) : Nat → List Byte → State × List Byte
  | 0, b => (s, b)
  | n + 1, b =>
    match (s.savedGangs P).find? fun G => G.idx == natOf (b.take 1) with
    | none => (s, b)
    | some G => ((s.setGang (Field.decode gangFields (b.drop 1) G).1)).loadGangs P n (Field.decode gangFields (b.drop 1) G).2

/-- A plot's state from the sections of its record, and the block writes of the operations that completed while it was saved. -/
def State.loadSections (s : State) (P : Plot) (b : List Byte) : State :=
  let x := s.savedPlot P b
  let r := (s.retarget x.1).loadGangs P (natOf (x.2.take 1)) (x.2.drop 1)
  let t := tileCodec.times x.1.P.tmpl.tiles r.2
  let m := (memCodec x.1.P.tmpl.l1s).get t.2
  let P1 := { x.1.P with tiles := t.1, bower := ({ x.1.P.bower with mem := m.1 } : Store).writes x.1.P.late, late := [] }
  ((grantCodec.list.get m.2).1.foldl (fun s q => s.loadGrant P1 q) r.1).setPlot P1

end Sys2Proof.Machine
end

