-- ==== Sys2Proof/Machine/Sched.lean ====
section
/-! DEFINITION. Machine/Sched.lean: admission (R334, R335), launch of a plot (R57 to R61, R97), pre-emption (R336, R337,
R352), save records and restore (R353, R354), watches (R338, R391) and suspended plots (R347). -/

namespace Sys2Proof.Machine

/-! ### What a plot needs of a core (R334) -/

/-- A grant that a resuming plot brings with it: its level, its size, and its home where the storage stayed in place. -/
structure PadNeed where
  level : Nat
  size  : Nat
  home  : Option Nat
  deriving DecidableEq, Repr

structure Need where
  gangs   : Nat
  budget  : Nat
  l1s     : Nat
  tiles   : Nat
  circles : Nat
  pads    : List PadNeed
  deriving DecidableEq, Repr

/-- The plots on a core, without one of them. -/
def State.onCore (s : State) (core : Nat) (but : Option Nat) : List Plot :=
  (s.plots.map (·.2)).filter fun P => P.core == core && P.place != .saved && but != some P.id

/-- Gang places in use: a gang whose registers have returned gives its place up, unless the handoff right keeps it. -/
def State.placesOf (s : State) (P : Plot) : Nat :=
  if P.tmpl.handoff then P.tmpl.gangs else ((s.gangsOf P.id).filter fun G => G.life != .returned).length

/-- The lowest bower offset at which a region fits beside the resident ones (R334). -/
def bowerSpot (ps : List Plot) (size : Nat) : Option Nat :=
  let free (a : Nat) : Bool :=
    decide (a + size ≤ 524288) && ps.all fun P => decide (a + size ≤ P.bowerAt) || decide (P.bowerAt + P.tmpl.l1s ≤ a)
  ((0 :: ps.map fun P => P.bowerAt + P.tmpl.l1s).filter free).min?

/-- The lowest free plot slot of a core (R61). -/
def slotSpot (ps : List Plot) : Option Nat := (List.range 16).find? fun k => !(ps.any fun P => P.pslot == k)

/-- Space of a level that a leaving plot will release at a home (R353). -/
def State.padRelief (s : State) (lv home : Nat) (but : Option Nat) : Nat :=
  match but with
  | none => 0
  | some p =>
    match s.plot? p with
    | none => 0
    | some P => ((P.grants.filter fun g => s.soleHolder p g.pad).map fun g =>
        match s.pads.find g.pad with
        | some q => if q.level = lv ∧ q.home = home then q.size else 0
        | none => 0).sum

/-- The home of a level for a core: its cluster, or its die. -/
def levelHome (lv core : Nat) : Nat := if lv = 1 then core / 12 else dieOf core

def State.padFits (s : State) (core : Nat) (but : Option Nat) (n : PadNeed) : Bool :=
  match n.home with
  | some h => h == levelHome n.level core
  | none => decide (s.padLoad n.level (levelHome n.level core) + n.size ≤ padRoom n.level + s.padRelief n.level (levelHome n.level core) but)

/-- The core would hold the plot once another has left it (R334, R336). -/
def State.fits (s : State) (core : Nat) (n : Need) (but : Option Nat) : Bool :=
  let ps := s.onCore core but
  (slotSpot ps).isSome && decide ((ps.map s.placesOf).sum + n.gangs ≤ 16) && decide ((ps.map (·.budget)).sum + n.budget ≤ 1536) &&
    (bowerSpot ps n.l1s).isSome && decide ((ps.map fun P => P.tiles.length).sum + n.tiles ≤ 32) &&
    decide ((ps.map fun P => P.circles.length).sum + n.circles ≤ 256) && n.pads.all fun x => s.padFits core but x

/-! ### Launches (R57, R97, R409) -/

/-- The gang count of a launch: the template's, or payload word 0 of a bound event (R289). -/
def launchGangs (t : List Byte) (l : Launch) : Nat :=
  let g := fieldAt t 19 1
  if bitOf g 7 then
    match l.binds.getD (fieldOf g 5 2) none with
    | some b => fieldAt b.2 24 4
    | none => 0
  else g % 32

/-- The template as the plot keeps it. -/
def templateOf (t : List Byte) (gangs : Nat) : Template where
  entry := BitVec.ofNat 64 (fieldAt t 0 8)
  seqa := BitVec.ofNat 64 (fieldAt t 8 8)
  gangs := gangs
  vregs := 8 * fieldAt t 18 1
  budget := fieldAt t 16 2
  l1s := fieldAt t 20 4
  span := fieldAt t 24 1 % 8
  tiles := fieldAt t 25 1
  prio := fieldAt t 26 1
  handoff := bitOf (fieldAt t 27 1) 0
  l2s := fieldAt t 28 4
  circles := ((List.range 63).filter fun k => fieldAt t (66 + 2 * k) 2 != 0).map fun k => (k + 1, BitVec.ofNat 16 (fieldAt t (66 + 2 * k) 2))

/-- The lowest-numbered reason for which a launch is invalid (R283). -/
def launchBad (t : List Byte) (l : Launch) : Option Nat :=
  let T := templateOf t (launchGangs t l)
  if T.gangs = 0 ∨ 16 < T.gangs then some 1
  else if 6 ≤ T.span then some 2
  else if T.l1s < 512 + 1024 * T.gangs then some 3
  else if T.budget < T.gangs * T.vregs then some 4
  else if tmplBad t then some 5
  else none

def Template.need (T : Template) : Need := ⟨T.gangs, T.budget, T.l1s, T.tiles, T.circles.length + 1, []⟩

/-- The argument block (R58). -/
def argumentBlock (l : Launch) : List Byte :=
  ((List.range 4).flatMap fun k => match l.binds.getD k none with
    | some b => bytesAt b.2 0 64
    | none => List.replicate 64 (0 : Byte)) ++
  leOf 8 l.key.toNat ++ leOf 4 0 ++ leOf 4 l.slot ++ leOf 8 l.aseq ++
  ((List.range 4).flatMap fun k => leOf 4 (l.streams.getD k 0xFFFFFFFF).toNat) ++
  ((List.range 4).flatMap fun k => leOf 8 (l.xclk.getD k 0)) ++ leOf 8 l.ats

/-- A new plot on a core (R56 to R61, R97). -/
def Plot.launch (id lid core pslot bower order now : Nat) (T : Template) (l : Launch) : Plot where
  id := id
  lid := lid
  ctx := l.ctx
  core := core
  pslot := pslot
  tmpl := T
  entry := T.entry
  budget := T.budget
  reserve := T.budget - T.gangs * T.vregs
  claims := []
  circles := T.circlesOf
  bower := Store.empty.writeN 0 (argumentBlock l)
  bowerAt := bower
  pav := none
  cons := none
  tiles := List.replicate T.tiles Tile.fresh
  stream := .idle
  dials := Vector.replicate 4 none
  req := 1
  ats := BitVec.ofNat 64 l.ats
  target := none
  handler := 0
  place := .resident
  suspended := false
  emergency := false
  runnable := false
  watches := []
  order := order
  admitted := now
  lastMove := none
  moveTo := none
  rec_ := 0
  saveSeq := 0
  saving := none
  late := []
  trapper := none

/-- Removes the entry with an order number from the backlogs. -/
def State.dropEntry (s : State) (ord : Nat) : State :=
  State.noteHead { s with backlog := s.backlog.filter fun b => b.ord != ord }

/-- Zeroes the allocations, writes the argument block and starts every gang (R58, R59); the service decides the pavilion
request, and the plot is admitted either way (R147). DESIGN CHOICE (log 103): a grant made here is a fresh one, never one that
other plots share. -/
def State.launchPlot (s : State) (core pslot bower : Nat) (T : Template) (l : Launch) (grant : Bool) : State :=
  let c := s.context l.ctx
  let P := Plot.launch s.nextKey (c.nextPlot + 1) core pslot bower s.ordNext s.ticks T l
  let s0 : State := { s with nextKey := s.nextKey + 1, ordNext := s.ordNext + 1 }
  let s1 := (s0.setContext l.ctx { c with nextPlot := c.nextPlot + 1 }).setPlot P
  let s2 := (List.range T.gangs).foldl (fun s g => s.setGang (Gang.launch P g s.ticks)) s1
  let s3 := s2.sample core 4 (s.time.toNat - l.ats)
  if grant ∧ T.l2s ≠ 0 then (s3.newGrant P 1 T.l2s T.span).getD s3 else s3

/-! ### Save records (R353) -/

/-- The header (R353). -/
def saveHeader (P : Plot) (seq len : Nat) : List Byte :=
  leOf 4 1 ++ leOf 4 1 ++ leOf 4 ((if P.suspended then 1 else 0) + (if P.emergency then 2 else 0)) ++ leOf 4 0 ++ leOf 4 P.ctx ++
    leOf 4 P.lid ++ leOf 8 len ++ leOf 8 seq ++ List.replicate 24 0

/-- A record: the header, the sections, and the marker with SEQ in its last word (R353). -/
def State.recordOf (s : State) (P : Plot) (seq : Nat) : List Byte :=
  let b := s.sections P
  saveHeader P seq (128 + b.length) ++ b ++ List.replicate 56 (0 : Byte) ++ leOf 8 seq

/-- Writes at a place of a plot's record: in the context's save area, or for an emergency save in host memory (R354). It tells whether
the write is over: one that meets a translation fault waits, one that is denied is lost. -/
def State.putRecord (s : State) (P : Plot) (addr : Nat) (bs : List Byte) : Bool × State :=
  if P.emergency then (true, (s.writeLoc (.host addr) bs).fire (.host addr) bs.length)
  else
    match s.partAccess P.ctx addr .engWrite .governors (hubWho .engWrite) .other [P.id] with
    | (.ok l, s) => (true, (s.writeLoc l bs).fire l bs.length)
    | (.wait, s) => (false, s)
    | (.denied, s) => (true, s)

/-- Reads 64-byte lines of a plot's record. -/
def State.getRecord (s : State) (P : Plot) (addr : Nat) : Nat → Except PartEnd (List Byte) × State
  | 0 => (.ok [], s)
  | n + 1 =>
    if P.emergency then (.ok (s.readLoc (.host addr) (64 * (n + 1))), s)
    else
      match s.partAccess P.ctx addr .engRead .governors (hubWho .engRead) .other [P.id] with
      | (.ok l, s) =>
        if s.poisonedLoc l 64 then (.error .denied, s)
        else match s.getRecord P (addr + 64) n with
          | (.ok bs, s1) => (.ok (s.readLoc l 64 ++ bs), s1)
          | e => e
      | (e, s) => (.error e, s)

/-- Restore accepts a record when STATE is INCOMPLETE and the marker equals SEQ (R353). -/
def recordGood (b : List Byte) : Bool := fieldAt b 0 4 == 1 && fieldAt b (fieldAt b 24 8 - 8) 8 == fieldAt b 32 8

/-- Reads a whole record: its header tells its length. -/
def State.readSave (s : State) (P : Plot) : Except PartEnd (List Byte) × State :=
  match s.getRecord P P.rec_ 1 with
  | (.ok h, s) => s.getRecord P P.rec_ (fieldAt h 24 8 / 64)
  | e => e

/-- The sections of a record. -/
def recordBody (b : List Byte) : List Byte := (b.take (b.length - 64)).drop 64

/-- What a saved plot needs to resume: its grants with images too (R334). -/
def State.savedNeed (s : State) (P : Plot) : Need :=
  ⟨s.placesOf P, P.budget, P.tmpl.l1s, P.tmpl.tiles, P.circles.length,
   P.grants.filterMap fun g => (s.pads.find g.pad).map fun q => ⟨q.level, q.size, if q.home = savedHome then none else some q.home⟩⟩

/-- The storage that a plot holds alone leaves the part: its image lies in the record. -/
def State.padsOut (s : State) (P : Plot) : State :=
  { s with pads := s.pads.map fun q =>
      if (P.grants.any fun g => g.pad == q.1) && s.soleHolder P.id q.1 then (q.1, { q.2 with home := savedHome }) else q }

/-- The storage of a plot's images is on the part again, at its core's homes. -/
def State.padsIn (s : State) (P : Plot) (core : Nat) : State :=
  { s with pads := s.pads.map fun q =>
      if (P.grants.any fun g => g.pad == q.1) && q.2.home == savedHome then (q.1, { q.2 with home := levelHome q.2.level core }) else q }

/-- A gang as it is restored: latches invalid, spin counts 0, its age counted from now (R339, R353). -/
def Gang.restore (G : Gang) (now : Nat) : Gang :=
  let f (S : PcSlot) : PcSlot := { S.calm with issued := none, swap := false }
  { G.dropLatches with a := G.a.map f, b := G.b.map f, lastIssue := none, since := now }

/-- Puts a saved plot on a core, with what stands in its record (R353). -/
def State.restorePlot (s : State) (P : Plot) (b : List Byte) (core pslot bower : Nat) : State :=
  let s1 := (s.putRecord P P.rec_ (leOf 4 3)).2
  let s2 := (s1.loadSections P (recordBody b)).padsIn P core
  let P0 := (s2.plot? P.id).getD P
  let P1 := { P0 with core := core, pslot := pslot, bowerAt := bower, place := .resident, emergency := false, runnable := false, watches := [],
                      order := s.ordNext, admitted := s.ticks, moveTo := none,
                      stream := { P0.stream with stop := false } }
  let s3 := { s2.setPlot P1 with ordNext := s.ordNext + 1 }
  (s3.gangsOf P.id).foldl (fun s G => s.setGang (G.restore s.ticks)) s3

/-! ### ADMISSION -/

/-- The head's context. -/
def State.entryCtx (s : State) (e : Entry) : Nat :=
  match e with
  | .launch l => l.ctx
  | .plot p => ((s.plot? p).map (·.ctx)).getD 0

/-- A launch at the head: invalid (R57, R97, R409), or admitted onto a core of its context's clusters that holds it. -/
def State.admitLaunch (s : State) (b : Backlog) (l : Launch) (core : Nat) (grant : Bool) : State :=
  match s.readTemplate l.ctx l.tmplAt .escapement [l.slot] with
  | (.error .wait, s) => s
  | (.error _, s) =>
    (s.dropEntry b.ord).errRecord l.ctx 0x0004 0 (wordBytes [l.slot, l.aseq % 2 ^ 32, l.aseq / 2 ^ 32, 5])
  | (.ok t, s) =>
    match launchBad t l with
    | some r => (s.dropEntry b.ord).errRecord l.ctx 0x0004 0 (wordBytes [l.slot, l.aseq % 2 ^ 32, l.aseq / 2 ^ 32, r])
    | none =>
      let T := templateOf t (launchGangs t l)
      match slotSpot (s.onCore core none), bowerSpot (s.onCore core none) T.l1s with
      | some k, some a => if s.fits core T.need none then (s.dropEntry b.ord).launchPlot core k a T l grant else s
      | _, _ => s

/-- A runnable saved plot at the head: its record says what it needs. Its wait for admission is a sample (R388). -/
def State.admitPlot (s : State) (b : Backlog) (P : Plot) (core : Nat) : State :=
  match s.readSave P with
  | (.error .wait, s) => s
  | (.error _, s) => s.dropEntry b.ord
  | (.ok r, s) =>
    if !recordGood r then s.dropEntry b.ord
    else
      let Q := (s.savedPlot P (recordBody r)).1.P
      match slotSpot (s.onCore core none), bowerSpot (s.onCore core none) Q.tmpl.l1s with
      | some k, some a =>
        if s.fits core (s.savedNeed Q) none then
          (((s.dropEntry b.ord).restorePlot P r core k a).sample core 4 (s.time.toNat - b.since))
        else s
      | _, _ => s

/-- The head of the highest non-empty priority, offered a core (R335). The part has 384 cores. -/
def execAdmission (core : Nat) (grant : Bool) (s : State) : Res :=
  match headOf s.backlog with
  | none => .next s
  | some b =>
    if !s.booted ∨ 384 ≤ core ∨ !((s.context (s.entryCtx b.what)).clusters.contains (core / 12)) then .next s
    else match b.what with
      | .launch l => .next (s.admitLaunch b l core grant)
      | .plot p =>
        match s.plot? p with
        | some P =>
          if P.place ≠ .saved then .next (s.dropEntry b.ord)
          else if P.moveTo.any fun c => c != core / 12 then .next s
          else .next (s.admitPlot b P core)
        | none => .next (s.dropEntry b.ord)

/-! ### PREEMPT_FOR_HEAD and SWAP_SAVE -/

/-- The clusters that the head may use: its context's, or the one that it moves to (R334, R376). -/
def State.headClusters (s : State) (e : Entry) : List Nat :=
  match e with
  | .launch l => (s.context l.ctx).clusters
  | .plot p =>
    match s.plot? p with
    | some P => match P.moveTo with
      | some c => [c]
      | none => (s.context P.ctx).clusters
    | none => []

/-- What the head needs, as far as the part can tell now. -/
def State.entryNeed (s : State) (e : Entry) : Option Need :=
  match e with
  | .launch l =>
    match s.readTemplate l.ctx l.tmplAt .escapement [l.slot] with
    | (.ok t, _) => if (launchBad t l).isNone then some (templateOf t (launchGangs t l)).need else none
    | _ => none
  | .plot p =>
    match s.plot? p with
    | none => none
    | some P =>
      match s.readSave P with
      | (.ok r, _) => if recordGood r then some (s.savedNeed (s.savedPlot P (recordBody r)).1.P) else none
      | _ => none

/-- The most recently admitted of some plots. -/
def latestOf : List Plot → Option Plot
  | [] => none
  | P :: Ps =>
    match latestOf Ps with
    | some Q => if P.order < Q.order then some Q else some P
    | none => some P

/-- The victim among the residents of a cluster set: the lowest priority first that is 3 below the head (R336). -/
def State.victim (s : State) (n : Need) (clusters : List Nat) (prio : Nat) : Option Plot :=
  let ps := (s.plots.map (·.2)).filter fun P =>
    P.place == .resident && clusters.contains (P.core / 12) && decide (P.tmpl.prio + 3 ≤ prio) && s.fits P.core n (some P.id)
  match (ps.map (·.tmpl.prio)).min? with
  | some q => latestOf (ps.filter fun P => P.tmpl.prio == q)
  | none => none

/-- A core of the cluster set holds the head as it stands, so the head is not waiting for resources. -/
def State.headFits (s : State) (n : Need) (clusters : List Nat) : Bool :=
  clusters.any fun c => (List.range 12).any fun k => decide (c < 32) && s.fits (12 * c + k) n none

/-- 20 µs in cycles of 10/11 ns. -/
def headPatience : Nat := 22000

/-- A head that has waited 20 µs evicts one victim (R336). -/
def execPreemptForHead (s : State) : Res :=
  match headOf s.backlog, s.headSince with
  | some b, some (o, t) =>
    let cs := s.headClusters b.what
    if o ≠ b.ord ∨ s.ticks < t + headPatience then .next s
    else match s.entryNeed b.what with
      | none => .next s
      | some n =>
        if s.headFits n cs then .next s
        else match s.victim n cs b.prio with
          | none => .next s
          | some P => .next { s.setPlot { P with place := .halted, runnable := true } with headSince := some (o, s.ticks) }
  | _, _ => .next s

/-- A slot is swap-eligible, or blocked in SLEEP or PSLEEP (R337). -/
def PcSlot.swappable (S : PcSlot) : Bool :=
  S.swap || match S.wait with
    | .sleep _ => true
    | .psleep _ => true
    | _ => false

/-- An entry step is due at a gang's boundary: a deferred trap or a chime (R348). -/
def State.entryDue (s : State) (P : Plot) (G : Gang) : Bool := G.deferDue.isSome || (s.chimeNow P G).isSome

/-- A plot is swap-eligible (R337); at least one slot is (log 34), and no entry is due. -/
def State.swapReady (s : State) (P : Plot) : Bool :=
  let gs := s.gangsOf P.id
  P.place == .resident && !(gs.any fun G => G.life == .draining || G.life == .drained) &&
    (gs.filter fun G => G.life == .running).all (fun G => G.a.all PcSlot.swappable && G.b.all PcSlot.swappable) &&
    (gs.any fun G => G.a.any (·.swap) || G.b.any (·.swap)) && !(gs.any (s.entryDue P))

/-- The address that a slot in WAITC watches. -/
def PcSlot.watch (o : Option PcSlot) : List Nat :=
  match o with
  | some S => match S.wait with
    | .waitc _ addr _ _ _ _ _ => [addr]
    | _ => []
  | none => []

/-- A head that waits for resources has a swap-eligible plot saved (R337). -/
def execSwapSave (s : State) : Res :=
  match headOf s.backlog with
  | none => .next s
  | some b =>
    let cs := s.headClusters b.what
    match s.entryNeed b.what with
    | none => .next s
    | some n =>
      if s.headFits n cs then .next s
      else
        let ps := (s.plots.map (·.2)).filter fun P => cs.contains (P.core / 12) && s.swapReady P && s.fits P.core n (some P.id)
        match latestOf ps with
        | none => .next s
        | some P =>
          .next (s.setPlot { P with place := .halted, runnable := false,
                                    watches := (s.gangsOf P.id).flatMap fun G => PcSlot.watch G.a ++ PcSlot.watch G.b })

/-! ### PREEMPTION_HALT (R352) -/

/-- An operation of a gang waits on an open fault. -/
def State.faulted (s : State) (G : Gang) : Bool :=
  !(s.waitingOps G).isEmpty || G.sbuf.any (fun l => l.fid.any s.faultOpen) || G.a.any (fun S => S.fid.any s.faultOpen) ||
    G.b.any fun S => S.fid.any s.faultOpen

/-- No boundary of a gang can come to its end before a verdict: none pends, or what its buffer still holds waits on open faults. -/
def State.boundaryStuck (s : State) (G : Gang) : Bool :=
  G.pend.isNone || (G.pend.all (fun b => !G.ackReady b) && G.sbuf.all fun l => l.fid.any s.faultOpen)

/-- A lane of an access stays in the operand log: it waits on an open fault, or behind an access that does (R328). A replay that has been
sent is performed first. -/
def State.laneHeld (s : State) (G : Gang) (fids : List Nat) (seq addr n : Nat) : Bool :=
  (s.faultAmong fids addr).isSome || (s.faulted G && s.boundaryStuck G && !G.gates seq addr n)

/-- A slot's store goes no further before a verdict: its lane waits on an open fault, or a boundary or an LD.GM.ACQ that does is before
it. -/
def State.storeHeld (s : State) (G : Gang) (o : Option PcSlot) : Bool :=
  o.all fun S => !S.storing || (s.faulted G && s.boundaryStuck G && (S.fid.any s.faultOpen || G.pend.isSome || G.loads.any (·.acq)))

/-- Every issued register result of a gang has been written, but for the operand log's: of the atomics, the oldest stands for those that
the owner holds behind it (R327). -/
def State.quiet (s : State) (P : Plot) (G : Gang) : Bool :=
  G.loads.all (fun l => l.lanes.all fun e => s.laneHeld G l.fids l.seq e.2 l.size) &&
    (G.atoms.head?).all (fun o => o.lanes.all fun e => s.laneHeld G o.fids o.seq e.addr o.fn.size) &&
    !((s.core P.core).sfq.any fun e => e.gang == gangKey P.id G.idx) && G.chimes.isEmpty && s.storeHeld G G.a && s.storeHeld G G.b

/-- How a wait stands after the halt: a sleep is over; a claim, a barrier wait, a JOIN, and a store or a WAITC that a fault holds are
kept; every other word will issue again (R328, R352). -/
def PcSlot.halt (S : PcSlot) : PcSlot :=
  match S.wait with
  | .join _ => S.calm
  | .sleep _ => (S.skip 8).calm
  | .vclaim => S.calm
  | .bar _ => S.calm
  | .store .. => S.calm
  | .waitc .. => if S.fid.isSome then S.calm else { S.calm with wait := .none, swap := false }
  | _ => { S.calm with wait := .none, swap := false, fid := none }

/-- The stream has stopped at a boundary (R246). -/
def Plot.streamStill (P : Plot) : Bool := P.stream.stop || P.stream.state != .run

/-- Every slot of a gang has left the waits that a save does not keep. -/
def Gang.left (G : Gang) : Bool := G.a.all (fun S => S.halt == S) && G.b.all fun S => S.halt == S

/-- No entry that precedes the halt is due (R348); a suspended plot takes none. -/
def State.noEntryDue (s : State) (P : Plot) : Bool := P.suspended || !((s.gangsOf P.id).any (s.entryDue P))

/-- A core comes to its halt: no gang on it issues until every gang of the plot that is to be saved has left its waits (R352). -/
def State.halting (s : State) (core : Nat) : Bool :=
  s.plots.any fun q => q.2.core == core && q.2.place == .halted && !q.2.suspended && !q.2.away && !((s.gangsOf q.1).all Gang.left)

/-- The halted plots of a core leave their waits once every result is written and every entry that is due has been taken. -/
def execPreemptionHalt (core : Nat) (s : State) : Res :=
  .next ((s.plots.map (·.2)).foldl (fun s P =>
    let gs := s.gangsOf P.id
    if P.core = core ∧ P.place = .halted ∧ !P.away ∧ P.streamStill ∧ gs.all (s.quiet P) ∧ s.noEntryDue P then
      gs.foldl (fun s G => s.setGang { G with a := G.a.map PcSlot.halt, b := G.b.map PcSlot.halt }) s
    else s) s)

/-! ### SAVE_RECORD -/

/-- The operation reads or writes the plot's scratchpads or tiles (R221): GATH and SCAT read their index array in the bower. -/
def EngOp.local (o : EngOp) : Bool :=
  if o.kind.isCopy then o.dsp != 0 || o.ssp != 0
  else if o.kind.isGath then true
  else if o.kind.isColl then fieldOf o.cCtl 0 3 != 0 || fieldOf o.cCtl 3 3 != 0
  else false

/-- An operation that must end before the save; a TMOV.R that waits for a ring slot is saved (R221). -/
def EngOp.holdsSave (o : EngOp) : Bool := o.local && o.phase != .finished && !(o.kind == .tmovR && o.phase == .reserve)

/-- The halt is complete, the store buffers have drained and the copies are in (R352, R171, R221). -/
def State.saveReady (s : State) (P : Plot) : Bool :=
  P.place == .halted && P.streamStill && s.noEntryDue P && (s.gangsOf P.id).all fun G =>
    s.quiet P G && G.left && ((G.sbuf.isEmpty && G.pend.isNone) || (G.pend.isSome && s.boundaryStuck G)) &&
      !((G.engCp ++ G.engGs ++ G.engCl).any EngOp.holdsSave)

/-- The TRAP record of a suspended plot (R283, R347). -/
def State.trapRecord (s : State) (P : Plot) : State :=
  match P.trapper with
  | none => s
  | some (g, nested) =>
    match s.gang? P.id g with
    | none => s
    | some G =>
      let pc := pcOf (if bitOf G.tcause.toNat 8 then G.b else G.a)
      s.errRecord P.ctx 0x0001 P.lid (wordBytes
        [G.tcause.toNat, G.tinfo.toNat % 2 ^ 32, pc.toNat % 2 ^ 32, P.lid, G.tinfo.toNat / 2 ^ 32, G.taddr.toNat % 2 ^ 32,
         G.taddr.toNat / 2 ^ 32, g + (if nested then 2 ^ 31 else 0), P.rec_ % 2 ^ 32, P.rec_ / 2 ^ 32])

/-- The chime block is written back at a save (R302, R310). -/
def State.saveTarget (s : State) (P : Plot) : State :=
  match P.target with
  | none => s
  | some tid =>
    match s.target? P.ctx tid with
    | some t => s.writeBack tid t
    | none => s

/-- The save begins: the record has its place, behind the context's earlier ones, and its number. -/
def State.beginSave (s : State) (P : Plot) : State :=
  let c := s.context P.ctx
  let seq := c.saveSeq + 1
  let b := s.recordOf P seq
  let addr := if P.emergency then c.emergencyEnd else c.saveArea
  (s.setContext P.ctx
    (if P.emergency then { c with saveSeq := seq, emergencyEnd := addr + b.length }
     else { c with saveSeq := seq, saveArea := addr + b.length })).setPlot { P with saving := some ⟨addr, seq, b, 0⟩ }

/-- A chime is pending on an enabled vector of the plot's target. -/
def State.targetDue (s : State) (P : Plot) : Bool := (s.targetOf P).any fun t => t.2.due.isSome

/-- The record is whole: the plot has left its core, and its resources are free (R353). A suspended plot has its TRAP record written
(R347); another is runnable if it was pre-empted, or if a chime on an enabled vector waits for it (R310, R335). -/
def State.endSave (s : State) (P : Plot) (v : Saving) : State :=
  let P1 := { P with place := .saved, runnable := false, rec_ := v.at_, saveSeq := v.seq, saving := none }
  let s1 := ((s.saveTarget P).padsOut P).setPlot P1
  if P.suspended then s1.trapRecord P1
  else if P.runnable || s.targetDue P then s1.makeRunnable P.id
  else s1

/-- The next line of a record: the header, then the sections, the marker last (R353). -/
def State.saveLine (s : State) (P : Plot) (v : Saving) : State :=
  match s.putRecord P (v.at_ + v.done) (bytesAt v.bytes v.done 64) with
  | (false, s) => s
  | (true, s) =>
    let P0 := (s.plot? P.id).getD P
    if v.done + 64 < v.bytes.length then s.setPlot { P0 with saving := some { v with done := v.done + 64 } } else s.endSave P0 v

/-- The save of a halted plot. It begins a boundary, which drains the buffers first (R171); then its record is written, line by line. -/
def execSaveRecord (p : Nat) (s : State) : Res :=
  match s.plot? p with
  | none => .next s
  | some P =>
    match P.saving with
    | some v => .next (s.saveLine P v)
    | none =>
      if P.place ≠ .halted then .next s
      else if s.saveReady P then .next (s.beginSave P)
      else .next ((s.gangsOf p).foldl (fun s G => s.setGang (G.beginBoundary .save)) s)

/-! ### WAITC_WATCH_FIRE, suspended plots -/

/-- The watch of a swapped plot fires at a write from outside (R338, R391): one at host memory or at a peer part, which this state
does not see. A write that the part performs fires its watches itself. -/
def execWaitcWatchFire (p addr : Nat) (s : State) : Res :=
  match s.plot? p with
  | some P =>
    if P.watches.contains addr then
      match s.homeOf P.ctx addr with
      | some (.host _) => .next (s.makeRunnable p)
      | some (.peer _) => .next (s.makeRunnable p)
      | _ => .next s
    else .next s
  | none => .next s

/-- The runtime destroys a suspended plot (R347). -/
def execPlotDestroy (p : Nat) (s : State) : Res :=
  match s.plot? p with
  | some P => if P.place = .saved ∧ P.suspended then .next (s.retire p) else .next s
  | none => .next s

end Sys2Proof.Machine
end

