-- ==== Sys2Proof/Machine/Owner.lean ====
section
/-! DEFINITION. Machine/Owner.lean: an owner's own steps: table walks and invalidations (R320, R323), verdicts (R326, R328),
extent counters (R329, R330), migration (R331, R332), the end of a context (R326) and of a peer part (R369). -/

namespace Sys2Proof.Machine

/-- A walk for an access of a kind: on success A and D are set and the TLB is filled. How the access fares, its own step
says. -/
def execTableWalk (owner ctx off : Nat) (k : AccKind) (s : State) : Res :=
  .next (s.lookup ctx (s.globalOf owner off) k .cores).2

/-- The TLB without the entries that cover an offset. -/
def State.dropTlb (s : State) (owner ctx off : Nat) : State :=
  { s with tlb := s.tlb.filter fun t => !(t.owner == owner && t.ctx == ctx && decide (t.base ≤ off) && decide (off < t.base + t.size)) }

/-- The supervisor's invalidate command (R320). It completes when no access that used the entry remains unperformed: an access uses
its translation in the step that performs it, but for the writes of an operation whose destinations have been checked. -/
def execTlbInvalidate (owner ctx off : Nat) (s : State) : Res :=
  if s.tlb.any fun t => t.owner == owner && t.ctx == ctx && decide (t.base ≤ off) && decide (off < t.base + t.size) &&
      s.owes owner ctx t.base (t.base + t.size) then .next s
  else .next (s.dropTlb owner ctx off)

/-! ### Verdicts: the driver on the Orangery writes them to the resolve queue, a supervisor interface (R326, R383) -/

/-- RETRY: the fault is closed, and every access that waited walks again. -/
def execVerdictRetry (fid : BitVec 32) (s : State) : Res :=
  .next (s.supervised [.harts] { s with faults := s.faults.filter fun f => !(f.fid == fid.toNat && !f.denied) })

/-- A FAULT record's payload with another TYPE. -/
def retype (payload : List Byte) (type : Nat) : List Byte :=
  let what := fieldAt payload 4 4
  putAt payload 4 (leOf 4 (what - what % 16 + type))

/-- DENY: the verdict is kept against its FID, where every access that waits meets it, and a record of TYPE 7 is written. -/
def State.denyFault (s : State) (f : FaultRec) : State :=
  State.errRecord { s with faults := s.faults.map fun x => if x.fid = f.fid then { x with denied := true } else x }
    f.ctx 0x0002 f.key (retype f.payload 7)

def execVerdictDeny (fid : BitVec 32) (s : State) : Res :=
  .next (s.supervised [.harts] (match s.faults.find? fun f => f.fid == fid.toNat && !f.denied with
    | some f => s.denyFault f
    | none => s))

/-- Destroying a context denies every fault it has outstanding. -/
def execContextDestroy (ctx : Nat) (s : State) : Res :=
  let s1 := (s.faults.filter fun f => f.ctx == ctx && !f.denied).foldl State.denyFault s
  .next (s1.setContext ctx { s1.context ctx with alive := false })

/-! ### Extent counters -/

/-- A counter that has reached its threshold appends a COUNTER entry and is 0 again. The entry's SRC names the die and the part of the
requester that brought it there (R330), which are those of the step. -/
def execExtentCounterAppend (owner ctx extent die part : Nat) (s : State) : Res :=
  let c := s.context ctx
  let n := (assoc c.counters (owner, extent)).getD (0, 0)
  let t := 2 ^ c.extT
  if c.extT = 0 ∨ n.1 < t ∨ n.2 ≠ 4 * die + 64 * part then .next s
  else
    let s1 := s.setContext ctx { c with counters := assocPut c.counters (owner, extent) (0, 0) }
    .next (s1.extentAppend ctx (s.globalOf owner (extent * 2 ^ 21)) t 0 (2 + n.2))

/-! ### Migration -/

/-- Sets MIG on the leaf and invalidates its entry. -/
def execMigrationStart (owner ctx off newPa : Nat) (s : State) : Res :=
  match s.leafOf owner ctx off with
  | some (lv, a, e) =>
    let z := leafSize lv
    if bitOf e 11 ∨ newPa % z ≠ 0 ∨ (owner ≠ 8 ∧ 2 ^ 37 ≤ newPa) then .next s
    else .next (State.dropTlb
      { s with hbm := s.hbm.writeN a (leOf 8 (e + 2 ^ 11)), migrations := ⟨owner, ctx, off - off % z, z, a, newPa⟩ :: s.migrations }
      owner ctx off)
  | none => .next s

def State.migration? (s : State) (owner ctx off : Nat) : Option Migration :=
  s.migrations.find? fun m => m.owner == owner && m.ctx == ctx && decide (m.off ≤ off) && decide (off < m.off + m.size)

def State.endMigration (s : State) (m : Migration) : State := { s with migrations := s.migrations.filter (· != m) }

/-- The entry at the migration's leaf, while it is still the leaf with MIG. -/
def State.migLeaf (s : State) (m : Migration) : Option Nat :=
  match s.leafOf m.owner m.ctx m.off with
  | some (_, a, e) => if a = m.leaf ∧ bitOf e 11 then some e else none
  | none => none

/-- The copy is done: the leaf takes the new frame with MIG = 0. A poisoned source is never committed (R332). A confidential
page's new frames belong to the context as the old ones did (R362). -/
def execMigrationCommit (owner ctx off : Nat) (s : State) : Res :=
  match s.migration? owner ctx off with
  | none => .next s
  | some m =>
    match s.migLeaf m with
    | none => .next s
    | some e =>
      let old := placeOf owner (fieldOf e 16 36 * 65536)
      let new := placeOf owner m.newPa
      if s.poisonedLoc old m.size then .next s
      else
        let s1 := s.writeLoc new (s.readLoc old m.size)
        let n := e - fieldOf e 16 36 * 2 ^ 16 + m.newPa / 65536 * 2 ^ 16 - 2 ^ 11
        let frames := if bitOf e 10
          then (List.range (m.size / 65536)).foldl (fun f i => assocPut f (owner, m.newPa / 65536 + i) ctx) s1.frames else s1.frames
        .next ((State.dropTlb { s1 with hbm := s1.hbm.writeN m.leaf (leOf 8 n), frames := frames } owner ctx off).endMigration m)

/-- The copy has met a fault on a table word, or poison: MIG is cleared and a record of TYPE 5 or 6 is written (R332). The
migration's request id is a free value: the spec does not say where it comes from. -/
def execMigrationAbort (owner ctx off : Nat) (poison : Bool) (s : State) : Res :=
  match s.migration? owner ctx off with
  | none => .next s
  | some m =>
    let e := s.hbm.nat m.leaf 8
    let bad := match s.migLeaf m with
      | some e => poison && s.poisonedLoc (placeOf owner (fieldOf e 16 36 * 65536)) m.size
      | none => !poison
    if !bad then .next s
    else
      let f := s.takeFree
      let s1 := if bitOf e 0 && bitOf e 1 && bitOf e 11 then { f.2 with hbm := f.2.hbm.writeN m.leaf (leOf 8 (e - 2 ^ 11)) } else f.2
      let s2 := (s1.dropTlb owner ctx off).endMigration m
      .next (s2.faultRecord ctx (s.globalOf owner m.off) (if poison then 6 else 5) 0
        ⟨0, whoWord 0 0 0 .A 7, Config.freeResult f.1, AccKind.migCopy.code⟩ .other []).2

/-! ### A part leaves the domain (R369) -/

/-- A gang has accesses under way to a part. -/
def Gang.trafficTo (G : Gang) (part : Nat) : Bool :=
  let here (a : Nat) : Bool := partOf a == part
  let waits (o : Option PcSlot) : Bool := o.any fun S => match S.wait with
    | .waitc _ a _ _ _ _ _ => here a
    | .store _ _ _ lanes => lanes.any fun l => here l.2.1
    | _ => false
  G.loads.any (fun l => l.lanes.any fun e => here e.2) || G.atoms.any (fun o => o.lanes.any fun e => here e.addr) ||
    G.sbuf.any (fun l => here (64 * l.line)) || waits G.a || waits G.b

/-- An operation under way has a global address on a part, or a stream there. -/
def EngOp.reaches (o : EngOp) (part : Nat) : Bool :=
  let gm (sp a : Nat) : Bool := sp == 0 && partOf a == part
  o.phase != .finished &&
    (if o.kind.isCopy then gm o.ssp o.src || gm o.dsp o.dst
     else if o.kind.isGath then gm (fieldOf o.gCtl 0 3) o.src || gm (fieldOf o.gCtl 3 3) o.dst
     else if o.kind.isColl then gm (fieldOf o.cCtl 0 3) o.src || gm (fieldOf o.cCtl 3 3) o.dst
     else match o.kind with
       | .evpost => partOf (capRing o.desc) == part
       | .evwm => partOf (capRing o.desc) == part
       | .svcall => false
       | .cpydec => gm 0 o.src || gm 0 o.dst
       | .cpyenc => gm 0 o.src || gm 0 o.dst
       | _ => partOf o.record == part)

/-- A chime on its way to a target of a part. -/
def ChimeReq.reaches (c : ChimeReq) (part : Nat) : Bool :=
  match c.what with
  | .ring t _ _ => t.toNat / 2 ^ 28 == part
  | _ => false

/-- The contexts with traffic to a part: accesses, engine operations and chimes under way, or a group with a rank there. -/
def State.trafficCtxs (s : State) (part : Nat) : List Nat :=
  let busy (G : Gang) : Bool :=
    G.trafficTo part || (G.engCp ++ G.engGs ++ G.engCl ++ G.engEv).any (fun o => o.reaches part) || G.chimes.any fun c => c.reaches part
  ((s.plots.filterMap fun q => if (s.gangsOf q.1).any busy then some q.2.ctx else none) ++
    (s.groups.filter fun g => g.ranks.any fun r => r.1 == part).map (·.ctx)).eraseDups

/-- The part is absent from now on: its accesses are denied where they are next performed, the pending collectives of its groups end
with ABORT, and each context with traffic to it receives a record of TYPE 7. Whether a link fault has brought it about, which the
routing table's source reports (R355), is a free value. -/
def execPartLeavesDomain (part : Nat) (s : State) : Res :=
  if part = s.partno ∨ !s.domain.contains part then .next s
  else
    let cs := s.trafficCtxs part
    let f := s.takeFree
    let s1 := if (Config.freeResult f.1).toNat % 2 = 0 then f.2 else f.2.raiseSource .linkFault
    let hs := (s.groups.filter fun g => g.ranks.any fun r => r.1 == part).map (·.handle)
    .next (cs.foldl (fun s c => (s.faultRecord c (part * 2 ^ 52) 7 0 ⟨0, whoWord 0 0 0 .A 7, 0, 0⟩ .other []).2)
      ({ s1 with domain := s1.domain.filter (· != part) }.abortGroups hs))

end Sys2Proof.Machine
end

