-- ==== Sys2Proof/Machine/Host.lean ====
section
/-! DEFINITION. Machine/Host.lean: doorbells (R307), apertures and the PCI Express ports (R357 to R359), trusted device
interfaces and key slots (R360 to R363), the load-store domain and the requests of its other parts (R173, R367, R368). -/

namespace Sys2Proof.Machine

/-! ### Functions of the ports (R357, R358, R361) -/

/-- A function that the part has: on port 0 the physical one and 64 virtual ones, on port 1 the physical one. -/
def fnValid (f : BusFn) : Bool :=
  if f.port = 0 then f.vf.all fun v => decide (v < 64) else f.port == 1 && f.vf.isNone

/-- The same requester. -/
def fnSame (f g : BusFn) : Bool := f.port == g.port && f.vf == g.vf

/-- The master class of a function (R383). -/
def fnMaster (f : BusFn) : Master := if f.vf.isSome then .port0vf else if f.port = 0 then .port0pf else .port1

/-- The device interface of a virtual function, and the context that it is bound to (R360). -/
def State.fnFace (s : State) (f : BusFn) : Option Interface := f.vf.bind s.vfs.find
def State.fnCtx (s : State) (f : BusFn) : Option Nat := (s.fnFace f).map (·.ctx)

/-- A virtual function reaches only what is bound to its context (R358). -/
def State.fnReaches (s : State) (f : BusFn) (ctx : Nat) : Bool := f.vf.isNone || s.fnCtx f == some ctx

/-- In RUN a request must arrive under the function's IDE stream (R361). -/
def State.ideBad (s : State) (f : BusFn) : Bool :=
  (s.fnFace f).any fun i => i.tdisp == .run && (f.ide.isNone || f.ide != i.ide)

/-- A posted write of the same requester waits: what it sends later comes after it (R359). -/
def State.behind (s : State) (f : BusFn) : Bool := s.posted.any fun p => p.fn.any (fnSame f)

/-- A write that is dropped is counted in the port's error counter (R358). -/
def State.portError (s : State) (port : Nat) : State :=
  { s with portErrors := assocPut s.portErrors port ((assoc s.portErrors port).getD 0 + 1) }

/-- What a requester sends: nothing without such a function, dropped and counted outside its IDE stream, else it goes on. -/
def State.fromFn (s : State) (f : BusFn) (go : State) : State :=
  if !s.booted || !fnValid f then s
  else if s.ideBad f then { s with ideDropped := s.ideDropped + 1 }
  else go

/-! ### Notify and doorbell pages (R278, R307, R358, R359) -/

/-- A write to a doorbell page: a whole aligned 16 bytes with zero reserved bits rings under the page's sender id; any
other is counted. -/
def State.doorbellWrite (s : State) (page off : Nat) (b : List Byte) : State :=
  match s.doorbells.find page with
  | none => s
  | some (ctx, sid) =>
    if off % 16 ≠ 0 ∨ b.length ≠ 16 ∨ 64 ≤ fieldAt b 4 1 ∨ fieldAt b 5 3 ≠ 0 ∨ fieldAt b 12 4 ≠ 0 then
      { s with doorbellErrors := s.doorbellErrors + 1 }
    else if fieldAt b 0 4 / 2 ^ 28 = s.partno then
      (s.chime ctx (fieldAt b 0 4) (fieldAt b 4 1) (BitVec.ofNat 32 (fieldAt b 8 4)) sid).2
    else s

/-- A function's write to a page of a hub window that is bound to a context: the function must reach the context, and the hub's
table must let it write (R358, R383). -/
def State.hubPage (s : State) (f : BusFn) (ctx : Option Nat) (write : State) : State :=
  match ctx with
  | none => s
  | some c => if s.fnReaches f c && s.tableAllows targetHub (fnMaster f) .store then write else s.portError f.port

def State.notifyNow (s : State) (f : BusFn) (page off : Nat) (b : List Byte) : State :=
  s.hubPage f (s.notifyPages.find page) (s.notifyWrite page off b)

def State.doorbellNow (s : State) (f : BusFn) (page off : Nat) (b : List Byte) : State :=
  s.hubPage f ((s.doorbells.find page).map (·.1)) (s.doorbellWrite page off b)

/-- A notify or a doorbell acts once every posted write that its requester has sent before is performed (R359). -/
def State.pageWrite (s : State) (f : BusFn) (what : PostedReq) (now : State) : State :=
  s.fromFn f (if s.behind f then { s with posted := s.posted ++ [⟨some f, what⟩] } else now)

/-- A write at an offset of the notify window, whose pages are of 64 KiB. -/
def execNotify (f : BusFn) (off : Nat) (bytes : List Byte) (s : State) : Res :=
  .next (s.pageWrite f (.notify (off / 65536) (off % 65536) bytes) (s.notifyNow f (off / 65536) (off % 65536) bytes))

/-- A write at an offset of the doorbell window. -/
def execDoorbellWrite (f : BusFn) (off : Nat) (bytes : List Byte) (s : State) : Res :=
  .next (s.pageWrite f (.doorbell (off / 65536) (off % 65536) bytes) (s.doorbellNow f (off / 65536) (off % 65536) bytes))

/-! ### Bus requests: reads, writes and AtomicOps (R357) -/

def busKind (r : BusReq) : AccKind :=
  match r with
  | .read _ => .load
  | .write _ => .store
  | _ => .atomic

def busSize (r : BusReq) : Nat :=
  match r with
  | .read n => n
  | .write bs => bs.length
  | .fetchAdd n _ => n
  | .swap n _ => n
  | .cas n _ _ => n

/-- AtomicOps are aligned and of 4 or 8 bytes; no request crosses a 4 KiB boundary. -/
def busOk (off : Nat) (r : BusReq) : Bool :=
  let n := busSize r
  decide (off % 4096 + n ≤ 4096) && (busKind r != .atomic || ((n == 4 || n == 8) && off % n == 0))

/-- Performs a request at a place: the bytes that it answers, and the state after it. A CAS that compares unequal is performed at the word
too (R391). -/
def State.busAt (s : State) (l : Loc) (r : BusReq) : List Byte × State :=
  let old (n : Nat) : Nat := natOf (s.readLoc l n)
  let put (bs : List Byte) : State := (s.writeLoc l bs).fire l bs.length
  match r with
  | .read n => (s.readLoc l n, s)
  | .write bs => ([], put bs)
  | .fetchAdd n v => (s.readLoc l n, put (leOf n (old n + v.toNat)))
  | .swap n v => (s.readLoc l n, put (leOf n v.toNat))
  | .cas n c v => (s.readLoc l n, if old n = c.toNat % 2 ^ (8 * n) then put (leOf n v.toNat) else s.fire l n)

/-! ### Apertures (R358, R361) -/

/-- The configuration of an interface is frozen (R360). -/
def Interface.frozen (i : Interface) : Bool := i.tdisp == .locked || i.tdisp == .run

/-- The interfaces of a context whose configuration is frozen: they freeze the context's apertures and roots (R360). -/
def State.frozenOf (s : State) (ctx : Nat) : List Nat := (s.vfs.filter fun q => q.2.ctx == ctx && q.2.frozen).map (·.1)

/-- The gang that a TRAP record names where no trap has suspended the plot: its first gang that runs. -/
def State.firstGang (s : State) (p : Nat) : Option (Nat × Bool) :=
  ((s.gangsOf p).find? fun G => G.life == .running).map fun G => (G.idx, false)

/-- Every plot of a context is suspended (R347): one on a core halts and will be saved, one that is saved stays so, leaves admission
and has its TRAP record written now. -/
def State.suspendPlots (s : State) (ctx : Nat) : State :=
  let mine := fun p => ((s.plot? p).any fun P => P.ctx == ctx)
  let down (P : Plot) : Plot :=
    { P with place := if P.place = .resident then .halted else P.place, suspended := true, runnable := false, saving := none,
             trapper := P.trapper <|> s.firstGang P.id }
  let s1 := State.noteHead { s with
    plots := s.plots.map fun q => if q.2.ctx = ctx then (q.1, down q.2) else q
    backlog := s.backlog.filter fun b => match b.what with
      | .plot p => !mine p
      | .launch _ => true }
  (s.plots.filter fun q => q.2.ctx == ctx && q.2.place == .saved && !q.2.suspended).foldl (fun t q => t.trapRecord (down q.2)) s1

/-- A context without keys. -/
def State.eraseKeys (s : State) (ctx : Nat) : State := s.setContext ctx { s.context ctx with keys := List.replicate 8 none }

def State.setFace (s : State) (n : Nat) (i : Interface) : State := { s with vfs := s.vfs.put n i }

/-- An interface enters ERROR: its context's plots are suspended and its key slots erased (R360). -/
def State.tdispFail (s : State) (n : Nat) : State :=
  match s.vfs.find n with
  | some i => ((s.setFace n { i with tdisp := .error }).eraseKeys i.ctx).suspendPlots i.ctx
  | none => s

/-- Sets what a context's frozen interfaces freeze: a change is not made while one is frozen, and puts each of them in ERROR (R360). -/
def State.setFrozen (s : State) (ctx : Nat) (f : State → State) : State :=
  match s.frozenOf ctx with
  | [] => f s
  | ns => ns.foldl State.tdispFail s

/-- Sets the configuration of one interface: a change of a frozen one is not made and puts it in ERROR; in ERROR none is made (R360, log
81). -/
def State.setFunction (s : State) (n : Nat) (f : Interface → State) : State :=
  match s.vfs.find n with
  | none => s
  | some i => if i.frozen then s.tdispFail n else if i.tdisp = .error then s else f i

/-- Binds an aperture to a context and a 2 MiB-aligned global address, through the supervisor interface: neither its old context nor its
new one may be frozen. -/
def execApertureBind (n ctx addr : Nat) (s : State) : Res :=
  let bind (s : State) : State := s.setFrozen ctx fun s => { s with apertures := s.apertures.put n (ctx, addr) }
  .next (s.supervised [.port0pf, .harts, .governors]
    (if 524288 ≤ n ∨ addr % 2 ^ 21 ≠ 0 then s
     else match s.apertures.find n with
       | some a => s.setFrozen a.1 bind
       | none => bind s))

/-- A request that is not performed: a read or an AtomicOp completes with Unsupported Request, a write is dropped and
counted (R358). -/
def State.unsupported (s : State) (port : Nat) (r : BusReq) : State :=
  match busKind r with
  | .store => s.portError port
  | _ => { s with lastRead := [] }

/-- A request through an aperture, as an access of its context: false while it waits. The answer of a read or an AtomicOp is
`lastRead`. -/
def State.apertureNow (s : State) (f : BusFn) (off : Nat) (r : BusReq) : Bool × State :=
  match s.apertures.find (off / 2 ^ 21) with
  | none => (true, s.unsupported f.port r)
  | some (ctx, base) =>
    let addr := base + off % 2 ^ 21
    if !s.fnReaches f ctx || !busOk off r || (ownerOf addr == 8 && hubRange (offOf addr) != .host) then
      (true, s.unsupported f.port r)
    else match s.partAccess ctx addr (busKind r) (fnMaster f) (hubWho (busKind r)) .other [f.port, (f.vf.map (· + 1)).getD 0] with
      | (.wait, s) => (false, s)
      | (.denied, s) => (true, s.unsupported f.port r)
      | (.ok l, s) =>
        if busKind r ≠ .store ∧ s.poisonedLoc l (busSize r) then (true, s.unsupported f.port r)
        else
          let a := s.busAt l r
          match busKind r with
          | .store => (true, a.2)
          | _ => (true, { a.2 with lastRead := a.1 })

/-- A request to a BAR4 offset. A write that waits, or that comes behind one that does, is kept; a read or an AtomicOp that waits is
sent again, and does not pass its requester's posted writes (R359). -/
def execApertureAccess (vf ide : Option Nat) (port off : Nat) (r : BusReq) (s : State) : Res :=
  let f : BusFn := ⟨port, vf, ide⟩
  .next (s.fromFn f
    (match r with
     | .write bs =>
       let keep (s : State) : State := { s with posted := s.posted ++ [⟨some f, .aperture off bs⟩] }
       if s.behind f then keep s
       else match s.apertureNow f off r with
         | (true, s) => s
         | (false, s) => keep s
     | _ => if s.behind f then s else (s.apertureNow f off r).2))

/-- A held posted write is tried again, once nothing of its requester, or of the hub for its block, stands before it (R302, R359). -/
def State.postedTurn (s : State) (k : Nat) : State :=
  match s.posted[k]? with
  | none => s
  | some p =>
    let first := (s.posted.take k).all fun q => match p.fn, p.what, q.fn, q.what with
      | some f, _, some g, _ => !fnSame f g
      | none, .block c a _, none, .block d b _ => !(c == d && a == b)
      | _, _, _, _ => true
    let done (r : Bool × State) : State := if r.1 then { r.2 with posted := r.2.posted.eraseIdx k } else r.2
    if !first then s
    else match p.fn, p.what with
      | some f, .aperture off bs => done (s.apertureNow f off (.write bs))
      | some f, .notify page off bs => done (true, s.notifyNow f page off bs)
      | some f, .doorbell page off bs => done (true, s.doorbellNow f page off bs)
      | _, .block ctx addr bs =>
        match s.partAccess ctx addr .engWrite .escapement (hubWho .engWrite) .other [] with
        | (.ok l, s) => done (true, (s.writeLoc l bs).fire l bs.length)
        | (.wait, s) => s
        | (.denied, s) => done (true, s)
      | none, _ => done (true, s)

/-! ### Trusted device interfaces (R360, R361) -/

/-- A request that the governors pass to the security engine: it answers only once the firmware runs (R380), and its access table
must let them (R383). -/
def State.secured (s : State) (k : AccKind) (go : State) : State :=
  if !s.booted then s else if s.tableAllows targetSecurity .governors k then go else s.answered .denied

/-- A TDISP request to the interface of a virtual function, or its error response: `go` gives what a legal request does (R360). A
function that is bound to no context is no interface. -/
def State.tdisp (s : State) (n : Nat) (go : Interface → Option State) : State :=
  s.secured .store (match (s.vfs.find n).bind go with
    | some t => t.answered .ok
    | none => s.answered .tdispError)

/-- LOCK_INTERFACE is legal in CONFIG_UNLOCKED. -/
def execLockInterface (vf : Nat) (s : State) : Res :=
  .next (s.tdisp vf fun i => if i.tdisp = .unlocked then some (s.setFace vf { i with tdisp := .locked }) else none)

/-- START_INTERFACE is legal in CONFIG_LOCKED. -/
def execStartInterface (vf : Nat) (s : State) : Res :=
  .next (s.tdisp vf fun i => if i.tdisp = .locked then some (s.setFace vf { i with tdisp := .run }) else none)

/-- Memory without the bytes of a range. -/
def Memory.wipe (m : Memory) (a n : Nat) : Memory := m.filter fun c => !(decide (a ≤ c.1) && decide (c.1 < a + n))

/-- A store with a range at zero and sound. -/
def Store.wipe (t : Store) (a n : Nat) : Store :=
  ⟨t.mem.wipe a n, t.poison.filter fun w => !(decide (a ≤ 4 * w) && decide (4 * w + 4 ≤ a + n))⟩

/-- Wipes every confidential frame of a context. -/
def State.wipeFrames (s : State) (ctx : Nat) : State :=
  let mine := s.frames.filter fun f => f.2 == ctx && decide (f.1.1 < 4)
  { s with hbm := mine.foldl (fun t f => t.wipe (f.1.1 * 2 ^ 37 + f.1.2 * 65536) 65536) s.hbm }

/-- STOP_INTERFACE: from RUN or ERROR the context's key slots are erased and its frames wiped first. -/
def execStopInterface (vf : Nat) (s : State) : Res :=
  .next (s.tdisp vf fun i =>
    let t := s.setFace vf { i with tdisp := .unlocked }
    some (if i.tdisp = .run ∨ i.tdisp = .error then (t.eraseKeys i.ctx).wipeFrames i.ctx else t))

/-- A change to frozen configuration. -/
def execTdispError (vf : Nat) (s : State) : Res := .next (s.setFunction vf fun _ => s)

/-- Every interface that uses the stream enters ERROR. -/
def execIdeIntegrityFailure (ide : Nat) (s : State) : Res :=
  .next ((s.vfs.filter fun q => q.2.ide == some ide).foldl (fun s q => s.tdispFail q.1) s)

/-- A key-install message in RUN (R363). -/
def execKeyInstall (vf : Nat) (slot : BitVec 3) (key : BitVec 256) (salt : Word) (s : State) : Res :=
  .next (s.tdisp vf fun i =>
    let c := s.context i.ctx
    if c.conf ∧ i.tdisp = .run then
      some (s.setContext i.ctx { c with
        keys := c.keys.set slot.toNat (some ⟨key, salt, 0, 0, c.keyGen + 1⟩), keyGen := c.keyGen + 1 })
    else none)

/-! ### Peer links (R367, R368) -/

/-- A flit that fails its CRC is retried, and no flit is delivered twice: no access is changed. -/
def execFlitCrcRetry (_link : Nat) (s : State) : Res := .next s

/-- A peer part's access at this owner: its place, where it is performed. -/
def State.peerAt (s : State) (part ctx addr : Nat) (k : AccKind) (n : Nat) (f : State → Loc → State) : State :=
  if partOf addr ≠ s.partno then s
  else match s.partAccess ctx addr k .links (hubWho k) (.peer part) [part] with
    | (.ok l, s) => if k.writes && k != .atomic || !s.poisonedLoc l n then f s l else { s with lastRead := [] }
    | (.wait, s) => s
    | (.denied, s) => { s with lastRead := [] }

/-- A request of a peer part of the domain, performed at this owner in the order in which it was sent (R173, R307, R367, R368). A request
that meets a fault is sent again. What it answers is `lastRead`. -/
def State.peerTurn (s : State) (part : Nat) (q : PeerReq) : State :=
  if !s.booted || part == s.partno || !s.domain.contains part then s
  else match q with
    | .load ctx addr n engine =>
      s.peerAt part ctx addr (if engine then .engRead else .load) n fun s l => { s with lastRead := s.readLoc l n }
    | .store ctx addr bs engine =>
      s.peerAt part ctx addr (if engine then .engWrite else .store) bs.length fun s l => (s.writeLoc l bs).fire l bs.length
    | .atomic ctx addr fn c e =>
      s.peerAt part ctx addr .atomic fn.size fun s l =>
        let r := s.rmw l fn c e
        { r.2.fire l fn.size with lastRead := leOf fn.size r.1 }
    | .notify page off bs => if s.tableAllows targetHub .links .store then s.notifyWrite page off bs else s
    | .chime ctx tid vec p sid =>
      if tid / 2 ^ 28 = s.partno ∧ vec < 64 ∧ sid.toNat / 2 ^ 22 = 2 then
        let r := s.chime ctx tid vec p sid
        { r.2 with lastRead := leOf 1 r.1 }
      else s
    | .post cap ev =>
      if s.capHome cap = some true then
        match s.hubPostHere cap ev .links (hubWho .engWrite) [part] with
        | (.wait, s) => s
        | (.done c u e, s) => { s with lastRead := leOf 8 (c + 256 * u + 2 ^ 32 * e) }
      else s
    | .mark rec_ =>
      if s.capHome (bytesAt rec_ 0 32) = some true then
        match s.hubMark rec_ with
        | (.wait, s) => s
        | (.done c u e, s) => { s with lastRead := leOf 8 (c + 256 * u + 2 ^ 32 * e) }
      else s

/-- Firmware forms a domain of 1 to 16 parts and gives this part its number. -/
def execDomainForm (partno : BitVec 4) (parts : List Nat) (s : State) : Res :=
  if s.booted then
    .next { s with partno := partno.toNat, domain := (partno.toNat :: parts.filter fun p => decide (p < 16)).eraseDups }
  else .next s

end Sys2Proof.Machine
end

