-- ==== Sys2Proof/Machine/Hart.lean ====
section
/-! DEFINITION. Machine/Hart.lean: the Orangery harts (R364 to R366): their control and status registers, their exceptions and
interrupts, their address translation, their accesses to memory, and the posting extension. PRESUMED (log 20): the RISC-V
privileged architecture, which R364 names and does not describe. -/

namespace Sys2Proof.Machine

/-! ### Registers -/

/-- A hart as the firmware complex has booted it: in the hypervisor, HS-mode (R364), with skctx at its reset value (R365) and every
other register 0. -/
def Hart.fresh : Hart := ⟨0, Vector.replicate 32 0, Vector.replicate 32 0, 0, .hs, [], none⟩

/-- One of the 16 harts (R364). -/
def State.hart? (s : State) (h : Nat) : Option Hart := if h < 16 then some ((s.harts.find h).getD Hart.fresh) else none
def State.setHart (s : State) (h : Nat) (H : Hart) : State := { s with harts := s.harts.put h H }

/-- A register of a hart: x0 reads 0. -/
def Hart.reg (H : Hart) (n : BitVec 5) : Word64 := if n = 0 then 0 else H.x[n.toNat]

/-- Writes a register of a hart: x0 discards. -/
def Hart.setReg (H : Hart) (n : BitVec 5) (v : Word64) : Hart := if n = 0 then H else { H with x := H.x.set n.toNat v }

/-- The context that a hart's accesses carry. -/
def Hart.ctx (H : Hart) : Nat := H.skctx.toNat % 65536

/-- A control and status register as it is stored. -/
def Hart.raw (H : Hart) (n : Nat) : Word64 := (H.csrs.find n).getD 0
def Hart.putRaw (H : Hart) (n : Nat) (v : Word64) : Hart := { H with csrs := H.csrs.put n v }

/-- The bits of a mask taken from one word, the others from another. -/
def mixBits (mask : Nat) (new old : Word64) : Word64 := (old &&& ~~~ BitVec.ofNat 64 mask) ||| (new &&& BitVec.ofNat 64 mask)

def Hart.putBits (H : Hart) (n mask : Nat) (v : Word64) : Hart := H.putRaw n (mixBits mask v (H.raw n))

/-- The hart runs a guest (V = 1). -/
def Priv.virtual (p : Priv) : Bool := p == .vs || p == .vu

/-- The nominal mode: 0 U, 1 S, 3 M. -/
def Priv.nominal (p : Priv) : Nat :=
  match p with
  | .u => 0 | .vu => 0 | .hs => 1 | .vs => 1 | .m => 3

def privOf (nominal : Nat) (v : Bool) : Priv :=
  if nominal = 3 then .m else if nominal = 0 then (if v then .vu else .u) else if v then .vs else .hs

/-- The numbers of the registers that the machine itself uses. -/
def cMstatus : Nat := 0x300
def cMedeleg : Nat := 0x302
def cMideleg : Nat := 0x303
def cMie : Nat := 0x304
def cMtvec : Nat := 0x305
def cMepc : Nat := 0x341
def cMcause : Nat := 0x342
def cMtval : Nat := 0x343
def cMip : Nat := 0x344
def cStvec : Nat := 0x105
def cSepc : Nat := 0x141
def cScause : Nat := 0x142
def cStval : Nat := 0x143
def cSatp : Nat := 0x180
def cHstatus : Nat := 0x600
def cHedeleg : Nat := 0x602
def cHideleg : Nat := 0x603
def cHgatp : Nat := 0x680
def cVsstatus : Nat := 0x200
def cVstvec : Nat := 0x205
def cVsepc : Nat := 0x241
def cVscause : Nat := 0x242
def cVstval : Nat := 0x243
def cVsatp : Nat := 0x280
def cFcsr : Nat := 0x003

/-! ### Exceptions and interrupts -/

/-- RISC-V's exception codes. -/
def excIllegal : Nat := 2
def excBreakpoint : Nat := 3
def excLoadMisaligned : Nat := 4
def excVirtual : Nat := 22

/-- The access fault of a fetch, a load, or a store or atomic. -/
def excAccess (k : AccKind) : Nat :=
  match k with
  | .fetch => 1
  | .load => 5
  | _ => 7

/-- The misalignment of a load, or of a store or atomic. -/
def excMisaligned (k : AccKind) : Nat := if k = .load then 4 else 6

/-- The page fault, and the guest-page fault. -/
def excPage (k : AccKind) (guest : Bool) : Nat :=
  match k with
  | .fetch => if guest then 20 else 12
  | .load => if guest then 21 else 13
  | _ => if guest then 23 else 15

/-- An exception that reports an address. -/
def excAddress (cause : Nat) : Bool := cause != excIllegal && cause != excVirtual && !(decide (8 ≤ cause) && decide (cause ≤ 11))

/-- Where a trap vector sends a trap: in vectored mode an interrupt goes to its own entry. -/
def vectorOf (tvec : Word64) (intr : Bool) (cause : Nat) : Word64 :=
  (tvec &&& ~~~ 3) + (if tvec.getLsbD 0 && intr then BitVec.ofNat 64 (4 * cause) else 0)

/-- The cause register's value. -/
def causeOf (intr : Bool) (cause : Nat) : Word64 := BitVec.ofNat 64 (cause + if intr then 2 ^ 63 else 0)

/-- The entry in M-mode: mstatus takes MPP, MPV and GVA, and MPIE from MIE. -/
def Hart.enterM (H : Hart) (intr : Bool) (cause : Nat) (tval : Word64) (gva : Bool) : Hart :=
  let st := H.raw cMstatus
  let new := 2 ^ 11 * H.priv.nominal + (if H.priv.virtual then 2 ^ 39 else 0) + (if gva then 2 ^ 38 else 0) + (if st.getLsbD 3 then 2 ^ 7 else 0)
  let H1 := (H.putBits cMstatus 0xC000001888 (BitVec.ofNat 64 new)).putRaw cMcause (causeOf intr cause)
  { (((H1.putRaw cMepc H.pc).putRaw cMtval tval).putRaw 0x34B 0).putRaw 0x34A 0 with
    pc := vectorOf (H.raw cMtvec) intr cause, priv := .m }

/-- The entry in HS-mode: sstatus takes SPP, and SPIE from SIE; hstatus takes SPV and GVA, and SPVP from a guest. -/
def Hart.enterHS (H : Hart) (intr : Bool) (cause : Nat) (tval : Word64) (gva : Bool) : Hart :=
  let st := H.raw cMstatus
  let new := 2 ^ 8 * H.priv.nominal + (if st.getLsbD 1 then 2 ^ 5 else 0)
  let hn := (if gva then 2 ^ 6 else 0) + (if H.priv.virtual then 2 ^ 7 + 2 ^ 8 * H.priv.nominal else 0)
  let H1 := (H.putBits cMstatus 0x122 (BitVec.ofNat 64 new)).putBits cHstatus (if H.priv.virtual then 0x1C0 else 0xC0) (BitVec.ofNat 64 hn)
  { ((((H1.putRaw cScause (causeOf intr cause)).putRaw cSepc H.pc).putRaw cStval tval).putRaw 0x643 0).putRaw 0x64A 0 with
    pc := vectorOf (H.raw cStvec) intr cause, priv := .hs }

/-- The entry in VS-mode: a guest's own, in its vs registers. -/
def Hart.enterVS (H : Hart) (intr : Bool) (cause : Nat) (tval : Word64) : Hart :=
  let st := H.raw cVsstatus
  let new := 2 ^ 8 * H.priv.nominal + (if st.getLsbD 1 then 2 ^ 5 else 0)
  let c := if intr then cause - 1 else cause
  let H1 := H.putBits cVsstatus 0x122 (BitVec.ofNat 64 new)
  { ((H1.putRaw cVscause (causeOf intr c)).putRaw cVsepc H.pc).putRaw cVstval tval with
    pc := vectorOf (H.raw cVstvec) intr c, priv := .vs }

/-- The supervisor interrupts that M-mode delegates; those of a guest are delegated for good. -/
def Hart.mideleg (H : Hart) : Word64 := H.raw cMideleg ||| 0x1444

/-- A trap is taken in M-mode, or as it is delegated in HS-mode or VS-mode. -/
def Hart.trap (H : Hart) (intr : Bool) (cause : Nat) (tval : Word64) (gva : Bool) : Hart :=
  let deleg := if intr then H.mideleg.getLsbD cause else (H.raw cMedeleg).getLsbD cause
  let inner := if intr then (H.raw cHideleg).getLsbD cause else (H.raw cHedeleg).getLsbD cause
  if H.priv = .m ∨ !deleg then H.enterM intr cause tval gva
  else if H.priv.virtual ∧ inner then H.enterVS intr cause tval
  else H.enterHS intr cause tval gva

/-- A hart takes an exception. -/
def Hart.except (H : Hart) (cause : Nat) (tval : Word64) : Hart := H.trap false cause tval (H.priv.virtual && excAddress cause)

/-- The interrupts that are pending, enabled and may be taken in the present mode, by their order of priority. -/
def Hart.interrupt (H : Hart) : Option Nat :=
  let p := H.raw cMip &&& H.raw cMie
  let m := (H.raw cMstatus).getLsbD 3
  let takes (k : Nat) : Bool :=
    p.getLsbD k &&
      (if !H.mideleg.getLsbD k then H.priv != .m || m
       else if (H.raw cHideleg).getLsbD k then H.priv == .vu || (H.priv == .vs && (H.raw cVsstatus).getLsbD 1)
       else H.priv == .u || H.priv.virtual || (H.priv == .hs && (H.raw cMstatus).getLsbD 1))
  [11, 3, 7, 9, 1, 5, 12, 10, 2, 6].find? takes

/-! ### Address translation: Sv48 and Sv48x4 -/

/-- How a hart's access to memory may end. -/
inductive HartEnd where
  | wait
  | fault (cause : Nat)
  deriving DecidableEq, Repr

/-- What a page table must allow an access: its kind, a user page, a page that is executable too, and an instruction fetch's right for a
load (HLVX). -/
structure Rights where
  k    : AccKind
  user : Bool
  sum  : Bool
  mxr  : Bool
  x    : Bool

/-- The rights of a leaf: R is bit 1, W bit 2, X bit 3, U bit 4, A bit 6, D bit 7. A leaf without A, or without D for a write, faults. -/
def leafAllows (e : Nat) (r : Rights) : Bool :=
  (match r.k with
   | .fetch => bitOf e 3
   | .load => if r.x then bitOf e 3 else bitOf e 1 || (r.mxr && bitOf e 3)
   | _ => bitOf e 2 && bitOf e 7) && bitOf e 6 && (bitOf e 4 == r.user || (bitOf e 4 && r.sum && r.k != .fetch))

/-- The memory access of a hart at a global address, at its owner (R364): a place, or how it ends. -/
def State.hartAt (s : State) (h : Nat) (H : Hart) (a n : Nat) (k : AccKind) : Except HartEnd Loc × State :=
  match s.partAccess H.ctx a k .harts (hubWho k) .other [h] with
  | (.ok l, s) => (if k ≠ .store ∧ s.poisonedLoc l n then .error (.fault (excAccess k)) else .ok l, s)
  | (.wait, s) => (.error .wait, s)
  | (.denied, s) => (.error (.fault (excAccess k)), s)

/-- The leaf of an address of `top` index bits at level 3 in a table, read by `rd`, which gives the entry at a table address. -/
def hartWalk (rd : State → Nat → Except HartEnd Nat × State) (pf : HartEnd) (r : Rights) (va top : Nat) (s : State) (t : Nat) :
    Nat → Except HartEnd Nat × State
  | 0 => (.error pf, s)
  | lv + 1 =>
    let idx := va / 2 ^ (12 + 9 * lv) % 2 ^ (if lv = 3 then top else 9)
    match rd s (t + 8 * idx) with
    | (.error e, s) => (.error e, s)
    | (.ok e, s) =>
      let pa := fieldOf e 10 44 * 4096
      let z := 2 ^ (12 + 9 * lv)
      if !bitOf e 0 || (!bitOf e 1 && bitOf e 2) || 2 ^ 54 ≤ e then (.error pf, s)
      else if bitOf e 1 || bitOf e 3 then
        if leafAllows e r && pa % z == 0 then (.ok (pa + va % z), s) else (.error pf, s)
      else if bitOf e 4 || bitOf e 6 || bitOf e 7 then (.error pf, s)
      else hartWalk rd pf r va top s pa lv

/-- A table entry at a global address. -/
def State.hartEntry (h : Nat) (H : Hart) (k : AccKind) (s : State) (a : Nat) : Except HartEnd Nat × State :=
  match s.hartAt h H a 8 .load with
  | (.ok l, s) => (.ok (natOf (s.readLoc l 8)), s)
  | (.error .wait, s) => (.error .wait, s)
  | (.error (.fault _), s) => (.error (.fault (excAccess k)), s)

/-- MODE 9 of satp, vsatp and hgatp selects Sv48 or Sv48x4; MODE 0, and any other, no translation. -/
def atpOn (v : Word64) : Bool := v.toNat / 2 ^ 60 == 9
def atpRoot (v : Word64) : Nat := v.toNat % 2 ^ 44 * 4096

/-- The second stage of a guest's address (Sv48x4), for an access `k` that needs the rights `r`: a table is read, whatever the access. -/
def State.guestAt (h : Nat) (H : Hart) (k : AccKind) (r : Rights) (s : State) (a : Nat) : Except HartEnd Nat × State :=
  if !atpOn (H.raw cHgatp) then (.ok a, s)
  else if 2 ^ 50 ≤ a then (.error (.fault (excPage k true)), s)
  else hartWalk (State.hartEntry h H k) (.fault (excPage k true)) r a 11 s (atpRoot (H.raw cHgatp)) 4

/-- A virtual address of 48 significant bits. -/
def canonical (va : Word64) : Bool := ((va.setWidth 48).signExtend 64) == va

/-- The first stage (Sv48). -/
def stageOne (rd : State → Nat → Except HartEnd Nat × State) (r : Rights) (atp va : Word64) (s : State) : Except HartEnd Nat × State :=
  if !atpOn atp then (.ok va.toNat, s)
  else if !canonical va then (.error (.fault (excPage r.k false)), s)
  else hartWalk rd (.fault (excPage r.k false)) r va.toNat 9 s (atpRoot atp) 4

/-- The global address of an access in a mode (R364); `x` asks for the right to execute. SUM and MXR are those of mstatus, and in a guest
those of vsstatus, where mstatus.MXR counts for both stages. -/
def State.hartVa (s : State) (h : Nat) (H : Hart) (p : Priv) (va : Word64) (k : AccKind) (x : Bool := false) : Except HartEnd Nat × State :=
  let ms := H.raw cMstatus
  let vs := H.raw cVsstatus
  let host (user : Bool) : Except HartEnd Nat × State :=
    stageOne (State.hartEntry h H k) ⟨k, user, ms.getLsbD 18, ms.getLsbD 19, x⟩ (H.raw cSatp) va s
  let guest (user : Bool) : Except HartEnd Nat × State :=
    let rd (s : State) (a : Nat) : Except HartEnd Nat × State :=
      match State.guestAt h H k ⟨.load, true, false, false, false⟩ s a with
      | (.ok b, s) => State.hartEntry h H k s b
      | r => r
    match stageOne rd ⟨k, user, vs.getLsbD 18, vs.getLsbD 19 || ms.getLsbD 19, x⟩ (H.raw cVsatp) va s with
    | (.ok a, s) => State.guestAt h H k ⟨k, true, false, ms.getLsbD 19, x⟩ s a
    | r => r
  match p with
  | .m => (.ok va.toNat, s)
  | .hs => host false
  | .u => host true
  | .vs => guest false
  | .vu => guest true

/-- The mode of a hart's loads, stores and atomics: with mstatus.MPRV in M-mode, the one that MPP and MPV name. -/
def Hart.dataMode (H : Hart) : Priv :=
  let st := H.raw cMstatus
  if H.priv = .m ∧ st.getLsbD 17 then privOf (st.toNat / 2 ^ 11 % 4) (st.getLsbD 39) else H.priv

/-- A hart's access at a virtual address: a place, or how it ends. -/
def State.hartMem (s : State) (h : Nat) (H : Hart) (p : Priv) (va : Word64) (n : Nat) (k : AccKind) : Except HartEnd Loc × State :=
  match s.hartVa h H p va k with
  | (.ok a, s) => s.hartAt h H a n k
  | (.error e, s) => (.error e, s)

/-- The hart waits, or takes the exception of its access. -/
def State.hartEnds (s : State) (h : Nat) (H : Hart) (va : Word64) : HartEnd → State
  | .wait => s
  | .fault c => s.setHart h (H.except c va)

/-! ### Loads, stores and atomics (R364) -/

/-- Where a hart's access goes: to memory, or to a hub window. -/
inductive HartSpot where
  | mem (l : Loc)
  | page (a : Nat)

/-- An access of `n` bytes: none crosses a 4 KiB boundary, and an atomic is aligned. -/
def State.hartReach (s : State) (h : Nat) (H : Hart) (p : Priv) (va : Word64) (n : Nat) (k : AccKind) (x : Bool := false) :
    Except HartEnd HartSpot × State :=
  match s.hartVa h H p va k x with
  | (.error e, s) => (.error e, s)
  | (.ok a, s) =>
    if ownerOf a = 8 ∧ hubRange (offOf a) ≠ .host then (.ok (.page a), s)
    else if 4096 < a % 4096 + n ∨ (k = .atomic ∧ (n ≠ 4 ∧ n ≠ 8 ∨ a % n ≠ 0)) then (.error (.fault (excMisaligned k)), s)
    else match s.hartAt h H a n k with
      | (.ok l, s) => (.ok (.mem l), s)
      | (.error e, s) => (.error e, s)

/-- A hart's write to a notify or doorbell window: of this part's hub, or of a peer part's, which this state does not hold (R278, R307,
R367). Any other access to a hub window is refused. -/
def State.hartPage (s : State) (a : Nat) (r : BusReq) : Option State :=
  let page := offOf a % 2 ^ 32 / 65536
  if partOf a ≠ s.partno then (if s.domain.contains (partOf a) && busKind r == .store then some s else none)
  else if !s.tableAllows targetHub .harts .store then none
  else match r, hubRange (offOf a) with
    | .write bs, .notify => some (s.notifyWrite page (offOf a % 65536) bs)
    | .write bs, .doorbell => some (s.doorbellWrite page (offOf a % 65536) bs)
    | _, _ => none

/-- A hart's access: the bytes that it returns, or how it ends. -/
def State.hartDo (s : State) (h : Nat) (H : Hart) (p : Priv) (va : Word64) (r : BusReq) (x : Bool := false) :
    Except HartEnd (List Byte) × State :=
  match s.hartReach h H p va (busSize r) (busKind r) x with
  | (.error e, s) => (.error e, s)
  | (.ok (.page a), s) =>
    match s.hartPage a r with
    | some s => (.ok [], s)
    | none => (.error (.fault (excAccess (busKind r))), s)
  | (.ok (.mem l), s) => (.ok (s.busAt l r).1, (s.busAt l r).2)

/-- A hart's load, store or atomic, translated by its own MMU and then by the owner (R364). The value that a load or an atomic returns is
`lastRead`. -/
def execOrangeryMemoryAccess (h : Nat) (addr : Word64) (r : BusReq) (s : State) : Res :=
  match s.hart? h with
  | none => .next s
  | some H =>
    match s.hartDo h H H.dataMode addr r with
    | (.error e, s) => .next (s.hartEnds h H addr e)
    | (.ok bs, s) => .next (if busKind r = .store then s else { s with lastRead := bs })

/-! ### skctx and the posting extension (R365, R366) -/

/-- A write of skctx: HS-mode only; bits 62 to 16 read 0 (R365). -/
def Hart.setSkctx (H : Hart) (v : Word64) : Hart := { H with skctx := v &&& 0x800000000000FFFF }

def execSkctxWrite (h : Nat) (v : Word64) (s : State) : Res :=
  match s.hart? h with
  | none => .next s
  | some H =>
    if H.priv = .hs then .next (s.setHart h { H.setSkctx v with pc := H.pc + 4 })
    else .next (s.setHart h (H.except excIllegal 0))

/-- Reads a record of 32-byte pieces as a hart's loads: its bytes, or how the access at an address ends. -/
def State.readRecord (s : State) (h : Nat) (H : Hart) (va : Word64) : Nat → Except (HartEnd × Word64) (List Byte) × State
  | 0 => (.ok [], s)
  | n + 1 =>
    match s.hartMem h H H.dataMode va 32 .load with
    | (.ok l, s) =>
      match s.readRecord h H (va + 32) n with
      | (.ok bs, s1) => (.ok (s.readLoc l 32 ++ bs), s1)
      | e => e
    | (.error e, s) => (.error (e, va), s)

/-- A posting word of a hart: its record, and the step at the hub under its context. -/
def hartPost (d a : BitVec 5) (size align_ : Nat) (hub : Nat → Hart → State → List Byte → HubEnd × State) (s : State) : Res :=
  match s.cur with
  | .hart h =>
    match s.hart? h with
    | none => .refused .noIssuer
    | some H =>
      let addr := H.reg a
      if H.skctx.getLsbD 63 = false then .next (s.setHart h (H.except excIllegal 0))
      else if addr.toNat % align_ ≠ 0 then .next (s.setHart h (H.except excLoadMisaligned addr))
      else
        match s.readRecord h H addr (size / 32) with
        | (.error (e, va), s) => .next (s.hartEnds h H va e)
        | (.ok b, s) =>
          match hub h H s b with
          | (.wait, s) => .next s
          | (.done c u e, s) =>
            .next (s.setHart h { H.setReg d (BitVec.ofNat 64 (c + 256 * u + 2 ^ 32 * e)) with pc := H.pc + 4 })
  | _ => .refused .noIssuer

/-- sk.evpost (R366): a 96-byte record on a 32-byte boundary. -/
def execSkEvpost (d a : BitVec 5) (s : State) : Res :=
  hartPost d a 96 32 (fun h H s b => s.hubPost (bytesAt b 0 32) (bytesAt b 32 64) .harts (hubWho .engWrite) [h] (some H.ctx)) s

/-- sk.evwm (R366): a 64-byte record on a 64-byte boundary. -/
def execSkEvwm (d a : BitVec 5) (s : State) : Res := hartPost d a 64 64 (fun _ _ s b => s.hubMark b) s

end Sys2Proof.Machine
end

