-- ==== Sys2Proof/Machine/Clocks.lean ====
section
/-! DEFINITION. Machine/Clocks.lean: performance classes and grants (R370 to R374), the draw accumulator (R375), heat and
thermal migration (R376), and the supervisor's settings. -/

namespace Sys2Proof.Machine

/-! ### Classes (R371, R374) -/

/-- The ceiling of R371 for a context on a cluster. -/
def State.ceiling (s : State) (ctx cluster : Nat) : Nat :=
  let x := s.cluster cluster
  min (min (((assoc (s.context ctx).ceilings cluster)).getD (min (Config.freeCeiling (32 * ctx + cluster)).toNat 2)) x.grant) x.therm

/-- The plots resident in a cluster. -/
def State.inCluster (s : State) (cluster : Nat) : List Plot :=
  (s.plots.map (·.2)).filter fun P => P.core / 12 == cluster && P.place != .saved

/-- The class of R371. Where plots of several contexts are resident, each request is bounded by its own context's ceiling. -/
def State.classOf (s : State) (cluster : Nat) : Nat :=
  ((s.inCluster cluster).map fun P => min P.req (s.ceiling P.ctx cluster)).foldl max 0

/-- The highest request of a cluster. -/
def State.requestOf (s : State) (cluster : Nat) : Nat := ((s.inCluster cluster).map (·.req)).foldl max 0

def execPerfclass (d : SReg) (n : BitVec 2) (s : State) : Res :=
  s.issue [] [d.toNat] fun x =>
    let c := s.ceiling x.P.ctx (x.P.core / 12)
    (s.setPlot { x.P with req := n.toNat }).done x (x.G.ws d (BitVec.ofNat 64 c)) 8

/-- The word of PERFQ (R374). -/
def State.perfWord (s : State) (P : Plot) : Word64 :=
  let x := s.clusterNow (P.core / 12)
  BitVec.ofNat 64 (x.cls + 4 * P.req + 16 * s.ceiling P.ctx (P.core / 12) + 64 * x.therm + (if x.hold then 256 else 0) +
    (if x.pairing then 512 else 0) + 2 ^ 16 * min x.temp 255)

def execPerfq (d : SReg) (s : State) : Res := s.issue [] [d.toNat] fun x => s.done x (x.G.ws d (s.perfWord x.P)) 8

/-- The lane arrays and the special-function queues of a cluster are empty. -/
def State.lanesEmpty (s : State) (cluster : Nat) : Bool :=
  decide ((s.cluster cluster).lanesTill ≤ s.ticks) && (List.range 12).all fun k => (s.core (12 * cluster + k)).sfq.isEmpty

/-- A change of class (R372): the cluster issues no vector and no sequencer word until its lane arrays and queues are empty, then it
switches and issues again. -/
def execClassChange (cluster : Nat) (s : State) : Res :=
  let x := s.cluster cluster
  let c := s.classOf cluster
  .next (if 32 ≤ cluster then s
    else if c ≠ x.cls ∧ !s.lanesEmpty cluster then s.setCluster cluster { x with pausing := true }
    else s.setCluster cluster { x with cls := c, pausing := false })

/-! ### Current grants (R371) -/

/-- Clusters that request class 2, by their draw over the last period and then by number. -/
def insertDraw (s : State) (c : Nat) : List Nat → List Nat
  | [] => [c]
  | x :: xs => if (s.cluster c).drawn < (s.cluster x).drawn then c :: x :: xs else x :: insertDraw s c xs

def State.byDraw (s : State) : List Nat :=
  ((List.range 32).filter fun c => s.requestOf c == 2).foldl (fun l c => insertDraw s c l) []

/-- Every cluster runs under full matrix load: a matrix word is under way on each (R12, R371). -/
def State.matrixLoad (s : State) : Bool :=
  (List.range 32).all fun c => (s.inCluster c).any fun P => P.place == .resident && P.stream.mat.isSome

/-- Firmware grants class 2 to as many requesters as the module's budget allows, at most 8 under full matrix load, 1 to the rest, and
2 where no class above 1 is requested. A new period begins. -/
def execCurrentGrantEval (budget : Nat) (s : State) : Res :=
  let first := s.byDraw.take (if s.matrixLoad then min budget 8 else budget)
  .next ((List.range 32).foldl (fun t c =>
    t.setCluster c { t.cluster c with grant := if s.requestOf c = 2 ∧ !first.contains c then 1 else 2, drawn := 0 }) s)

/-! ### The draw accumulator (R375) -/

/-- The window moves on to the present cycle: charges older than 32 cycles have fallen out, pairing and the hold have begun or
ended. A monitor may sample A (R388). -/
def execDrawAccumulatorWindow (cluster : Nat) (s : State) : Res :=
  let x := s.clusterNow cluster
  .next (if cluster < 32 then (s.setCluster cluster x).sample (12 * cluster) 7 x.draw else s)

/-! ### Heat (R376) -/

/-- The resident plot with the highest request, the most recently admitted on a tie. -/
def hottestPlot : List Plot → Option Plot
  | [] => none
  | P :: Ps =>
    match hottestPlot Ps with
    | some Q => if P.req < Q.req ∨ (P.req = Q.req ∧ P.order < Q.order) then some Q else some P
    | none => some P

/-- The coolest of some clusters, the lowest number on a tie. -/
def coolest (s : State) : List Nat → Option Nat
  | [] => none
  | c :: cs =>
    match coolest s cs with
    | some d => if (s.cluster d).temp < (s.cluster c).temp then some d else some c
    | none => some c

/-- 10 ms in cycles of 10/11 ns. -/
def moveGap : Nat := 11000000

/-- Firmware moves a plot out of a cluster above its threshold: a pre-emption save, then admission to the target only. -/
def State.migrateHot (s : State) (cluster : Nat) : State :=
  let t := (s.cluster cluster).temp
  match hottestPlot ((s.inCluster cluster).filter fun P => P.place == .resident) with
  | none => s
  | some P =>
    if P.lastMove.any fun m => decide (s.ticks < m + moveGap) then s
    else
      let ok := ((s.context P.ctx).clusters.mergeSort).filter fun c =>
        c != cluster && decide ((s.cluster c).temp < (s.cluster c).limit) && decide ((s.cluster c).temp + 6 ≤ t)
      match coolest s ok with
      | none => s
      | some c => s.setPlot { P with place := .halted, runnable := true, moveTo := some c, lastMove := some s.ticks }

/-! ### Thermal trips (R354, R387) -/

/-- The trips of a cluster, in °C (R387). -/
def softTripAt : Nat := 105
def hardTripAt : Nat := 115

/-- One of the 32 clusters stands at or above a temperature. -/
def State.hotAt (s : State) (t : Nat) : Bool := s.clusters.any fun q => decide (q.1 < 32) && decide (t ≤ q.2.temp)

/-- The soft trip: the thermal source is raised and every core halts, for an emergency save of each plot whose save has not begun. -/
def State.softTrip (s : State) : State :=
  let s1 := s.raiseSource .thermal
  { s1 with plots := s1.plots.map fun q =>
      if q.2.away then q else (q.1, { q.2 with place := .halted, emergency := true, runnable := false }) }

/-- The hard trip: the thermal source is raised and the module cuts power. -/
def State.hardTrip (s : State) : State := { s.raiseSource .thermal with power := false }

def execSoftTrip (s : State) : Res := .next (if s.hotAt softTripAt then s.softTrip else s)
def execHardTrip (s : State) : Res := .next (if s.hotAt hardTripAt then s.hardTrip else s)

/-- A cluster's millisecond report: it trips, or firmware may move a plot. -/
def execTemperatureReport (cluster temp : Nat) (s : State) : Res :=
  let s1 := s.setCluster cluster { s.cluster cluster with temp := temp }
  .next (if 32 ≤ cluster then s
    else if hardTripAt ≤ temp then s1.hardTrip
    else if softTripAt ≤ temp then s1.softTrip
    else if (s.cluster cluster).limit < temp then s1.migrateHot cluster else s1)

/-- The 10 ms step: with every cluster above its threshold each thermal ceiling drops one step; otherwise each cluster at
least 6 °C below its threshold rises one step. -/
def execThermalCeilingStep (s : State) : Res :=
  let hot := (List.range 32).all fun c => decide ((s.cluster c).limit < (s.cluster c).temp)
  .next ((List.range 32).foldl (fun t c =>
    let x := t.cluster c
    let up := decide (x.temp + 6 ≤ x.limit)
    t.setCluster c { x with therm := if hot then x.therm - 1 else if up then min (x.therm + 1) 2 else x.therm }) s)

/-! ### SUPERVISOR_REGISTER_WRITE -/

/-- The writer may write the supervisor interface: on a port only port 0's physical function has it (R357), and the interface's access
table must let the master write (R383). -/
def State.supWrites (s : State) (by_ : SupBy) : Bool :=
  match by_ with
  | .host f => fnValid f && f.port == 0 && f.vf.isNone && s.tableAllows targetSupervisor .port0pf .store
  | .orangery => s.tableAllows targetSupervisor .harts .store
  | .governor => s.tableAllows targetSupervisor .governors .store

/-- The writer may make the setting: the governors alone write the access tables (R383). -/
def State.supAllows (s : State) (w : SupWrite) : Bool :=
  match w.setting with
  | .access .. => w.by_ == .governor
  | _ => s.supWrites w.by_

/-- Binds a virtual function of port 0 to a context. The binding is the function's configuration: an interface that has one already keeps
it while it is frozen or in ERROR. -/
def State.bindVf (s : State) (n ctx : Nat) : State :=
  if 64 ≤ n then s
  else if (s.vfs.find n).isNone then s.setFace n ⟨ctx, .unlocked, none⟩
  else s.setFunction n fun i => s.setFace n { i with ctx := ctx }

/-- What a setting of the supervisor does; a value outside the range that its rule gives changes nothing. -/
def State.setting (s : State) (w : Setting) : State :=
  match w with
  | .root ctx owner pa => s.setFrozen ctx fun s => { s with roots := assocPut s.roots (ctx, owner) pa }
  | .clusterSet ctx cs => s.setContext ctx { s.context ctx with clusters := cs.filter fun c => decide (c < 32) }
  | .ceiling ctx cluster c =>
    let x := s.context ctx
    s.setContext ctx { x with ceilings := assocPut x.ceilings cluster (min c 2) }
  | .budget cluster q => if cluster < 32 then s.setCluster cluster (Cluster.judge { s.clusterNow cluster with budget := q }) else s
  | .threshold cluster t => if cluster < 32 then s.setCluster cluster { s.cluster cluster with limit := t } else s
  | .extentThreshold ctx t =>
    if t = 0 ∨ (8 ≤ t ∧ t ≤ 24) then s.setContext ctx { s.context ctx with extT := t, counters := [] } else s
  | .extentList ctx addr n => if 6 ≤ n ∧ n ≤ 16 then s.setContext ctx { s.context ctx with extAddr := addr, extN := n } else s
  | .saveArea ctx addr => if addr % 64 = 0 then s.setContext ctx { s.context ctx with saveArea := addr } else s
  | .emergencyArea ctx addr => s.setContext ctx { s.context ctx with emergency := addr, emergencyEnd := addr }
  | .notifyPage page ctx => if page < 65536 then { s with notifyPages := s.notifyPages.put page ctx } else s
  | .doorbellPage page ctx sid => if page < 65536 then { s with doorbells := s.doorbells.put page (ctx, sid) } else s
  | .access target master bits => { s with fw := { s.fw with access := assocPut s.fw.access (target, master) bits } }
  | .confidential ctx b => s.setFrozen ctx fun s => s.setContext ctx { s.context ctx with conf := b }
  | .vf n ctx => s.bindVf n ctx
  | .ide vf stream => if stream < 8 then s.setFunction vf fun i => s.setFace vf { i with ide := some stream } else s
  | .frame owner num ctx => { s with frames := assocPut s.frames (owner, num) ctx }
  | .group ctx handle ranks =>
    { s with groups := ⟨ctx, handle, ranks, ranks.map fun _ => 0⟩ :: s.groups.filter fun g => g.handle != handle }

/-- A write to the supervisor interface: it answers only while the firmware runs (R380); one that the tables refuse is denied. -/
def execSupervisorRegisterWrite (w : SupWrite) (s : State) : Res :=
  .next (if !s.booted then s else if s.supAllows w then (s.setting w.setting).answered .ok else s.answered .denied)

/-- A suspended plot that is saved is runnable again. What the runtime has edited in its record takes effect when it is restored. -/
def State.resumePlot (s : State) (p : Nat) : State :=
  match s.plot? p with
  | some P =>
    if P.place = .saved ∧ P.suspended then (s.setPlot { P with suspended := false, trapper := none }).makeRunnable p else s
  | none => s

/-- The runtime resumes a suspended plot through the supervisor interface (R347). -/
def execSuspendedPlotResume (p : Nat) (by_ : SupBy) (s : State) : Res :=
  .next (if !s.booted then s else if s.supWrites by_ then (s.resumePlot p).answered .ok else s.answered .denied)

end Sys2Proof.Machine
end

