-- ==== Sys2Proof/Machine/Curve.lean ====
section
/-! DEFINITION. Machine/Curve.lean: ECDSA on brainpoolP384r1 over SHA-384, which firmware images (R379) and reports (R384) are signed
with. The curve's numbers are those of RFC 5639. -/

namespace Sys2Proof.Machine

/-- The field's prime, the curve's coefficients, the base point and its order (RFC 5639). -/
def bpP : Nat := 0x8CB91E82A3386D280F5D6F7E50E641DF152F7109ED5456B412B1DA197FB71123ACD3A729901D1A71874700133107EC53
def bpA : Nat := 0x7BC382C63D8C150C3C72080ACE05AFA0C2BEA28E4FB22787139165EFBA91F90F8AA5814A503AD4EB04A8C7DD22CE2826
def bpB : Nat := 0x04A8C7DD22CE28268B39B55416F0447C2FB77DE107DCD2A62E880EA53EEB62D57CB4390295DBC9943AB78696FA504C11
def bpX : Nat := 0x1D1C64F068CF45FFA2A63A81B7C13F6B8847A3E77EF14FE3DB7FCAFE0CBD10E8E826E03436D646AAEF87B2E247D4AF1E
def bpY : Nat := 0x8ABE1D7520F9C2A45CB1EB8E95CFD55262B70B29FEEC5864E19C054FF99129280E4646217791811142820341263C5315
def bpN : Nat := 0x8CB91E82A3386D280F5D6F7E50E641DF152F7109ED5456B31F166E6CAC0425A7CF3AB6AF6B7FC3103B883202E9046565

/-- b to the power e, mod m; `fuel` bounds the bits of e. -/
def powMod (m : Nat) : Nat → Nat → Nat → Nat
  | 0, _, _ => 1
  | fuel + 1, b, e =>
    let h := powMod m fuel (b * b % m) (e / 2)
    if e % 2 = 1 then h * b % m else h

/-- The inverse modulo a prime of 384 bits. -/
def invMod (m a : Nat) : Nat := powMod m 384 (a % m) (m - 2)

/-- A point of the curve; none is the point at infinity. -/
abbrev Point := Option (Nat × Nat)

/-- a - b mod p. -/
def subP (a b : Nat) : Nat := (a + bpP - b % bpP) % bpP

/-- The third point of a line with a slope, reflected. -/
def chord (l : Nat) (P Q : Nat × Nat) : Point :=
  let x := subP (subP (l * l) P.1) Q.1
  some (x, subP (l * subP P.1 x) P.2)

def pointAdd : Point → Point → Point
  | none, Q => Q
  | P, none => P
  | some P, some Q =>
    if P.1 = Q.1 then
      if (P.2 + Q.2) % bpP = 0 then none
      else chord ((3 * P.1 * P.1 + bpA) * invMod bpP (2 * P.2) % bpP) P Q
    else chord (subP Q.2 P.2 * invMod bpP (subP Q.1 P.1) % bpP) P Q

/-- k times a point; `fuel` bounds the bits of k. -/
def pointMul : Nat → Nat → Point → Point
  | 0, _, _ => none
  | fuel + 1, k, P =>
    let h := pointMul fuel (k / 2) (pointAdd P P)
    if k % 2 = 1 then pointAdd h P else h

/-- The point is on the curve. -/
def onCurve (P : Nat × Nat) : Bool :=
  decide (P.1 < bpP) && decide (P.2 < bpP) && P.2 * P.2 % bpP == (P.1 * P.1 * P.1 + bpA * P.1 + bpB) % bpP

/-- The value of bytes, highest first. -/
def natBE (bs : List Byte) : Nat := natOf bs.reverse

/-- ECDSA verification under a public key of a signature of 96 bytes, r then s, big-endian, over SHA-384 of a message. -/
def ecdsaOk (key : Nat × Nat) (msg sig : List Byte) : Bool :=
  let r := natBE (bytesAt sig 0 48)
  let s := natBE (bytesAt sig 48 48)
  let w := invMod bpN s
  let u := natBE (sha384 msg) * w % bpN
  let v := r * w % bpN
  onCurve key && decide (0 < r) && decide (r < bpN) && decide (0 < s) && decide (s < bpN) &&
    (pointAdd (pointMul 384 u (some (bpX, bpY))) (pointMul 384 v (some key))).any fun P => P.1 % bpN == r

/-- A signature under a private key, with its one-time number. -/
def ecdsaSign (key once : Nat) (msg : List Byte) : List Byte :=
  let r := ((pointMul 384 once (some (bpX, bpY))).map (·.1 % bpN)).getD 0
  let s := invMod bpN once * (natBE (sha384 msg) + r * key) % bpN
  (leOf 48 r).reverse ++ (leOf 48 s).reverse

end Sys2Proof.Machine
end

