-- ==== Sys2Proof/Decode.lean ====
section
/-! DEFINITION. Decode.lean: instruction words to instructions and back (R37 to R55, and the encoding tables of each
range). A gang word is cut into the fields of R38 and R41 (`Raw`), checked in the order of R43 against what its opcode
allows (`Desc`), and built into an `Instr`; a word that fails is rejected with R345's reason. -/

namespace Sys2Proof

/-- The fields of a gang word (R38): bits [63:46] and [127:64] are kept whole and cut by the format. -/
structure Raw where
  len  : Len
  op   : BitVec 9
  pred : BitVec 3
  pinv : Bool
  ha   : Bool
  hb   : Bool
  hc   : Bool
  mod  : BitVec 4
  d    : BitVec 8
  a    : BitVec 8
  b    : BitVec 8
  hi   : BitVec 18
  ext  : BitVec 64
  deriving DecidableEq, Repr

/-- The length code (R37). -/
def Len.code : Len → BitVec 2
  | .w64 => 0 | .w96 => 1 | .w128 => 2

/-- The word of a set of fields: R38's layout, highest field first. -/
def Raw.pack (r : Raw) : BitVec 128 :=
  r.ext ++ r.hi ++ r.b ++ r.a ++ r.d ++ r.mod ++ BitVec.ofBool r.hc ++ BitVec.ofBool r.hb ++ BitVec.ofBool r.ha ++
    BitVec.ofBool r.pinv ++ r.pred ++ r.op ++ r.len.code

/-- The fields of a word of a known length (R38). -/
def Raw.ofBits (len : Len) (w : BitVec 128) : Raw where
  len := len
  op := w.extractLsb' 2 9
  pred := w.extractLsb' 11 3
  pinv := w.getLsbD 14
  ha := w.getLsbD 15
  hb := w.getLsbD 16
  hc := w.getLsbD 17
  mod := w.extractLsb' 18 4
  d := w.extractLsb' 22 8
  a := w.extractLsb' 30 8
  b := w.extractLsb' 38 8
  hi := w.extractLsb' 46 18
  ext := w.extractLsb' 64 64

/-- Slot C of the G formats (R41). -/
def Raw.c (r : Raw) : BitVec 8 := r.hi.extractLsb' 0 8
/-- E of the G formats. -/
def Raw.e (r : Raw) : BitVec 10 := r.hi.extractLsb' 8 10
/-- K of G96 and M96. -/
def Raw.k32 (r : Raw) : BitVec 32 := r.ext.extractLsb' 0 32
/-- K of I64. -/
def Raw.k26 (r : Raw) : BitVec 26 := r.hi ++ r.b
/-- K of I96. -/
def Raw.k58 (r : Raw) : BitVec 58 := r.ext.extractLsb' 0 32 ++ (r.hi ++ r.b)
/-- SC of the M formats. -/
def Raw.sc (r : Raw) : BitVec 2 := r.hi.extractLsb' 0 2
/-- IX of the M formats. -/
def Raw.ix (r : Raw) : BitVec 2 := r.hi.extractLsb' 2 2
/-- K of M64. -/
def Raw.k14 (r : Raw) : BitVec 14 := r.hi.extractLsb' 4 14
/-- Slot C of MA96. -/
def Raw.mc (r : Raw) : BitVec 8 := r.hi.extractLsb' 4 8
/-- Slot F of MA96. -/
def Raw.f (r : Raw) : BitVec 8 := r.ext.extractLsb' 0 8
/-- K of MA96. -/
def Raw.k24 (r : Raw) : BitVec 24 := r.ext.extractLsb' 8 24
/-- MOD[3], which selects the immediate form (R40). -/
def Raw.imm (r : Raw) : Bool := r.mod.getLsbD 3

def Raw.guard (r : Raw) : Guard := ⟨r.pred, r.pinv⟩

/-- The rounding mode in MOD[1:0] (R40). -/
def RM.ofBits (m : BitVec 2) : RM :=
  if m = 0 then .rn else if m = 1 then .rz else if m = 2 then .ru else .rd

def RM.bits : RM → BitVec 2
  | .rn => 0 | .rz => 1 | .ru => 2 | .rd => 3

def Width.ofBits (m : BitVec 2) : Width :=
  if m = 0 then .w4 else if m = 1 then .x64 else if m = 2 then .x8 else .x16

def Width.bits : Width → BitVec 2
  | .w4 => 0 | .x64 => 1 | .x8 => 2 | .x16 => 3

def Space.ofBits (m : BitVec 2) : Space :=
  if m = 0 then .l1 else if m = 1 then .l2 else if m = 2 then .l3 else .gm

def Space.bits : Space → BitVec 2
  | .l1 => 0 | .l2 => 1 | .l3 => 2 | .gm => 3

def AtOrd.ofBits (m : BitVec 2) : AtOrd :=
  if m = 0 then .rlx else if m = 1 then .acq else if m = 2 then .rel else .ar

def AtOrd.bits : AtOrd → BitVec 2
  | .rlx => 0 | .acq => 1 | .rel => 2 | .ar => 3

/-- A scalar, predicate, tile or dial number in its 8-bit slot (R39). -/
def slot8 {n : Nat} (r : BitVec n) : BitVec 8 := r.setWidth 8

/-! ### Operands from the fields -/

def Raw.aReg (r : Raw) : HReg := ⟨r.a, r.ha⟩
def Raw.bReg (r : Raw) : HReg := ⟨r.b, r.hb⟩
def Raw.cReg (r : Raw) : HReg := ⟨r.c, r.hc⟩
def Raw.rm (r : Raw) : RM := RM.ofBits (r.mod.extractLsb' 0 2)

def Raw.vsrc (r : Raw) : VSrc :=
  if r.imm then (if r.len = .w64 then .e10 r.e else .k32 r.k32) else .reg r.bReg

def Raw.ssrc (r : Raw) : SSrc :=
  if r.imm then (if r.len = .w64 then .e10 r.e else .k32 r.k32) else .reg (r.b.setWidth 6)

def Raw.vbin (r : Raw) : VBin := ⟨r.guard, r.d, r.aReg, r.vsrc⟩
def Raw.vtri (r : Raw) : VTri := ⟨r.guard, r.d, r.aReg, r.vsrc, r.cReg⟩
def Raw.vun (r : Raw) : VUn := ⟨r.guard, r.d, r.aReg⟩
def Raw.v2 (r : Raw) : V2 := ⟨r.guard, r.d, r.aReg, r.bReg⟩
def Raw.v3 (r : Raw) : V3 := ⟨r.guard, r.d, r.aReg, r.bReg, r.cReg⟩
def Raw.vcmp (r : Raw) : VCmp := ⟨r.guard, r.d.setWidth 3, r.aReg, r.vsrc⟩
def Raw.vsel (r : Raw) : VSel := ⟨r.guard, r.d, r.aReg, r.bReg, r.c.setWidth 3⟩
def Raw.vscl (r : Raw) : VScl := ⟨r.guard, r.d, r.aReg, r.b.setWidth 6⟩
def Raw.sbin (r : Raw) : SBin := ⟨r.d.setWidth 6, r.a.setWidth 6, r.ssrc⟩
def Raw.movImm (r : Raw) : MovImm := if r.len = .w64 then .i26 r.k26 else .k32 r.k32
def Raw.smovImm (r : Raw) : SMovImm :=
  match r.len with
  | .w64 => .i26 r.k26 | .w96 => .i58 r.k58 | .w128 => .q64 r.ext
def Raw.waitc (r : Raw) : WaitcOps :=
  ⟨r.d.setWidth 6, r.a.setWidth 6, r.b.setWidth 6, if r.len = .w64 then .e10 r.e else .k32 r.k32⟩

def Raw.idx (r : Raw) : Idx :=
  if r.ix = 1 then .vec r.bReg else if r.ix = 2 then .scl (r.b.setWidth 6) else .none

def Raw.memRef (r : Raw) : MemRef :=
  ⟨r.a.setWidth 6, r.idx, r.sc, if r.len = .w64 then .k14 r.k14 else .k32 r.k32⟩

/-- Hold position a covers D in a store (R41). -/
def Raw.dReg (r : Raw) : HReg := ⟨r.d, r.ha⟩
def Raw.width (r : Raw) : Width := Width.ofBits (r.mod.extractLsb' 0 2)

def Raw.atOps (r : Raw) : AtOps :=
  ⟨r.guard, r.d, r.a.setWidth 6, r.idx, r.sc, ⟨r.mc, r.hc⟩, r.k24, Space.ofBits (r.mod.extractLsb' 0 2),
    AtOrd.ofBits (r.mod.extractLsb' 2 2)⟩

/-- Hold position a covers F in an atomic (R41). -/
def Raw.fReg (r : Raw) : HReg := ⟨r.f, r.ha⟩

def Raw.fenceSel (r : Raw) : FenceSel :=
  if r.e = 0 then .plot (r.a.setWidth 6) else if r.e = 1 then .cluster (r.a.setWidth 6) (r.b.setWidth 6) else .all

def Raw.chPayload (r : Raw) : ChPayload := if r.imm then .k32 r.k32 else .reg (r.b.setWidth 6)
def Raw.shapeSrc (r : Raw) : ShapeSrc := if r.imm then .k32 r.k32 else .reg (r.a.setWidth 6)

/-- The halves of a PAIR word (R47). -/
def half0 (w : BitVec 128) : Half :=
  ⟨w.extractLsb' 11 7, ⟨w.extractLsb' 18 3, w.getLsbD 21⟩, w.getLsbD 22, w.getLsbD 23, w.getLsbD 24,
    w.extractLsb' 25 2, w.extractLsb' 27 8, w.extractLsb' 35 8, w.extractLsb' 43 8, w.extractLsb' 51 8⟩

def half1 (w : BitVec 128) : Half :=
  ⟨w.extractLsb' 64 7, ⟨w.extractLsb' 71 3, w.getLsbD 74⟩, w.getLsbD 75, w.getLsbD 76, w.getLsbD 77,
    w.extractLsb' 78 2, w.extractLsb' 80 8, w.extractLsb' 88 8, w.extractLsb' 96 8, w.extractLsb' 104 8⟩

/-- The bits of a half, slot C highest. -/
def Half.pack (h : Half) : BitVec 48 :=
  h.c ++ h.b ++ h.a ++ h.d ++ h.m2 ++ BitVec.ofBool h.hc ++ BitVec.ofBool h.hb ++ BitVec.ofBool h.ha ++
    BitVec.ofBool h.g.inv ++ h.g.pred ++ h.mini

/-- The PAIR word of two halves (R47). -/
def packPair (h0 h1 : Half) : BitVec 128 :=
  (0 : BitVec 16) ++ h1.pack ++ (0 : BitVec 5) ++ h0.pack ++ (0x1FF : BitVec 9) ++ (2 : BitVec 2)

/-! ### The fields of operands -/

/-- No field but the opcode and the length. -/
def Raw.mk0 (len : Len) (op : BitVec 9) (mod : BitVec 4 := 0) : Raw :=
  ⟨len, op, 0, false, false, false, false, mod, 0, 0, 0, 0, 0⟩

def Raw.withG (r : Raw) (g : Guard) : Raw := { r with pred := g.pred, pinv := g.inv }
def Raw.withA (r : Raw) (x : HReg) : Raw := { r with a := x.n, ha := x.hold }
def Raw.withB (r : Raw) (x : HReg) : Raw := { r with b := x.n, hb := x.hold }
def Raw.withHi (r : Raw) (c : BitVec 8) (e : BitVec 10) : Raw := { r with hi := e ++ c }
def Raw.withD (r : Raw) (d : BitVec 8) : Raw := { r with d := d }
def Raw.withSA (r : Raw) (a : SReg) : Raw := { r with a := slot8 a }
def Raw.withSB (r : Raw) (b : SReg) : Raw := { r with b := slot8 b }

/-- Slot B or the immediate, slot C beside it. -/
def Raw.withVSrc (r : Raw) (b : VSrc) (c : BitVec 8) : Raw :=
  match b with
  | .reg x => (r.withB x).withHi c 0
  | .e10 e => { (r.withHi c e) with mod := r.mod ||| 8 }
  | .k32 k => { (r.withHi c 0) with len := .w96, mod := r.mod ||| 8, ext := k.setWidth 64 }

def Raw.withSSrc (r : Raw) (b : SSrc) : Raw :=
  match b with
  | .reg x => r.withSB x
  | .e10 e => { (r.withHi 0 e) with mod := r.mod ||| 8 }
  | .k32 k => { r with len := .w96, mod := r.mod ||| 8, ext := k.setWidth 64 }

def Raw.withVBin (r : Raw) (o : VBin) : Raw := (((r.withG o.g).withD o.d).withA o.a).withVSrc o.b 0
def Raw.withVTri (r : Raw) (o : VTri) : Raw := { ((((r.withG o.g).withD o.d).withA o.a).withVSrc o.b o.c.n) with hc := o.c.hold }
def Raw.withVUn (r : Raw) (o : VUn) : Raw := ((r.withG o.g).withD o.d).withA o.a
def Raw.withV2 (r : Raw) (o : V2) : Raw := (((r.withG o.g).withD o.d).withA o.a).withB o.b
def Raw.withV3 (r : Raw) (o : V3) : Raw :=
  { (((((r.withG o.g).withD o.d).withA o.a).withB o.b).withHi o.c.n 0) with hc := o.c.hold }
def Raw.withVCmp (r : Raw) (o : VCmp) : Raw := (((r.withG o.g).withD (slot8 o.d)).withA o.a).withVSrc o.b 0
def Raw.withVSel (r : Raw) (o : VSel) : Raw := ((((r.withG o.g).withD o.d).withA o.a).withB o.b).withHi (slot8 o.c) 0
def Raw.withVScl (r : Raw) (o : VScl) : Raw := (((r.withG o.g).withD o.d).withA o.a).withSB o.b
def Raw.withSBin (r : Raw) (o : SBin) : Raw := ((r.withD (slot8 o.d)).withSA o.a).withSSrc o.b

/-- K of I64 over slot B and the bits above it. -/
def Raw.withK26 (r : Raw) (k : BitVec 26) : Raw := { r with b := k.extractLsb' 0 8, hi := k.extractLsb' 8 18 }

def Raw.withMovImm (r : Raw) (i : MovImm) : Raw :=
  match i with
  | .i26 k => r.withK26 k
  | .k32 k => { r with len := .w96, ext := k.setWidth 64 }

def Raw.withSMovImm (r : Raw) (i : SMovImm) : Raw :=
  match i with
  | .i26 k => r.withK26 k
  | .i58 k => { (r.withK26 (k.extractLsb' 0 26)) with len := .w96, ext := (k.extractLsb' 26 32).setWidth 64 }
  | .q64 k => { r with len := .w128, ext := k }

def Raw.withWaitc (r : Raw) (o : WaitcOps) : Raw :=
  let r := ((r.withD (slot8 o.d)).withSA o.a).withSB o.b
  match o.off with
  | .e10 e => r.withHi 0 e
  | .k32 k => { r with len := .w96, ext := k.setWidth 64 }

/-- IX with slot B. -/
def Raw.withIdx (r : Raw) (i : Idx) : Raw × BitVec 2 :=
  match i with
  | .none => (r, 0)
  | .vec x => (r.withB x, 1)
  | .scl n => (r.withSB n, 2)

def Raw.withMem (r : Raw) (m : MemRef) : Raw :=
  let (r, ix) := (r.withSA m.a).withIdx m.idx
  match m.off with
  | .k14 k => { r with hi := k ++ ix ++ m.sc }
  | .k32 k => { r with len := .w96, hi := (0 : BitVec 14) ++ ix ++ m.sc, ext := k.setWidth 64 }

def Raw.withAt (r : Raw) (o : AtOps) : Raw :=
  let (r, ix) := (((r.withG o.g).withD o.d).withSA o.a).withIdx o.idx
  { r with
    len := .w96, mod := o.ord.bits ++ o.space.bits, hc := o.c.hold, hi := (0 : BitVec 6) ++ o.c.n ++ ix ++ o.sc,
    ext := ((o.k ++ (0 : BitVec 8)) : BitVec 32).setWidth 64 }

def Raw.withF (r : Raw) (f : HReg) : Raw := { r with ha := f.hold, ext := r.ext ||| f.n.setWidth 64 }

def Raw.withFence (r : Raw) (m : FenceSel) : Raw :=
  match m with
  | .plot a => r.withSA a
  | .cluster a b => ((r.withSA a).withSB b).withHi 0 1
  | .all => r.withHi 0 2

def Raw.withChPayload (r : Raw) (b : ChPayload) : Raw :=
  match b with
  | .reg x => r.withSB x
  | .k32 k => { r with len := .w96, mod := 8, ext := k.setWidth 64 }

def Raw.withShape (r : Raw) (b : ShapeSrc) : Raw :=
  match b with
  | .reg x => r.withSA x
  | .k32 k => { r with len := .w96, mod := 8, ext := k.setWidth 64 }

/-! ### What an opcode allows (the encoding tables of each range) -/

/-- What a slot holds: nothing (reserved), or a register of a kind (R39); `any` where no kind is given, so that no check reads it. -/
inductive SlotK where
  | res | v | pr | s | p | t | dl | any
  deriving DecidableEq, Repr

/-- The operand-area layouts of R41. -/
inductive Fmt where
  | z | g | i | m | ma | pair
  deriving DecidableEq, Repr

/-- What the word's opcode, at its length and with its modifier, uses of each field. -/
structure Desc where
  fmt   : Fmt
  d     : SlotK := .res
  a     : SlotK := .res
  b     : SlotK := .res
  c     : SlotK := .res
  f     : SlotK := .res
  /-- The predicate field is assigned. -/
  pred  : Bool := false
  /-- The MOD bits that are assigned, and whether their value is allowed. -/
  mod   : BitVec 4 := 0
  modOk : Bool := true
  /-- The bits of E that are assigned (G formats). -/
  e     : BitVec 10 := 0
  /-- K above bit 63 is an operand. -/
  k     : Bool := false
  hA    : Bool := false
  hB    : Bool := false
  hC    : Bool := false
  ixOk  : Bool := true
  /-- The word's own checks on encoded fields (R43). -/
  valOk : Bool := true
  deriving DecidableEq, Repr

def SlotK.free : SlotK → BitVec 8 → Bool
  | .res, x => x == 0
  | _, _ => true

/-- R39's rule for a slot of a kind. -/
def SlotK.ok : SlotK → BitVec 8 → Bool
  | .res, _ => true
  | .v, x => decide (x.toNat < 192)
  | .pr, x => decide (x.toNat < 192)
  | .s, x => decide (x.toNat < 64)
  | .p, x => decide (x.toNat < 8)
  | .t, x => decide (x.toNat < 16)
  | .dl, x => decide (x.toNat < 4)
  | .any, _ => true

/-- A register pair named by 191 is a value its instruction forbids (R130). -/
def SlotK.pairOk : SlotK → BitVec 8 → Bool
  | .pr, x => x != 191
  | _, _ => true

/-- Every reserved field is 0 (R43, reason 0x05). -/
def Desc.reservedOk (t : Desc) (r : Raw) : Bool :=
  (t.pred || (r.pred == 0 && !r.pinv)) && ((r.mod &&& ~~~t.mod) == 0) && t.d.free r.d && t.a.free r.a &&
  match t.fmt with
  | .z => r.b == 0 && r.hi == 0 && r.ext == 0
  | .g => t.b.free r.b && t.c.free r.c && ((r.e &&& ~~~t.e) == 0) && (t.k || r.ext == 0)
  | .i => t.k || r.ext == 0
  | .m => t.b.free r.b && (r.len == .w64 || r.k14 == 0)
  | .ma => t.b.free r.b && (r.hi.extractLsb' 12 6 == 0) && t.f.free r.f
  | .pair => true

/-- Every used slot holds a register number of its kind (reason 0x07). -/
def Desc.slotsOk (t : Desc) (r : Raw) : Bool :=
  t.d.ok r.d && t.a.ok r.a &&
  match t.fmt with
  | .g => t.b.ok r.b && t.c.ok r.c
  | .m => t.b.ok r.b
  | .ma => t.b.ok r.b && t.c.ok r.mc && t.f.ok r.f
  | _ => true

/-- Hold bits stand only where R41 allows them (reason 0x08). -/
def Desc.holdsOk (t : Desc) (r : Raw) : Bool :=
  (t.hA || !r.ha) && (t.hB || !r.hb) && (t.hC || !r.hc)

def Desc.valuesOk (t : Desc) (r : Raw) : Bool :=
  t.valOk && t.d.pairOk r.d && t.a.pairOk r.a &&
  match t.fmt with
  | .g => t.b.pairOk r.b && t.c.pairOk r.c
  | .ma => t.c.pairOk r.mc && t.f.pairOk r.f
  | _ => true

/-- The field checks of R43 in their order: R345's reason of the first that fails. -/
def Desc.check (t : Desc) (r : Raw) : Option Nat :=
  if !t.reservedOk r then some 5
  else if !t.modOk then some 6
  else if !t.slotsOk r then some 7
  else if !t.holdsOk r then some 8
  else if !t.ixOk then some 9
  else if !t.valuesOk r then some 11
  else none

/-- Formats at 64 bits only. -/
def at64 (r : Raw) (t : Desc) : Option Desc := if r.len = .w64 then some t else none

/-- G64 and G96 with MOD[3] = 1 selecting an immediate in place of slot B (R40): E in G64, K in G96. -/
def immB (r : Raw) (kind : SlotK) (t : Desc) : Option Desc :=
  if r.len = .w128 then none
  else if r.imm then
    some { t with fmt := .g, mod := t.mod ||| 8, b := .res, e := if r.len = .w64 then 0x3FF else 0,
                  k := r.len == .w96, hB := false }
  else some { t with fmt := .g, mod := t.mod ||| 8, b := kind, hB := kind == .v, modOk := t.modOk && r.len == .w64 }

/-- An operand of the M formats: slot B by IX (R41). The LDU forms read no vector register, and their Hold is none (R155, R177):
hold bit b of one is set in error, whatever IX. -/
def memDesc (r : Raw) (d : SlotK) (store uni : Bool) : Option Desc :=
  if r.len = .w128 then none
  else
    let wide := r.mod.extractLsb' 0 2 == 1
    some { fmt := .m, d := if wide && d == .v then .pr else d, a := .s,
           b := if r.ix = 0 then .res else if r.ix = 1 then .v else if r.ix = 2 then .s else .t,
           pred := !uni, mod := 3, k := true, hA := store && !wide, hB := r.ix == 1 && !uni,
           ixOk := r.ix != 3, valOk := !(uni && r.ix == 1) }

/-- An atomic (R158): `pair` for the 64-bit forms, `cas` when slot F is used. -/
def atDesc (r : Raw) (pair cas : Bool) : Option Desc :=
  if r.len = .w96 then
    let k := if pair then SlotK.pr else .v
    some { fmt := .ma, d := k, a := .s, b := if r.ix = 0 then .res else if r.ix = 1 then .v else if r.ix = 2 then .s else .t,
           c := k, f := if cas then k else .res, pred := true, mod := 15,
           modOk := r.mod.extractLsb' 2 2 == 0 || r.mod.extractLsb' 0 2 == 3,
           hA := cas && !pair, hB := r.ix == 1, hC := !pair, ixOk := r.ix != 3 }
  else none

/-- The selectors that R91 lists. -/
def selectorOk (e : BitVec 10) : Bool :=
  let n := e.toNat
  decide (n ≤ 10) || (decide (0x10 ≤ n) && decide (n ≤ 0x17)) || (decide (0x20 ≤ n) && decide (n ≤ 0x23)) ||
    (decide (0x30 ≤ n) && decide (n ≤ 0x33))

/-- The counts that R107 allows: a multiple of 8 from 8 to 184. -/
def countOk (e : BitVec 10) : Bool := decide (e.toNat % 8 = 0) && decide (8 ≤ e.toNat) && decide (e.toNat ≤ 184)

/-- Slot B in an M or MA word with IX = 0b11: the spec gives it no kind there, so no check reads it and the word fails on IX itself,
reason 0x09 (DESIGN CHOICE, log entry 100). -/
def Desc.skipB (r : Raw) (t : Desc) : Desc := if r.ix = 3 then { t with b := .any } else t

/-! ### Pairable operations (R48) -/

/-- A pairable operation: its sources, whether it has a rounding modifier, and whether it is of the conversion or
special-function class. -/
structure MiniInfo where
  srcs  : Nat
  round : Bool
  conv  : Bool
  deriving DecidableEq, Repr

def miniInfo (m : BitVec 7) : Option MiniInfo :=
  match m.toNat with
  | 0x01 => some ⟨2, false, false⟩ | 0x02 => some ⟨2, false, false⟩ | 0x03 => some ⟨2, false, false⟩
  | 0x04 => some ⟨3, false, false⟩ | 0x05 => some ⟨2, false, false⟩ | 0x06 => some ⟨2, false, false⟩
  | 0x07 => some ⟨2, false, false⟩ | 0x08 => some ⟨2, false, false⟩ | 0x09 => some ⟨1, false, false⟩
  | 0x0A => some ⟨1, false, false⟩ | 0x0B => some ⟨2, false, false⟩ | 0x0C => some ⟨2, false, false⟩
  | 0x0D => some ⟨2, false, false⟩ | 0x0E => some ⟨1, false, false⟩ | 0x0F => some ⟨2, false, false⟩
  | 0x10 => some ⟨2, false, false⟩ | 0x11 => some ⟨2, false, false⟩ | 0x12 => some ⟨2, false, false⟩
  | 0x13 => some ⟨1, false, false⟩ | 0x14 => some ⟨1, false, false⟩ | 0x15 => some ⟨1, false, false⟩
  | 0x16 => some ⟨2, false, false⟩ | 0x17 => some ⟨2, false, false⟩ | 0x18 => some ⟨2, false, false⟩
  | 0x19 => some ⟨3, false, false⟩ | 0x1A => some ⟨3, false, false⟩
  | 0x20 => some ⟨2, true, false⟩ | 0x21 => some ⟨2, true, false⟩ | 0x22 => some ⟨2, true, false⟩
  | 0x23 => some ⟨3, true, false⟩ | 0x24 => some ⟨3, true, false⟩ | 0x25 => some ⟨2, false, false⟩
  | 0x26 => some ⟨2, false, false⟩ | 0x27 => some ⟨1, false, false⟩ | 0x28 => some ⟨1, false, false⟩
  | 0x29 => some ⟨1, false, false⟩ | 0x2A => some ⟨2, true, false⟩ | 0x2B => some ⟨2, true, false⟩
  | 0x2C => some ⟨3, true, false⟩ | 0x2D => some ⟨3, true, false⟩ | 0x2E => some ⟨3, true, false⟩
  | 0x2F => some ⟨3, true, false⟩
  | 0x40 => some ⟨1, true, true⟩ | 0x41 => some ⟨1, true, true⟩ | 0x42 => some ⟨1, true, true⟩
  | 0x43 => some ⟨1, true, true⟩ | 0x44 => some ⟨2, true, true⟩ | 0x45 => some ⟨1, false, true⟩
  | 0x46 => some ⟨2, true, true⟩ | 0x47 => some ⟨1, false, true⟩
  | 0x50 => some ⟨1, false, true⟩ | 0x51 => some ⟨1, false, true⟩ | 0x52 => some ⟨1, false, true⟩
  | 0x53 => some ⟨1, false, true⟩ | 0x54 => some ⟨1, false, true⟩ | 0x55 => some ⟨1, false, true⟩
  | 0x56 => some ⟨1, false, true⟩ | 0x57 => some ⟨1, false, true⟩ | 0x58 => some ⟨1, false, true⟩
  | _ => none

/-- R43's checks on one half: `extra` is whether its reserved bits of R47 are 0. -/
def Half.check (h : Half) (extra : Bool) : Option Nat :=
  match miniInfo h.mini with
  | none => some 4
  | some i =>
    if !(extra && (i.round || h.m2 == 0) && (decide (2 ≤ i.srcs) || h.b == 0) && (decide (3 ≤ i.srcs) || h.c == 0)) then some 5
    else if !(SlotK.v.ok h.d && SlotK.v.ok h.a && (decide (i.srcs < 2) || SlotK.v.ok h.b) && (decide (i.srcs < 3) || SlotK.v.ok h.c)) then some 7
    else if (decide (i.srcs < 2) && h.hb) || (decide (i.srcs < 3) && h.hc) then some 8
    else none

/-- The vector registers that a half reads. -/
def Half.sources (h : Half) : List (BitVec 8) :=
  match miniInfo h.mini with
  | some ⟨1, _, _⟩ => [h.a]
  | some ⟨2, _, _⟩ => [h.a, h.b]
  | some _ => [h.a, h.b, h.c]
  | none => []

/-- R49: independence, banks and class. -/
def pairOk (h0 h1 : Half) : Bool :=
  let u := (h0.sources ++ h1.sources).eraseDups
  !(h1.sources.contains h0.d) && h0.d != h1.d && !(h0.sources.contains h1.d) &&
    (u.map (fun v => v.toNat % 6)).eraseDups.length == u.length &&
    !(((miniInfo h0.mini).map (·.conv)).getD false && ((miniInfo h1.mini).map (·.conv)).getD false)

/-- Why a word is not an instruction: R345's reason, and the half of a PAIR word that carries it. -/
structure DecErr where
  reason : Nat
  half   : Bool
  deriving DecidableEq, Repr

/-- The PAIR checks: half 0, then half 1, then R49 (R50). -/
def checkPair (w : BitVec 128) : Option DecErr :=
  match (half0 w).check (w.extractLsb' 59 5 == 0) with
  | some n => some ⟨n, false⟩
  | none =>
    match (half1 w).check (w.extractLsb' 112 16 == 0) with
    | some n => some ⟨n, true⟩
    | none => if pairOk (half0 w) (half1 w) then none else some ⟨10, false⟩


/-- The opcode map (R52) with each instruction's encoding table: what the opcode allows at the word's length. FENCE.R with mode 3, a
value that it forbids: the spec does not say whether slots A and B are used then; they are checked as scalar registers, so
that reason 0x07 comes before 0x0B (DESIGN CHOICE, log entry 100). -/
def Raw.desc (r : Raw) : Option Desc :=
  match r.op.toNat with
  | 0x000 => some { fmt := .z, pred := true }
  | 0x001 => at64 r { fmt := .i }
  | 0x002 => at64 r { fmt := .i, pred := true }
  | 0x003 => at64 r { fmt := .i, pred := true }
  | 0x004 => at64 r { fmt := .i, pred := true }
  | 0x005 => at64 r { fmt := .i, a := .s }
  | 0x006 => at64 r { fmt := .i, a := .s }
  | 0x007 => at64 r { fmt := .g, a := .s }
  | 0x008 => at64 r { fmt := .i, d := .s }
  | 0x009 => at64 r { fmt := .g, d := .s, a := .s }
  | 0x00A => at64 r { fmt := .g, a := .s }
  | 0x00B => at64 r { fmt := .z }
  | 0x00C => at64 r { fmt := .z, pred := true }
  | 0x00D => at64 r { fmt := .g, a := .s, e := 0x3FF, pred := true }
  | 0x00E => at64 r { fmt := .g, a := .s, pred := true }
  | 0x00F => at64 r { fmt := .i }
  | 0x010 => if r.len = .w128 then none else some { fmt := .g, d := .s, a := .s, b := .s, e := if r.len = .w64 then 0x3FF else 0, k := r.len == .w96 }
  | 0x011 => if r.len = .w128 then none else some { fmt := .g, d := .s, a := .s, b := .s, e := if r.len = .w64 then 0x3FF else 0, k := r.len == .w96 }
  | 0x012 => if r.len = .w128 then none else some { fmt := .g, d := .s, a := .s, b := .s, e := if r.len = .w64 then 0x3FF else 0, k := r.len == .w96 }
  | 0x013 => at64 r { fmt := .g, e := 0x3F }
  | 0x014 => at64 r { fmt := .g, e := 0x3F }
  | 0x015 => at64 r { fmt := .g, e := 0x3F }
  | 0x016 => at64 r { fmt := .g, e := 0x3F }
  | 0x017 => at64 r { fmt := .g, d := .s, a := .s, e := 0x3F }
  | 0x018 => at64 r { fmt := .g, d := .s, a := .s, e := 0x3F }
  | 0x019 => at64 r { fmt := .g, d := .s, a := .s, e := 0x3F }
  | 0x01A => at64 r { fmt := .g, d := .s, a := .s, e := 0x3F }
  | 0x01B => at64 r { fmt := .g, d := .s, a := .s, e := 0x3F }
  | 0x01C => at64 r { fmt := .g, d := .s, a := .s, e := 0x3F }
  | 0x01D => at64 r { fmt := .g, d := .s, a := .s, e := 0x3F }
  | 0x01E => at64 r { fmt := .g, d := .s, a := .s, e := 0x3F }
  | 0x01F => at64 r { fmt := .z }
  | 0x020 => at64 r { fmt := .i }
  | 0x021 => at64 r { fmt := .z }
  | 0x040 => immB r .v { fmt := .g, d := .v, a := .v, pred := true, hA := true }
  | 0x041 => immB r .v { fmt := .g, d := .v, a := .v, pred := true, hA := true }
  | 0x042 => immB r .v { fmt := .g, d := .v, a := .v, pred := true, hA := true }
  | 0x043 => immB r .v { fmt := .g, d := .v, a := .v, pred := true, hA := true }
  | 0x044 => immB r .v { fmt := .g, d := .v, a := .v, pred := true, hA := true }
  | 0x045 => immB r .v { fmt := .g, d := .v, a := .v, pred := true, hA := true }
  | 0x046 => immB r .v { fmt := .g, d := .v, a := .v, pred := true, hA := true }
  | 0x047 => immB r .v { fmt := .g, d := .v, a := .v, pred := true, hA := true }
  | 0x048 => immB r .v { fmt := .g, d := .pr, a := .v, pred := true, hA := true }
  | 0x049 => immB r .v { fmt := .g, d := .v, a := .v, c := .v, pred := true, hA := true, hC := true }
  | 0x04A => immB r .v { fmt := .g, d := .v, a := .v, pred := true, hA := true }
  | 0x04B => immB r .v { fmt := .g, d := .v, a := .v, pred := true, hA := true }
  | 0x04C => immB r .v { fmt := .g, d := .v, a := .v, pred := true, hA := true }
  | 0x04D => immB r .v { fmt := .g, d := .v, a := .v, pred := true, hA := true }
  | 0x04E => at64 r { fmt := .g, d := .v, a := .v, pred := true, hA := true }
  | 0x04F => at64 r { fmt := .g, d := .v, a := .v, pred := true, hA := true }
  | 0x050 => immB r .v { fmt := .g, d := .v, a := .v, pred := true, hA := true }
  | 0x051 => immB r .v { fmt := .g, d := .v, a := .v, pred := true, hA := true }
  | 0x052 => immB r .v { fmt := .g, d := .v, a := .v, pred := true, hA := true }
  | 0x053 => at64 r { fmt := .g, d := .v, a := .v, pred := true, hA := true }
  | 0x054 => immB r .v { fmt := .g, d := .v, a := .v, pred := true, hA := true }
  | 0x055 => immB r .v { fmt := .g, d := .v, a := .v, pred := true, hA := true }
  | 0x056 => immB r .v { fmt := .g, d := .v, a := .v, pred := true, hA := true }
  | 0x057 => immB r .v { fmt := .g, d := .v, a := .v, pred := true, hA := true }
  | 0x058 => at64 r { fmt := .g, d := .v, a := .v, pred := true, hA := true }
  | 0x059 => at64 r { fmt := .g, d := .v, a := .v, pred := true, hA := true }
  | 0x05A => at64 r { fmt := .g, d := .v, a := .v, pred := true, hA := true }
  | 0x05B => immB r .v { fmt := .g, d := .v, a := .v, pred := true, hA := true }
  | 0x05C => immB r .v { fmt := .g, d := .v, a := .v, pred := true, hA := true }
  | 0x05D => immB r .v { fmt := .g, d := .v, a := .v, pred := true, hA := true }
  | 0x05E => at64 r { fmt := .g, d := .v, a := .v, b := .v, c := .v, pred := true, hA := true, hB := true, hC := true }
  | 0x05F => at64 r { fmt := .g, d := .v, a := .v, b := .v, c := .v, pred := true, hA := true, hB := true, hC := true }
  | 0x060 => immB r .v { fmt := .g, d := .p, a := .v, pred := true, hA := true }
  | 0x061 => immB r .v { fmt := .g, d := .p, a := .v, pred := true, hA := true }
  | 0x062 => immB r .v { fmt := .g, d := .p, a := .v, pred := true, hA := true }
  | 0x063 => immB r .v { fmt := .g, d := .p, a := .v, pred := true, hA := true }
  | 0x064 => immB r .v { fmt := .g, d := .p, a := .v, pred := true, hA := true }
  | 0x065 => immB r .v { fmt := .g, d := .p, a := .v, pred := true, hA := true }
  | 0x066 => at64 r { fmt := .g, d := .v, a := .v, b := .v, c := .p, pred := true, hA := true, hB := true }
  | 0x067 => at64 r { fmt := .g, d := .v, a := .v, pred := true, hA := true }
  | 0x068 => if r.len = .w128 then none else if r.len = .w64 then some { fmt := .i, d := .v, pred := true } else some { fmt := .g, d := .v, pred := true, k := true }
  | 0x069 => at64 r { fmt := .g, d := .v, a := .s, pred := true }
  | 0x06A => at64 r { fmt := .g, d := .v, pred := true }
  | 0x06B => immB r .v { fmt := .g, d := .v, a := .v, pred := true, hA := true }
  | 0x06C => immB r .v { fmt := .g, d := .v, a := .v, pred := true, hA := true }
  | 0x06D => immB r .v { fmt := .g, d := .v, a := .v, pred := true, hA := true }
  | 0x06E => immB r .v { fmt := .g, d := .v, a := .v, pred := true, hA := true }
  | 0x06F => immB r .v { fmt := .g, d := .v, a := .v, pred := true, hA := true }
  | 0x070 => at64 r { fmt := .g, d := .s, a := .v, pred := true, hA := true }
  | 0x071 => at64 r { fmt := .g, d := .s, a := .v, pred := true, hA := true }
  | 0x072 => at64 r { fmt := .g, d := .s, a := .v, pred := true, hA := true }
  | 0x073 => at64 r { fmt := .g, d := .s, a := .v, pred := true, hA := true }
  | 0x074 => at64 r { fmt := .g, d := .s, a := .v, pred := true, hA := true }
  | 0x075 => at64 r { fmt := .g, d := .s, a := .v, b := .s, hA := true }
  | 0x076 => at64 r { fmt := .g, d := .v, a := .s, b := .s }
  | 0x077 => at64 r { fmt := .g, e := 0x3FF, valOk := countOk r.e }
  | 0x078 => at64 r { fmt := .g, e := 0x3FF, valOk := countOk r.e }
  | 0x079 => at64 r { fmt := .g, d := .s, e := 0x3FF, valOk := countOk r.e }
  | 0x07A => at64 r { fmt := .g, d := .s }
  | 0x0C0 => immB r .s { fmt := .g, d := .s, a := .s }
  | 0x0C1 => immB r .s { fmt := .g, d := .s, a := .s }
  | 0x0C2 => immB r .s { fmt := .g, d := .s, a := .s }
  | 0x0C3 => immB r .s { fmt := .g, d := .s, a := .s }
  | 0x0C4 => immB r .s { fmt := .g, d := .s, a := .s }
  | 0x0C5 => immB r .s { fmt := .g, d := .s, a := .s }
  | 0x0C6 => immB r .s { fmt := .g, d := .s, a := .s }
  | 0x0C7 => immB r .s { fmt := .g, d := .s, a := .s }
  | 0x0C8 => immB r .s { fmt := .g, d := .s, a := .s }
  | 0x0C9 => immB r .s { fmt := .g, d := .s, a := .s }
  | 0x0CA => immB r .s { fmt := .g, d := .s, a := .s }
  | 0x0CB => immB r .s { fmt := .g, d := .s, a := .s }
  | 0x0CC => at64 r { fmt := .g, d := .s, a := .s }
  | 0x0CD => immB r .s { fmt := .g, d := .s, a := .s }
  | 0x0CE => immB r .s { fmt := .g, d := .s, a := .s }
  | 0x0CF => immB r .s { fmt := .g, d := .s, a := .s }
  | 0x0D0 => immB r .s { fmt := .g, d := .s, a := .s }
  | 0x0D1 => at64 r { fmt := .g, d := .s, a := .s, b := .s, c := .s }
  | 0x0D2 => at64 r { fmt := .g, d := .s, a := .s, b := .s, c := .s }
  | 0x0D3 => immB r .s { fmt := .g, d := .s, a := .s }
  | 0x0D4 => immB r .s { fmt := .g, d := .s, a := .s }
  | 0x0D5 => immB r .s { fmt := .g, d := .s, a := .s }
  | 0x0D6 => immB r .s { fmt := .g, d := .s, a := .s }
  | 0x0D7 => immB r .s { fmt := .g, d := .s, a := .s }
  | 0x0D8 => immB r .s { fmt := .g, d := .s, a := .s }
  | 0x0D9 => immB r .s { fmt := .g, d := .s, a := .s }
  | 0x0DA => immB r .s { fmt := .g, d := .s, a := .s }
  | 0x0DB => immB r .s { fmt := .g, d := .s, a := .s }
  | 0x0DC => immB r .s { fmt := .g, d := .s, a := .s }
  | 0x0DD => at64 r { fmt := .g, d := .s, a := .s, b := .s, c := .s }
  | 0x0DE => at64 r { fmt := .g, d := .s, a := .s }
  | 0x0DF => (match r.len with | .w64 => some { fmt := .i, d := .s } | .w96 => some { fmt := .i, d := .s, k := true } | .w128 => some { fmt := .g, d := .s, k := true })
  | 0x0E0 => immB r .s { fmt := .g, d := .s, a := .s, mod := 3 }
  | 0x0E1 => at64 r { fmt := .g, d := .s, a := .s }
  | 0x0E2 => at64 r { fmt := .g, d := .s, a := .s }
  | 0x0E3 => at64 r { fmt := .g, d := .p, a := .p, b := .p, pred := true }
  | 0x0E4 => at64 r { fmt := .g, d := .p, a := .p, b := .p, pred := true }
  | 0x0E5 => at64 r { fmt := .g, d := .p, a := .p, b := .p, pred := true }
  | 0x0E6 => at64 r { fmt := .g, d := .p, a := .p, pred := true }
  | 0x0E7 => at64 r { fmt := .g, d := .s, a := .p, e := 3, valOk := r.e != 3 }
  | 0x0E8 => at64 r { fmt := .g, d := .p, a := .s, e := 3, valOk := r.e != 3 }
  | 0x0E9 => at64 r { fmt := .g, d := .s, a := .p }
  | 0x0EA => at64 r { fmt := .g, d := .s, e := 0x3FF, valOk := selectorOk r.e }
  | 0x0EB => at64 r { fmt := .g, a := .s, e := 0x3FF, valOk := r.e == 0x10 || r.e == 0x20 }
  | 0x100 => immB r .v { fmt := .g, d := .v, a := .v, pred := true, hA := true, mod := 3 }
  | 0x101 => immB r .v { fmt := .g, d := .v, a := .v, pred := true, hA := true, mod := 3 }
  | 0x102 => immB r .v { fmt := .g, d := .v, a := .v, pred := true, hA := true, mod := 3 }
  | 0x103 => immB r .v { fmt := .g, d := .v, a := .v, c := .v, pred := true, hA := true, hC := true, mod := 3 }
  | 0x104 => immB r .v { fmt := .g, d := .v, a := .v, c := .v, pred := true, hA := true, hC := true, mod := 3 }
  | 0x105 => immB r .v { fmt := .g, d := .v, a := .v, pred := true, hA := true }
  | 0x106 => immB r .v { fmt := .g, d := .v, a := .v, pred := true, hA := true }
  | 0x107 => at64 r { fmt := .g, d := .v, a := .v, pred := true, hA := true }
  | 0x108 => at64 r { fmt := .g, d := .v, a := .v, pred := true, hA := true }
  | 0x109 => at64 r { fmt := .g, d := .v, a := .v, pred := true, hA := true }
  | 0x10A => immB r .v { fmt := .g, d := .p, a := .v, pred := true, hA := true }
  | 0x10B => immB r .v { fmt := .g, d := .p, a := .v, pred := true, hA := true }
  | 0x10C => immB r .v { fmt := .g, d := .p, a := .v, pred := true, hA := true }
  | 0x10D => immB r .v { fmt := .g, d := .p, a := .v, pred := true, hA := true }
  | 0x10E => at64 r { fmt := .g, d := .v, a := .v, pred := true, hA := true }
  | 0x10F => at64 r { fmt := .g, d := .v, a := .v, pred := true, hA := true, mod := 3 }
  | 0x110 => immB r .v { fmt := .g, d := .v, a := .v, pred := true, hA := true, mod := 3 }
  | 0x111 => at64 r { fmt := .g, d := .pr, a := .pr, b := .pr, pred := true, mod := 3 }
  | 0x112 => at64 r { fmt := .g, d := .pr, a := .pr, b := .pr, pred := true, mod := 3 }
  | 0x113 => at64 r { fmt := .g, d := .pr, a := .pr, b := .pr, c := .pr, pred := true, mod := 3 }
  | 0x114 => immB r .v { fmt := .g, d := .v, a := .v, pred := true, hA := true, mod := 3 }
  | 0x115 => immB r .v { fmt := .g, d := .v, a := .v, pred := true, hA := true, mod := 3 }
  | 0x116 => at64 r { fmt := .g, d := .v, a := .v, b := .v, c := .v, pred := true, hA := true, hB := true, hC := true, mod := 3 }
  | 0x117 => at64 r { fmt := .g, d := .v, a := .v, b := .v, c := .v, pred := true, hA := true, hB := true, hC := true, mod := 3 }
  | 0x118 => at64 r { fmt := .g, d := .v, a := .v, b := .v, c := .v, pred := true, hA := true, hB := true, hC := true, mod := 3 }
  | 0x119 => at64 r { fmt := .g, d := .v, a := .v, b := .v, c := .v, pred := true, hA := true, hB := true, hC := true, mod := 3 }
  | 0x11A => at64 r { fmt := .g, d := .v, a := .v, pred := true, hA := true, mod := 3 }
  | 0x11B => at64 r { fmt := .g, d := .v, a := .v, pred := true, hA := true, mod := 3 }
  | 0x11C => at64 r { fmt := .g, d := .v, a := .v, pred := true, hA := true, mod := 3 }
  | 0x11D => at64 r { fmt := .g, d := .v, a := .v, pred := true, hA := true, mod := 3 }
  | 0x11E => at64 r { fmt := .g, d := .v, a := .pr, pred := true, mod := 3 }
  | 0x11F => at64 r { fmt := .g, d := .pr, a := .v, pred := true, hA := true }
  | 0x120 => at64 r { fmt := .g, d := .v, a := .v, b := .v, pred := true, hA := true, hB := true, mod := 3 }
  | 0x121 => at64 r { fmt := .g, d := .v, a := .v, pred := true, hA := true, mod := 4 }
  | 0x122 => at64 r { fmt := .g, d := .v, a := .v, b := .v, pred := true, hA := true, hB := true, mod := 3 }
  | 0x123 => at64 r { fmt := .g, d := .v, a := .v, pred := true, hA := true, mod := 4 }
  | 0x124 => at64 r { fmt := .g, d := .v, a := .v, b := .s, pred := true, hA := true }
  | 0x125 => at64 r { fmt := .g, d := .v, a := .v, b := .s, pred := true, hA := true, mod := 3 }
  | 0x126 => at64 r { fmt := .g, d := .v, a := .v, b := .s, pred := true, hA := true }
  | 0x127 => at64 r { fmt := .g, d := .v, a := .v, b := .s, pred := true, hA := true, mod := 3 }
  | 0x128 => at64 r { fmt := .g, a := .s, b := .v, c := .s, e := 0x3FF, pred := true, hB := true }
  | 0x129 => at64 r { fmt := .g, a := .s, b := .v, c := .s, e := 0x3FF, pred := true, hB := true }
  | 0x12A => at64 r { fmt := .g, d := .v, a := .s, e := 0x3FF, pred := true, mod := 3 }
  | 0x12B => at64 r { fmt := .g, d := .v, a := .v, pred := true, hA := true }
  | 0x12C => at64 r { fmt := .g, d := .v, a := .v, pred := true, hA := true }
  | 0x12D => at64 r { fmt := .g, d := .v, a := .v, pred := true, hA := true }
  | 0x12E => at64 r { fmt := .g, d := .v, a := .v, b := .v, pred := true, hA := true, hB := true }
  | 0x12F => at64 r { fmt := .g, d := .v, a := .v, pred := true, hA := true }
  | 0x130 => at64 r { fmt := .g, d := .v, a := .v, pred := true, hA := true }
  | 0x131 => at64 r { fmt := .g, d := .v, a := .v, pred := true, hA := true }
  | 0x132 => at64 r { fmt := .g, d := .v, a := .v, pred := true, hA := true }
  | 0x133 => at64 r { fmt := .g, d := .v, a := .v, pred := true, hA := true }
  | 0x134 => at64 r { fmt := .g, d := .v, a := .v, pred := true, hA := true }
  | 0x135 => immB r .v { fmt := .g, d := .v, a := .v, pred := true, hA := true }
  | 0x136 => immB r .v { fmt := .g, d := .v, a := .v, pred := true, hA := true }
  | 0x137 => immB r .v { fmt := .g, d := .v, a := .v, pred := true, hA := true }
  | 0x138 => immB r .v { fmt := .g, d := .v, a := .v, pred := true, hA := true }
  | 0x160 => (memDesc r .v false false).map (Desc.skipB r)
  | 0x161 => (memDesc r .v false false).map (Desc.skipB r)
  | 0x162 => (memDesc r .v false false).map (Desc.skipB r)
  | 0x163 => (memDesc r .v true false).map (Desc.skipB r)
  | 0x164 => (memDesc r .v true false).map (Desc.skipB r)
  | 0x165 => (memDesc r .v true false).map (Desc.skipB r)
  | 0x166 => (memDesc r .s false true).map (Desc.skipB r)
  | 0x167 => (memDesc r .s false true).map (Desc.skipB r)
  | 0x168 => (memDesc r .s false true).map (Desc.skipB r)
  | 0x169 => (atDesc r false false).map (Desc.skipB r)
  | 0x16A => (atDesc r false false).map (Desc.skipB r)
  | 0x16B => (atDesc r false false).map (Desc.skipB r)
  | 0x16C => (atDesc r false false).map (Desc.skipB r)
  | 0x16D => (atDesc r false false).map (Desc.skipB r)
  | 0x16E => (atDesc r false false).map (Desc.skipB r)
  | 0x16F => (atDesc r false false).map (Desc.skipB r)
  | 0x170 => (atDesc r false false).map (Desc.skipB r)
  | 0x171 => (atDesc r false false).map (Desc.skipB r)
  | 0x172 => (atDesc r true false).map (Desc.skipB r)
  | 0x173 => (atDesc r false true).map (Desc.skipB r)
  | 0x174 => (atDesc r true true).map (Desc.skipB r)
  | 0x175 => (atDesc r false false).map (Desc.skipB r)
  | 0x176 => (atDesc r false false).map (Desc.skipB r)
  | 0x177 => at64 r { fmt := .g, d := .s, e := 3, valOk := r.e != 3 }
  | 0x190 => (memDesc r .v false false).map (Desc.skipB r)
  | 0x191 => (memDesc r .s false true).map (Desc.skipB r)
  | 0x192 => (memDesc r .v true false).map (Desc.skipB r)
  | 0x193 => (memDesc r .v false false).map (Desc.skipB r)
  | 0x194 => (memDesc r .v true false).map (Desc.skipB r)
  | 0x195 => at64 r { fmt := .z }
  | 0x196 => at64 r { fmt := .z }
  | 0x197 => at64 r { fmt := .g, d := .s, a := if r.e = 2 then .res else .s, b := if r.e = 0 ∨ r.e = 2 then .res else .s, e := 3, valOk := r.e != 3 }
  | 0x198 => at64 r { fmt := .g, a := .s, e := 0x3FF }
  | 0x199 => at64 r { fmt := .g, d := .s, a := .s, e := 0x3FF }
  | 0x19A => at64 r { fmt := .g, a := .s, e := 0x3FF }
  | 0x19B => at64 r { fmt := .g, d := .s, a := .s, e := 0x3FF, mod := 3 }
  | 0x19C => at64 r { fmt := .g, a := .s, e := 0x3FF }
  | 0x19D => at64 r { fmt := .g, a := .s, e := 0x3FF }
  | 0x19E => at64 r { fmt := .g, d := .s, a := .s, mod := 3 }
  | 0x19F => at64 r { fmt := .g, a := .s, e := 0x3FF }
  | 0x1A0 => if r.len = .w128 then none else some { fmt := .g, d := .s, a := .s, b := if r.imm then .res else .s, e := 0x3F, mod := 8, k := r.len == .w96 && r.imm, modOk := r.imm == (r.len == .w96) }
  | 0x1A1 => at64 r { fmt := .z }
  | 0x1A2 => at64 r { fmt := .z }
  | 0x1A3 => at64 r { fmt := .g, d := .s, a := .s, b := if r.mod = 1 then .s else .res, e := if r.mod = 1 then 0x1F else if r.mod = 2 then 0x3F else 0, mod := 3 }
  | 0x1A4 => at64 r { fmt := .g, d := .s, e := if r.mod.extractLsb' 0 2 = 3 then 0x3F else 0, mod := 7, modOk := r.mod.extractLsb' 0 2 == 3 || !r.mod.getLsbD 2 }
  | 0x1A8 => at64 r { fmt := .g, d := .s, e := 3, valOk := r.e != 3 }
  | 0x1A9 => at64 r { fmt := .g, d := .s }
  | 0x1B0 => at64 r { fmt := .g, d := .s, a := .s, e := 0x3FF }
  | 0x1B1 => at64 r { fmt := .g, d := .s, a := .s, e := 0x3FF }
  | 0x1B2 => at64 r { fmt := .g, d := .s, a := .s, e := 0x3FF }
  | 0x1B3 => at64 r { fmt := .g, d := .s, a := .s, e := 0x3FF }
  | 0x1B4 => at64 r { fmt := .g, d := .s, a := .s, e := 0x3FF }
  | 0x1B5 => at64 r { fmt := .g, a := .s, b := .s, c := .s, e := 0x7F }
  | 0x1B6 => at64 r { fmt := .g, d := .s, a := .s }
  | 0x1B7 => at64 r { fmt := .g, d := .s, a := .s }
  | 0x1B8 => at64 r { fmt := .g, a := .s, e := 0x3FF }
  | 0x1B9 => at64 r { fmt := .g, a := .s, e := 0x3FF }
  | 0x1BA => at64 r { fmt := .g, a := .s, e := 0x3FF }
  | 0x1BB => at64 r { fmt := .g, a := .s, e := 0x3FF }
  | 0x1BC => at64 r { fmt := .g, a := .s, e := 0x3FF }
  | 0x1BD => at64 r { fmt := .g, a := .s, e := 0x3FF }
  | 0x1BE => at64 r { fmt := .g, a := .s, e := 0x3FF }
  | 0x1BF => at64 r { fmt := .g, e := 0x3F, mod := 3 }
  | 0x1C0 => at64 r { fmt := .g, d := .s, mod := 3 }
  | 0x1C1 => at64 r { fmt := .g, a := .s }
  | 0x1C2 => at64 r { fmt := .g, a := .s, e := 0x3FF }
  | 0x1C3 => at64 r { fmt := .g, a := .s, e := 0x3FF }
  | 0x1D0 => if r.len = .w128 then none else some { fmt := .g, d := .t, a := if r.imm then .res else .s, mod := 8, k := r.len == .w96 && r.imm, modOk := r.imm == (r.len == .w96) }
  | 0x1D1 => at64 r { fmt := .g, d := .t, a := .v, b := .s, pred := true, hA := true }
  | 0x1D2 => at64 r { fmt := .g, d := .v, a := .t, b := .s, pred := true }
  | 0x1D3 => at64 r { fmt := .g, d := .v, a := .t, b := .s, pred := true }
  | 0x1D4 => at64 r { fmt := .g, d := .t }
  | 0x1D5 => at64 r { fmt := .g, d := .s, a := .s }
  | 0x1D6 => at64 r { fmt := .g, e := 0xF }
  | 0x1D7 => at64 r { fmt := .g, e := 0xF }
  | 0x1D8 => at64 r { fmt := .g, d := .s }
  | 0x1E0 => at64 r { fmt := .g, d := .dl, a := .s, e := 0x3FF }
  | 0x1E1 => at64 r { fmt := .g, d := .s, a := .dl }
  | 0x1E2 => at64 r { fmt := .g, d := .v, a := .v, b := .v, c := .dl, pred := true, hA := true, hB := true }
  | 0x1E3 => at64 r { fmt := .g, d := .v, a := .v, b := .v, c := .dl, pred := true, hA := true, hB := true }
  | 0x1E4 => at64 r { fmt := .g, d := .v, a := .v, b := .v, c := .dl, pred := true, hA := true, hB := true }
  | 0x1E5 => at64 r { fmt := .g, d := .v, a := .v, b := .v, c := .dl, pred := true, hA := true, hB := true }
  | 0x1E6 => at64 r { fmt := .g, d := .v, a := .v, pred := true, hA := true }
  | 0x1E7 => at64 r { fmt := .g, d := .v, a := .v, c := .dl, pred := true, hA := true }
  | 0x1E8 => at64 r { fmt := .g, d := .v, a := .v, c := .dl, pred := true, hA := true }
  | 0x1E9 => at64 r { fmt := .g, d := .v, a := .v, b := .v, pred := true, hA := true, hB := true }
  | 0x1EA => at64 r { fmt := .g, d := .v, a := .v, b := .v, pred := true, hA := true, hB := true }
  | 0x1EB => at64 r { fmt := .g, d := .v, a := .v, pred := true, hA := true }
  | 0x1EC => at64 r { fmt := .g, d := .v, a := .v, pred := true, hA := true }
  | 0x1ED => at64 r (if r.mod.getLsbD 0 then { fmt := .g, d := .v, a := .s, c := .dl, e := 0x3FF, pred := true, mod := 1 } else { fmt := .g, d := .v, a := .v, pred := true, mod := 1, hA := true })
  | 0x1EE => at64 r { fmt := .g, d := .v, a := .v, c := .dl, pred := true, hA := true }
  | 0x1EF => at64 r { fmt := .g, d := .v, a := .v, b := .v, c := .dl, pred := true, hA := true, hB := true }
  | 0x1F0 => at64 r { fmt := .g, d := .v, a := .v, c := .dl, pred := true, hA := true }
  | 0x1F1 => at64 r { fmt := .g, d := .v, a := .v, c := .dl, pred := true, hA := true }
  | 0x1F2 => at64 r { fmt := .g, d := .p, a := .v, b := .v, pred := true, hA := true, hB := true }
  | 0x1F3 => at64 r { fmt := .g, d := .p, a := .v, b := .v, pred := true, hA := true, hB := true }
  | 0x1F4 => at64 r { fmt := .g, d := .s, a := .v, pred := true, hA := true }
  | 0x1F5 => at64 r { fmt := .g, d := .s, a := .v, pred := true, hA := true }
  | 0x1FF => if r.len = .w128 then some { fmt := .pair } else none
  | _ => none

/-- The instruction of a word that passed its checks. -/
noncomputable def Raw.build (r : Raw) : Option Instr :=
  match r.op.toNat with
  | 0x000 => some (.nop r.len r.guard)
  | 0x001 => some (.bra r.k26)
  | 0x002 => some (.brc r.guard r.k26)
  | 0x003 => some (.brcAny r.guard r.k26)
  | 0x004 => some (.brcAll r.guard r.k26)
  | 0x005 => some (.brsZ (r.a.setWidth 6) r.k26)
  | 0x006 => some (.brsNz (r.a.setWidth 6) r.k26)
  | 0x007 => some (.brx (r.a.setWidth 6))
  | 0x008 => some (.call (r.d.setWidth 6) r.k26)
  | 0x009 => some (.callx (r.d.setWidth 6) (r.a.setWidth 6))
  | 0x00A => some (.ret (r.a.setWidth 6))
  | 0x00B => some (.join)
  | 0x00C => some (.exit r.guard)
  | 0x00D => some (.exitD r.guard (r.a.setWidth 6) r.e)
  | 0x00E => some (.exitH r.guard (r.a.setWidth 6))
  | 0x00F => some (.sleep r.k26)
  | 0x010 => some (.waitcEq r.waitc)
  | 0x011 => some (.waitcNe r.waitc)
  | 0x012 => some (.waitcGe r.waitc)
  | 0x013 => some (.bar (r.e.setWidth 6))
  | 0x014 => some (.barPh (r.e.setWidth 6))
  | 0x015 => some (.bararr (r.e.setWidth 6))
  | 0x016 => some (.barwait (r.e.setWidth 6))
  | 0x017 => some (.barredAdd (r.d.setWidth 6) (r.a.setWidth 6) (r.e.setWidth 6))
  | 0x018 => some (.barredMin (r.d.setWidth 6) (r.a.setWidth 6) (r.e.setWidth 6))
  | 0x019 => some (.barredMax (r.d.setWidth 6) (r.a.setWidth 6) (r.e.setWidth 6))
  | 0x01A => some (.barredAnd (r.d.setWidth 6) (r.a.setWidth 6) (r.e.setWidth 6))
  | 0x01B => some (.barredOr (r.d.setWidth 6) (r.a.setWidth 6) (r.e.setWidth 6))
  | 0x01C => some (.barredFadd (r.d.setWidth 6) (r.a.setWidth 6) (r.e.setWidth 6))
  | 0x01D => some (.barscanAdd (r.d.setWidth 6) (r.a.setWidth 6) (r.e.setWidth 6))
  | 0x01E => some (.barscanFadd (r.d.setWidth 6) (r.a.setWidth 6) (r.e.setWidth 6))
  | 0x01F => some (.yield)
  | 0x020 => some (.trap r.k26)
  | 0x021 => some (.tret)
  | 0x040 => some (.vadd r.vbin)
  | 0x041 => some (.vsub r.vbin)
  | 0x042 => some (.vaddc r.vbin)
  | 0x043 => some (.vaddsI32 r.vbin)
  | 0x044 => some (.vsubsI32 r.vbin)
  | 0x045 => some (.vmul r.vbin)
  | 0x046 => some (.vmulhI32 r.vbin)
  | 0x047 => some (.vmulhN32 r.vbin)
  | 0x048 => some (.vmulwI32 r.vbin)
  | 0x049 => some (.vmad r.vtri)
  | 0x04A => some (.vminI32 r.vbin)
  | 0x04B => some (.vminN32 r.vbin)
  | 0x04C => some (.vmaxI32 r.vbin)
  | 0x04D => some (.vmaxN32 r.vbin)
  | 0x04E => some (.vabs r.vun)
  | 0x04F => some (.vneg r.vun)
  | 0x050 => some (.vand r.vbin)
  | 0x051 => some (.vor r.vbin)
  | 0x052 => some (.vxor r.vbin)
  | 0x053 => some (.vnot r.vun)
  | 0x054 => some (.vshl r.vbin)
  | 0x055 => some (.vshr r.vbin)
  | 0x056 => some (.vsra r.vbin)
  | 0x057 => some (.vrot r.vbin)
  | 0x058 => some (.vpopc r.vun)
  | 0x059 => some (.vclz r.vun)
  | 0x05A => some (.vbrev r.vun)
  | 0x05B => some (.vaddI16x2 r.vbin)
  | 0x05C => some (.vsubI16x2 r.vbin)
  | 0x05D => some (.vmulI16x2 r.vbin)
  | 0x05E => some (.vdot4I8 r.v3)
  | 0x05F => some (.vdot4N8 r.v3)
  | 0x060 => some (.vcmpEq r.vcmp)
  | 0x061 => some (.vcmpNe r.vcmp)
  | 0x062 => some (.vcmpLtI32 r.vcmp)
  | 0x063 => some (.vcmpLeI32 r.vcmp)
  | 0x064 => some (.vcmpLtN32 r.vcmp)
  | 0x065 => some (.vcmpLeN32 r.vcmp)
  | 0x066 => some (.vsel r.vsel)
  | 0x067 => some (.vmov r.vun)
  | 0x068 => some (.vmovi r.guard r.d r.movImm)
  | 0x069 => some (.vbcast r.guard r.d (r.a.setWidth 6))
  | 0x06A => some (.vlane r.guard r.d)
  | 0x06B => some (.vshflIdx r.vbin)
  | 0x06C => some (.vshflXor r.vbin)
  | 0x06D => some (.vshflUp r.vbin)
  | 0x06E => some (.vshflDn r.vbin)
  | 0x06F => some (.vshflRot r.vbin)
  | 0x070 => some (.vredAdd r.guard (r.d.setWidth 6) r.aReg)
  | 0x071 => some (.vredMinI32 r.guard (r.d.setWidth 6) r.aReg)
  | 0x072 => some (.vredMaxI32 r.guard (r.d.setWidth 6) r.aReg)
  | 0x073 => some (.vredAnd r.guard (r.d.setWidth 6) r.aReg)
  | 0x074 => some (.vredOr r.guard (r.d.setWidth 6) r.aReg)
  | 0x075 => some (.vext (r.d.setWidth 6) r.aReg (r.b.setWidth 6))
  | 0x076 => some (.vins r.d (r.a.setWidth 6) (r.b.setWidth 6))
  | 0x077 => some (.vrel r.e)
  | 0x078 => some (.vclaim r.e)
  | 0x079 => some (.vclaimNb (r.d.setWidth 6) r.e)
  | 0x07A => some (.vquery (r.d.setWidth 6))
  | 0x0C0 => some (.sadd r.sbin)
  | 0x0C1 => some (.ssub r.sbin)
  | 0x0C2 => some (.smul r.sbin)
  | 0x0C3 => some (.smulhI64 r.sbin)
  | 0x0C4 => some (.smulhN64 r.sbin)
  | 0x0C5 => some (.sdivI64 r.sbin)
  | 0x0C6 => some (.sdivN64 r.sbin)
  | 0x0C7 => some (.sremI64 r.sbin)
  | 0x0C8 => some (.sremN64 r.sbin)
  | 0x0C9 => some (.sand r.sbin)
  | 0x0CA => some (.sor r.sbin)
  | 0x0CB => some (.sxor r.sbin)
  | 0x0CC => some (.snot (r.d.setWidth 6) (r.a.setWidth 6))
  | 0x0CD => some (.sshl r.sbin)
  | 0x0CE => some (.sshr r.sbin)
  | 0x0CF => some (.ssra r.sbin)
  | 0x0D0 => some (.srot r.sbin)
  | 0x0D1 => some (.sbfe (r.d.setWidth 6) (r.a.setWidth 6) (r.b.setWidth 6) (r.c.setWidth 6))
  | 0x0D2 => some (.sbfi (r.d.setWidth 6) (r.a.setWidth 6) (r.b.setWidth 6) (r.c.setWidth 6))
  | 0x0D3 => some (.sminI64 r.sbin)
  | 0x0D4 => some (.sminN64 r.sbin)
  | 0x0D5 => some (.smaxI64 r.sbin)
  | 0x0D6 => some (.smaxN64 r.sbin)
  | 0x0D7 => some (.scmpEq r.sbin)
  | 0x0D8 => some (.scmpNe r.sbin)
  | 0x0D9 => some (.scmpLtI64 r.sbin)
  | 0x0DA => some (.scmpLeI64 r.sbin)
  | 0x0DB => some (.scmpLtN64 r.sbin)
  | 0x0DC => some (.scmpLeN64 r.sbin)
  | 0x0DD => some (.ssel (r.d.setWidth 6) (r.a.setWidth 6) (r.b.setWidth 6) (r.c.setWidth 6))
  | 0x0DE => some (.smov (r.d.setWidth 6) (r.a.setWidth 6))
  | 0x0DF => some (.smovi (r.d.setWidth 6) r.smovImm)
  | 0x0E0 => some (.slea r.sbin (r.mod.extractLsb' 0 2))
  | 0x0E1 => some (.spopc (r.d.setWidth 6) (r.a.setWidth 6))
  | 0x0E2 => some (.sclz (r.d.setWidth 6) (r.a.setWidth 6))
  | 0x0E3 => some (.pand r.guard (r.d.setWidth 3) (r.a.setWidth 3) (r.b.setWidth 3))
  | 0x0E4 => some (.por r.guard (r.d.setWidth 3) (r.a.setWidth 3) (r.b.setWidth 3))
  | 0x0E5 => some (.pxor r.guard (r.d.setWidth 3) (r.a.setWidth 3) (r.b.setWidth 3))
  | 0x0E6 => some (.pnot r.guard (r.d.setWidth 3) (r.a.setWidth 3))
  | 0x0E7 => some (.pmovSp (r.d.setWidth 6) (r.a.setWidth 3) (r.e.setWidth 2))
  | 0x0E8 => some (.pmovPs (r.d.setWidth 3) (r.a.setWidth 6) (r.e.setWidth 2))
  | 0x0E9 => some (.ppopc (r.d.setWidth 6) (r.a.setWidth 3))
  | 0x0EA => some (.movsr (r.d.setWidth 6) r.e)
  | 0x0EB => some (.movrs (r.a.setWidth 6) r.e)
  | 0x100 => some (.faddF32 r.vbin r.rm)
  | 0x101 => some (.fsubF32 r.vbin r.rm)
  | 0x102 => some (.fmulF32 r.vbin r.rm)
  | 0x103 => some (.fmaF32 r.vtri r.rm)
  | 0x104 => some (.fnmaF32 r.vtri r.rm)
  | 0x105 => some (.fminF32 r.vbin)
  | 0x106 => some (.fmaxF32 r.vbin)
  | 0x107 => some (.fabsF32 r.vun)
  | 0x108 => some (.fnegF32 r.vun)
  | 0x109 => some (.fsatF32 r.vun)
  | 0x10A => some (.fcmpEq r.vcmp)
  | 0x10B => some (.fcmpLt r.vcmp)
  | 0x10C => some (.fcmpLe r.vcmp)
  | 0x10D => some (.fcmpUn r.vcmp)
  | 0x10E => some (.fclass r.vun)
  | 0x10F => some (.frnd r.vun r.rm)
  | 0x110 => some (.fscale r.vbin r.rm)
  | 0x111 => some (.faddF64 r.guard r.d r.a r.b r.rm)
  | 0x112 => some (.fmulF64 r.guard r.d r.a r.b r.rm)
  | 0x113 => some (.fmaF64 r.guard r.d r.a r.b r.c r.rm)
  | 0x114 => some (.faddF16x2 r.vbin r.rm)
  | 0x115 => some (.fmulF16x2 r.vbin r.rm)
  | 0x116 => some (.fmaF16x2 r.v3 r.rm)
  | 0x117 => some (.fmaBf16x2 r.v3 r.rm)
  | 0x118 => some (.fdot2F16 r.v3 r.rm)
  | 0x119 => some (.fdot2Bf16 r.v3 r.rm)
  | 0x11A => some (.cvtF32I32 r.vun r.rm)
  | 0x11B => some (.cvtF32N32 r.vun r.rm)
  | 0x11C => some (.cvtI32F32 r.vun r.rm)
  | 0x11D => some (.cvtN32F32 r.vun r.rm)
  | 0x11E => some (.cvtF32F64 r.guard r.d r.a r.rm)
  | 0x11F => some (.cvtF64F32 r.vun)
  | 0x120 => some (.cvtF16x2F32 r.v2 r.rm)
  | 0x121 => some (.cvtF32F16 r.vun (r.mod.getLsbD 2))
  | 0x122 => some (.cvtBf16x2F32 r.v2 r.rm)
  | 0x123 => some (.cvtF32Bf16 r.vun (r.mod.getLsbD 2))
  | 0x124 => some (.cvtT8F32 r.vscl)
  | 0x125 => some (.cvtF32T8 r.vscl r.rm)
  | 0x126 => some (.cvtT6F32 r.vscl)
  | 0x127 => some (.cvtF32T6 r.vscl r.rm)
  | 0x128 => some (.blkpackT8 r.guard (r.a.setWidth 6) r.e r.bReg (r.c.setWidth 6))
  | 0x129 => some (.blkpackT6 r.guard (r.a.setWidth 6) r.e r.bReg (r.c.setWidth 6))
  | 0x12A => some (.blkunpk r.guard r.d (r.a.setWidth 6) r.e r.rm)
  | 0x12B => some (.frcp r.vun)
  | 0x12C => some (.frsq r.vun)
  | 0x12D => some (.fsqrt r.vun)
  | 0x12E => some (.fdiv r.v2)
  | 0x12F => some (.fexp2 r.vun)
  | 0x130 => some (.flog2 r.vun)
  | 0x131 => some (.fsin r.vun)
  | 0x132 => some (.fcos r.vun)
  | 0x133 => some (.ftanh r.vun)
  | 0x134 => some (.fsigm r.vun)
  | 0x135 => some (.idivI32 r.vbin)
  | 0x136 => some (.idivN32 r.vbin)
  | 0x137 => some (.iremI32 r.vbin)
  | 0x138 => some (.iremN32 r.vbin)
  | 0x160 => some (.ldL1 r.guard r.d r.memRef r.width)
  | 0x161 => some (.ldL2 r.guard r.d r.memRef r.width)
  | 0x162 => some (.ldL3 r.guard r.d r.memRef r.width)
  | 0x163 => some (.stL1 r.guard r.dReg r.memRef r.width)
  | 0x164 => some (.stL2 r.guard r.dReg r.memRef r.width)
  | 0x165 => some (.stL3 r.guard r.dReg r.memRef r.width)
  | 0x166 => some (.lduL1 (r.d.setWidth 6) r.memRef r.width)
  | 0x167 => some (.lduL2 (r.d.setWidth 6) r.memRef r.width)
  | 0x168 => some (.lduL3 (r.d.setWidth 6) r.memRef r.width)
  | 0x169 => some (.atAdd r.atOps)
  | 0x16A => some (.atMinI32 r.atOps)
  | 0x16B => some (.atMaxI32 r.atOps)
  | 0x16C => some (.atMinN32 r.atOps)
  | 0x16D => some (.atMaxN32 r.atOps)
  | 0x16E => some (.atAnd r.atOps)
  | 0x16F => some (.atOr r.atOps)
  | 0x170 => some (.atXor r.atOps)
  | 0x171 => some (.atXchg r.atOps)
  | 0x172 => some (.atXchg64 r.atOps)
  | 0x173 => some (.atCas r.atOps r.fReg)
  | 0x174 => some (.atCas64 r.atOps r.fReg)
  | 0x175 => some (.atFadd r.atOps)
  | 0x176 => some (.atAmaxx r.atOps)
  | 0x177 => some (.spinfo (r.d.setWidth 6) (r.e.setWidth 2))
  | 0x190 => some (.ldGm r.guard r.d r.memRef r.width)
  | 0x191 => some (.lduGm (r.d.setWidth 6) r.memRef r.width)
  | 0x192 => some (.stGm r.guard r.dReg r.memRef r.width)
  | 0x193 => some (.ldGmAcq r.guard r.d r.memRef r.width)
  | 0x194 => some (.stGmRel r.guard r.dReg r.memRef r.width)
  | 0x195 => some (.phase)
  | 0x196 => some (.fenceO)
  | 0x197 => some (.fenceR (r.d.setWidth 6) r.fenceSel)
  | 0x198 => some (.evpost (r.a.setWidth 6) r.e)
  | 0x199 => some (.evpostNb (r.d.setWidth 6) (r.a.setWidth 6) r.e)
  | 0x19A => some (.evwm (r.a.setWidth 6) r.e)
  | 0x19B => if r.mod = 0 then some (.streamqTail (r.d.setWidth 6) (r.a.setWidth 6) r.e) else if r.mod = 1 then some (.streamqRel (r.d.setWidth 6) (r.a.setWidth 6) r.e) else if r.mod = 2 then some (.streamqWm (r.d.setWidth 6) (r.a.setWidth 6) r.e) else some (.streamqLate (r.d.setWidth 6) (r.a.setWidth 6) r.e)
  | 0x19C => some (.automap (r.a.setWidth 6) r.e)
  | 0x19D => some (.autounmap (r.a.setWidth 6) r.e)
  | 0x19E => if r.mod = 0 then some (.autoqSt (r.d.setWidth 6) (r.a.setWidth 6)) else if r.mod = 1 then some (.autoqAcc (r.d.setWidth 6) (r.a.setWidth 6)) else if r.mod = 2 then some (.autoqOvf (r.d.setWidth 6) (r.a.setWidth 6)) else some (.autoqExp (r.d.setWidth 6) (r.a.setWidth 6))
  | 0x19F => some (.svcall (r.a.setWidth 6) r.e)
  | 0x1A0 => some (.chime (r.d.setWidth 6) (r.a.setWidth 6) r.chPayload (r.e.setWidth 6))
  | 0x1A1 => some (.chwait)
  | 0x1A2 => some (.chret)
  | 0x1A3 => if r.mod = 0 then some (.chpermDes (r.d.setWidth 6) (r.a.setWidth 6)) else if r.mod = 1 then some (.chpermSet (r.d.setWidth 6) (r.a.setWidth 6) (r.b.setWidth 6) (r.e.setWidth 5)) else if r.mod = 2 then some (.chpermVec (r.d.setWidth 6) (r.a.setWidth 6) (r.e.setWidth 6)) else some (.chpermEn (r.d.setWidth 6) (r.a.setWidth 6))
  | 0x1A4 => if r.mod = 0 then some (.chinfoPend (r.d.setWidth 6)) else if r.mod = 1 then some (.chinfoEn (r.d.setWidth 6)) else if r.mod = 2 then some (.chinfoDeny (r.d.setWidth 6)) else if r.mod = 3 then some (.chinfoVec (r.d.setWidth 6) (r.e.setWidth 6)) else some (.chinfoVecTake (r.d.setWidth 6) (r.e.setWidth 6))
  | 0x1A8 => some (.perfclass (r.d.setWidth 6) (r.e.setWidth 2))
  | 0x1A9 => some (.perfq (r.d.setWidth 6))
  | 0x1B0 => some (.tmov (r.d.setWidth 6) (r.a.setWidth 6) r.e)
  | 0x1B1 => some (.tmovV (r.d.setWidth 6) (r.a.setWidth 6) r.e)
  | 0x1B2 => some (.tmovW (r.d.setWidth 6) (r.a.setWidth 6) r.e)
  | 0x1B3 => some (.tmovR (r.d.setWidth 6) (r.a.setWidth 6) r.e)
  | 0x1B4 => some (.tmovZ (r.d.setWidth 6) (r.a.setWidth 6) r.e)
  | 0x1B5 => some (.rainit (r.a.setWidth 6) (r.b.setWidth 6) (r.c.setWidth 6) (r.e.setWidth 7))
  | 0x1B6 => some (.rawait (r.d.setWidth 6) (r.a.setWidth 6))
  | 0x1B7 => some (.rarel (r.d.setWidth 6) (r.a.setWidth 6))
  | 0x1B8 => some (.gath (r.a.setWidth 6) r.e)
  | 0x1B9 => some (.scat (r.a.setWidth 6) r.e)
  | 0x1BA => some (.collAr (r.a.setWidth 6) r.e)
  | 0x1BB => some (.collAg (r.a.setWidth 6) r.e)
  | 0x1BC => some (.collRs (r.a.setWidth 6) r.e)
  | 0x1BD => some (.collBc (r.a.setWidth 6) r.e)
  | 0x1BE => some (.collA2a (r.a.setWidth 6) r.e)
  | 0x1BF => some (.waitoc (r.mod.extractLsb' 0 2) (r.e.setWidth 6))
  | 0x1C0 => some (.ocrd (r.mod.extractLsb' 0 2) (r.d.setWidth 6))
  | 0x1C1 => some (.psleep (r.a.setWidth 6))
  | 0x1C2 => some (.cpydec (r.a.setWidth 6) r.e)
  | 0x1C3 => some (.cpyenc (r.a.setWidth 6) r.e)
  | 0x1D0 => some (.movts (r.d.setWidth 4) r.shapeSrc)
  | 0x1D1 => some (.twr r.guard (r.d.setWidth 4) r.aReg (r.b.setWidth 6))
  | 0x1D2 => some (.trd r.guard r.d (r.a.setWidth 4) (r.b.setWidth 6))
  | 0x1D3 => some (.trdT r.guard r.d (r.a.setWidth 4) (r.b.setWidth 6))
  | 0x1D4 => some (.tzero (r.d.setWidth 4))
  | 0x1D5 => some (.sqgo (r.d.setWidth 6) (r.a.setWidth 6))
  | 0x1D6 => some (.sqsig (r.e.setWidth 4))
  | 0x1D7 => some (.sqwait (r.e.setWidth 4))
  | 0x1D8 => some (.sqstat (r.d.setWidth 6))
  | 0x1E0 => some (.dialld (r.d.setWidth 2) (r.a.setWidth 6) r.e)
  | 0x1E1 => some (.dialq (r.d.setWidth 6) (r.a.setWidth 2))
  | 0x1E2 => some (.dsadd r.v2 (r.c.setWidth 2))
  | 0x1E3 => some (.dssub r.v2 (r.c.setWidth 2))
  | 0x1E4 => some (.dsmul r.v2 (r.c.setWidth 2))
  | 0x1E5 => some (.dsdiv r.v2 (r.c.setWidth 2))
  | 0x1E6 => some (.dsneg r.vun)
  | 0x1E7 => some (.dsrcp r.vun (r.c.setWidth 2))
  | 0x1E8 => some (.dssqr r.vun (r.c.setWidth 2))
  | 0x1E9 => some (.dsuni r.v2)
  | 0x1EA => some (.dsint r.v2)
  | 0x1EB => some (.dscpl r.vun)
  | 0x1EC => some (.dshull r.vun)
  | 0x1ED => if r.mod.getLsbD 0 then some (.dsexpBlock r.guard r.d (r.a.setWidth 6) (r.c.setWidth 2) r.e) else some (.dsexp r.vun)
  | 0x1EE => some (.dsfrom r.vun (r.c.setWidth 2))
  | 0x1EF => some (.dsfromArc r.v2 (r.c.setWidth 2))
  | 0x1F0 => some (.dslo r.vun (r.c.setWidth 2))
  | 0x1F1 => some (.dshi r.vun (r.c.setWidth 2))
  | 0x1F2 => some (.dstestMeet r.guard (r.d.setWidth 3) r.aReg r.bReg)
  | 0x1F3 => some (.dstestIn r.guard (r.d.setWidth 3) r.aReg r.bReg)
  | 0x1F4 => some (.dsredUni r.guard (r.d.setWidth 6) r.aReg)
  | 0x1F5 => some (.dsredInt r.guard (r.d.setWidth 6) r.aReg)
  | 0x1FF => none
  | _ => none

/-- The fields of an instruction's word; none for PAIR and for what has no gang word. -/
def Instr.raw (i : Instr) : Option Raw :=
  match i with
  | .nop len g => some ((Raw.mk0 len 0x000).withG g)
  | .bra k => some ((Raw.mk0 .w64 0x001).withK26 k)
  | .brc g k => some (((Raw.mk0 .w64 0x002).withG g).withK26 k)
  | .brcAny g k => some (((Raw.mk0 .w64 0x003).withG g).withK26 k)
  | .brcAll g k => some (((Raw.mk0 .w64 0x004).withG g).withK26 k)
  | .brsZ a k => some (((Raw.mk0 .w64 0x005).withSA a).withK26 k)
  | .brsNz a k => some (((Raw.mk0 .w64 0x006).withSA a).withK26 k)
  | .brx a => some ((Raw.mk0 .w64 0x007).withSA a)
  | .call d k => some (((Raw.mk0 .w64 0x008).withD (slot8 d)).withK26 k)
  | .callx d a => some (((Raw.mk0 .w64 0x009).withD (slot8 d)).withSA a)
  | .ret a => some ((Raw.mk0 .w64 0x00A).withSA a)
  | .join => some (Raw.mk0 .w64 0x00B)
  | .exit g => some ((Raw.mk0 .w64 0x00C).withG g)
  | .exitD g a e => some ((((Raw.mk0 .w64 0x00D).withG g).withSA a).withHi 0 e)
  | .exitH g a => some (((Raw.mk0 .w64 0x00E).withG g).withSA a)
  | .sleep k => some ((Raw.mk0 .w64 0x00F).withK26 k)
  | .waitcEq o => some ((Raw.mk0 .w64 0x010).withWaitc o)
  | .waitcNe o => some ((Raw.mk0 .w64 0x011).withWaitc o)
  | .waitcGe o => some ((Raw.mk0 .w64 0x012).withWaitc o)
  | .bar c => some ((Raw.mk0 .w64 0x013).withHi 0 (c.setWidth 10))
  | .barPh c => some ((Raw.mk0 .w64 0x014).withHi 0 (c.setWidth 10))
  | .bararr c => some ((Raw.mk0 .w64 0x015).withHi 0 (c.setWidth 10))
  | .barwait c => some ((Raw.mk0 .w64 0x016).withHi 0 (c.setWidth 10))
  | .barredAdd d a c => some ((((Raw.mk0 .w64 0x017).withD (slot8 d)).withSA a).withHi 0 (c.setWidth 10))
  | .barredMin d a c => some ((((Raw.mk0 .w64 0x018).withD (slot8 d)).withSA a).withHi 0 (c.setWidth 10))
  | .barredMax d a c => some ((((Raw.mk0 .w64 0x019).withD (slot8 d)).withSA a).withHi 0 (c.setWidth 10))
  | .barredAnd d a c => some ((((Raw.mk0 .w64 0x01A).withD (slot8 d)).withSA a).withHi 0 (c.setWidth 10))
  | .barredOr d a c => some ((((Raw.mk0 .w64 0x01B).withD (slot8 d)).withSA a).withHi 0 (c.setWidth 10))
  | .barredFadd d a c => some ((((Raw.mk0 .w64 0x01C).withD (slot8 d)).withSA a).withHi 0 (c.setWidth 10))
  | .barscanAdd d a c => some ((((Raw.mk0 .w64 0x01D).withD (slot8 d)).withSA a).withHi 0 (c.setWidth 10))
  | .barscanFadd d a c => some ((((Raw.mk0 .w64 0x01E).withD (slot8 d)).withSA a).withHi 0 (c.setWidth 10))
  | .yield => some (Raw.mk0 .w64 0x01F)
  | .trap k => some ((Raw.mk0 .w64 0x020).withK26 k)
  | .tret => some (Raw.mk0 .w64 0x021)
  | .vadd o => some ((Raw.mk0 .w64 0x040).withVBin o)
  | .vsub o => some ((Raw.mk0 .w64 0x041).withVBin o)
  | .vaddc o => some ((Raw.mk0 .w64 0x042).withVBin o)
  | .vaddsI32 o => some ((Raw.mk0 .w64 0x043).withVBin o)
  | .vsubsI32 o => some ((Raw.mk0 .w64 0x044).withVBin o)
  | .vmul o => some ((Raw.mk0 .w64 0x045).withVBin o)
  | .vmulhI32 o => some ((Raw.mk0 .w64 0x046).withVBin o)
  | .vmulhN32 o => some ((Raw.mk0 .w64 0x047).withVBin o)
  | .vmulwI32 o => some ((Raw.mk0 .w64 0x048).withVBin o)
  | .vmad o => some ((Raw.mk0 .w64 0x049).withVTri o)
  | .vminI32 o => some ((Raw.mk0 .w64 0x04A).withVBin o)
  | .vminN32 o => some ((Raw.mk0 .w64 0x04B).withVBin o)
  | .vmaxI32 o => some ((Raw.mk0 .w64 0x04C).withVBin o)
  | .vmaxN32 o => some ((Raw.mk0 .w64 0x04D).withVBin o)
  | .vabs o => some ((Raw.mk0 .w64 0x04E).withVUn o)
  | .vneg o => some ((Raw.mk0 .w64 0x04F).withVUn o)
  | .vand o => some ((Raw.mk0 .w64 0x050).withVBin o)
  | .vor o => some ((Raw.mk0 .w64 0x051).withVBin o)
  | .vxor o => some ((Raw.mk0 .w64 0x052).withVBin o)
  | .vnot o => some ((Raw.mk0 .w64 0x053).withVUn o)
  | .vshl o => some ((Raw.mk0 .w64 0x054).withVBin o)
  | .vshr o => some ((Raw.mk0 .w64 0x055).withVBin o)
  | .vsra o => some ((Raw.mk0 .w64 0x056).withVBin o)
  | .vrot o => some ((Raw.mk0 .w64 0x057).withVBin o)
  | .vpopc o => some ((Raw.mk0 .w64 0x058).withVUn o)
  | .vclz o => some ((Raw.mk0 .w64 0x059).withVUn o)
  | .vbrev o => some ((Raw.mk0 .w64 0x05A).withVUn o)
  | .vaddI16x2 o => some ((Raw.mk0 .w64 0x05B).withVBin o)
  | .vsubI16x2 o => some ((Raw.mk0 .w64 0x05C).withVBin o)
  | .vmulI16x2 o => some ((Raw.mk0 .w64 0x05D).withVBin o)
  | .vdot4I8 o => some ((Raw.mk0 .w64 0x05E).withV3 o)
  | .vdot4N8 o => some ((Raw.mk0 .w64 0x05F).withV3 o)
  | .vcmpEq o => some ((Raw.mk0 .w64 0x060).withVCmp o)
  | .vcmpNe o => some ((Raw.mk0 .w64 0x061).withVCmp o)
  | .vcmpLtI32 o => some ((Raw.mk0 .w64 0x062).withVCmp o)
  | .vcmpLeI32 o => some ((Raw.mk0 .w64 0x063).withVCmp o)
  | .vcmpLtN32 o => some ((Raw.mk0 .w64 0x064).withVCmp o)
  | .vcmpLeN32 o => some ((Raw.mk0 .w64 0x065).withVCmp o)
  | .vsel o => some ((Raw.mk0 .w64 0x066).withVSel o)
  | .vmov o => some ((Raw.mk0 .w64 0x067).withVUn o)
  | .vmovi g d i => some ((((Raw.mk0 .w64 0x068).withG g).withD d).withMovImm i)
  | .vbcast g d a => some ((((Raw.mk0 .w64 0x069).withG g).withD d).withSA a)
  | .vlane g d => some (((Raw.mk0 .w64 0x06A).withG g).withD d)
  | .vshflIdx o => some ((Raw.mk0 .w64 0x06B).withVBin o)
  | .vshflXor o => some ((Raw.mk0 .w64 0x06C).withVBin o)
  | .vshflUp o => some ((Raw.mk0 .w64 0x06D).withVBin o)
  | .vshflDn o => some ((Raw.mk0 .w64 0x06E).withVBin o)
  | .vshflRot o => some ((Raw.mk0 .w64 0x06F).withVBin o)
  | .vredAdd g d a => some ((((Raw.mk0 .w64 0x070).withG g).withD (slot8 d)).withA a)
  | .vredMinI32 g d a => some ((((Raw.mk0 .w64 0x071).withG g).withD (slot8 d)).withA a)
  | .vredMaxI32 g d a => some ((((Raw.mk0 .w64 0x072).withG g).withD (slot8 d)).withA a)
  | .vredAnd g d a => some ((((Raw.mk0 .w64 0x073).withG g).withD (slot8 d)).withA a)
  | .vredOr g d a => some ((((Raw.mk0 .w64 0x074).withG g).withD (slot8 d)).withA a)
  | .vext d a b => some ((((Raw.mk0 .w64 0x075).withD (slot8 d)).withA a).withSB b)
  | .vins d a b => some ((((Raw.mk0 .w64 0x076).withD d).withSA a).withSB b)
  | .vrel n => some ((Raw.mk0 .w64 0x077).withHi 0 n)
  | .vclaim n => some ((Raw.mk0 .w64 0x078).withHi 0 n)
  | .vclaimNb d n => some (((Raw.mk0 .w64 0x079).withD (slot8 d)).withHi 0 n)
  | .vquery d => some ((Raw.mk0 .w64 0x07A).withD (slot8 d))
  | .sadd o => some ((Raw.mk0 .w64 0x0C0).withSBin o)
  | .ssub o => some ((Raw.mk0 .w64 0x0C1).withSBin o)
  | .smul o => some ((Raw.mk0 .w64 0x0C2).withSBin o)
  | .smulhI64 o => some ((Raw.mk0 .w64 0x0C3).withSBin o)
  | .smulhN64 o => some ((Raw.mk0 .w64 0x0C4).withSBin o)
  | .sdivI64 o => some ((Raw.mk0 .w64 0x0C5).withSBin o)
  | .sdivN64 o => some ((Raw.mk0 .w64 0x0C6).withSBin o)
  | .sremI64 o => some ((Raw.mk0 .w64 0x0C7).withSBin o)
  | .sremN64 o => some ((Raw.mk0 .w64 0x0C8).withSBin o)
  | .sand o => some ((Raw.mk0 .w64 0x0C9).withSBin o)
  | .sor o => some ((Raw.mk0 .w64 0x0CA).withSBin o)
  | .sxor o => some ((Raw.mk0 .w64 0x0CB).withSBin o)
  | .snot d a => some (((Raw.mk0 .w64 0x0CC).withD (slot8 d)).withSA a)
  | .sshl o => some ((Raw.mk0 .w64 0x0CD).withSBin o)
  | .sshr o => some ((Raw.mk0 .w64 0x0CE).withSBin o)
  | .ssra o => some ((Raw.mk0 .w64 0x0CF).withSBin o)
  | .srot o => some ((Raw.mk0 .w64 0x0D0).withSBin o)
  | .sbfe d a b c => some (((((Raw.mk0 .w64 0x0D1).withD (slot8 d)).withSA a).withSB b).withHi (slot8 c) 0)
  | .sbfi d a b c => some (((((Raw.mk0 .w64 0x0D2).withD (slot8 d)).withSA a).withSB b).withHi (slot8 c) 0)
  | .sminI64 o => some ((Raw.mk0 .w64 0x0D3).withSBin o)
  | .sminN64 o => some ((Raw.mk0 .w64 0x0D4).withSBin o)
  | .smaxI64 o => some ((Raw.mk0 .w64 0x0D5).withSBin o)
  | .smaxN64 o => some ((Raw.mk0 .w64 0x0D6).withSBin o)
  | .scmpEq o => some ((Raw.mk0 .w64 0x0D7).withSBin o)
  | .scmpNe o => some ((Raw.mk0 .w64 0x0D8).withSBin o)
  | .scmpLtI64 o => some ((Raw.mk0 .w64 0x0D9).withSBin o)
  | .scmpLeI64 o => some ((Raw.mk0 .w64 0x0DA).withSBin o)
  | .scmpLtN64 o => some ((Raw.mk0 .w64 0x0DB).withSBin o)
  | .scmpLeN64 o => some ((Raw.mk0 .w64 0x0DC).withSBin o)
  | .ssel d a b c => some (((((Raw.mk0 .w64 0x0DD).withD (slot8 d)).withSA a).withSB b).withHi (slot8 c) 0)
  | .smov d a => some (((Raw.mk0 .w64 0x0DE).withD (slot8 d)).withSA a)
  | .smovi d i => some (((Raw.mk0 .w64 0x0DF).withD (slot8 d)).withSMovImm i)
  | .slea o sh => some ((Raw.mk0 .w64 0x0E0 ((0 : BitVec 2) ++ sh)).withSBin o)
  | .spopc d a => some (((Raw.mk0 .w64 0x0E1).withD (slot8 d)).withSA a)
  | .sclz d a => some (((Raw.mk0 .w64 0x0E2).withD (slot8 d)).withSA a)
  | .pand g d a b => some ({ (((Raw.mk0 .w64 0x0E3).withG g).withD (slot8 d)) with a := slot8 a, b := slot8 b })
  | .por g d a b => some ({ (((Raw.mk0 .w64 0x0E4).withG g).withD (slot8 d)) with a := slot8 a, b := slot8 b })
  | .pxor g d a b => some ({ (((Raw.mk0 .w64 0x0E5).withG g).withD (slot8 d)) with a := slot8 a, b := slot8 b })
  | .pnot g d a => some ({ (((Raw.mk0 .w64 0x0E6).withG g).withD (slot8 d)) with a := slot8 a })
  | .pmovSp d a e => some ({ (((Raw.mk0 .w64 0x0E7).withD (slot8 d)).withHi 0 (e.setWidth 10)) with a := slot8 a })
  | .pmovPs d a e => some ((((Raw.mk0 .w64 0x0E8).withD (slot8 d)).withSA a).withHi 0 (e.setWidth 10))
  | .ppopc d a => some ({ ((Raw.mk0 .w64 0x0E9).withD (slot8 d)) with a := slot8 a })
  | .movsr d sel => some (((Raw.mk0 .w64 0x0EA).withD (slot8 d)).withHi 0 sel)
  | .movrs a sel => some (((Raw.mk0 .w64 0x0EB).withSA a).withHi 0 sel)
  | .faddF32 o rm => some ((Raw.mk0 .w64 0x100 ((0 : BitVec 2) ++ rm.bits)).withVBin o)
  | .fsubF32 o rm => some ((Raw.mk0 .w64 0x101 ((0 : BitVec 2) ++ rm.bits)).withVBin o)
  | .fmulF32 o rm => some ((Raw.mk0 .w64 0x102 ((0 : BitVec 2) ++ rm.bits)).withVBin o)
  | .fmaF32 o rm => some ((Raw.mk0 .w64 0x103 ((0 : BitVec 2) ++ rm.bits)).withVTri o)
  | .fnmaF32 o rm => some ((Raw.mk0 .w64 0x104 ((0 : BitVec 2) ++ rm.bits)).withVTri o)
  | .fminF32 o => some ((Raw.mk0 .w64 0x105).withVBin o)
  | .fmaxF32 o => some ((Raw.mk0 .w64 0x106).withVBin o)
  | .fabsF32 o => some ((Raw.mk0 .w64 0x107).withVUn o)
  | .fnegF32 o => some ((Raw.mk0 .w64 0x108).withVUn o)
  | .fsatF32 o => some ((Raw.mk0 .w64 0x109).withVUn o)
  | .fcmpEq o => some ((Raw.mk0 .w64 0x10A).withVCmp o)
  | .fcmpLt o => some ((Raw.mk0 .w64 0x10B).withVCmp o)
  | .fcmpLe o => some ((Raw.mk0 .w64 0x10C).withVCmp o)
  | .fcmpUn o => some ((Raw.mk0 .w64 0x10D).withVCmp o)
  | .fclass o => some ((Raw.mk0 .w64 0x10E).withVUn o)
  | .frnd o rm => some ((Raw.mk0 .w64 0x10F ((0 : BitVec 2) ++ rm.bits)).withVUn o)
  | .fscale o rm => some ((Raw.mk0 .w64 0x110 ((0 : BitVec 2) ++ rm.bits)).withVBin o)
  | .faddF64 g d a b rm => some ({ (((Raw.mk0 .w64 0x111 ((0 : BitVec 2) ++ rm.bits)).withG g).withD d) with a := a, b := b })
  | .fmulF64 g d a b rm => some ({ (((Raw.mk0 .w64 0x112 ((0 : BitVec 2) ++ rm.bits)).withG g).withD d) with a := a, b := b })
  | .fmaF64 g d a b c rm => some ({ ((((Raw.mk0 .w64 0x113 ((0 : BitVec 2) ++ rm.bits)).withG g).withD d).withHi c 0) with a := a, b := b })
  | .faddF16x2 o rm => some ((Raw.mk0 .w64 0x114 ((0 : BitVec 2) ++ rm.bits)).withVBin o)
  | .fmulF16x2 o rm => some ((Raw.mk0 .w64 0x115 ((0 : BitVec 2) ++ rm.bits)).withVBin o)
  | .fmaF16x2 o rm => some ((Raw.mk0 .w64 0x116 ((0 : BitVec 2) ++ rm.bits)).withV3 o)
  | .fmaBf16x2 o rm => some ((Raw.mk0 .w64 0x117 ((0 : BitVec 2) ++ rm.bits)).withV3 o)
  | .fdot2F16 o rm => some ((Raw.mk0 .w64 0x118 ((0 : BitVec 2) ++ rm.bits)).withV3 o)
  | .fdot2Bf16 o rm => some ((Raw.mk0 .w64 0x119 ((0 : BitVec 2) ++ rm.bits)).withV3 o)
  | .cvtF32I32 o rm => some ((Raw.mk0 .w64 0x11A ((0 : BitVec 2) ++ rm.bits)).withVUn o)
  | .cvtF32N32 o rm => some ((Raw.mk0 .w64 0x11B ((0 : BitVec 2) ++ rm.bits)).withVUn o)
  | .cvtI32F32 o rm => some ((Raw.mk0 .w64 0x11C ((0 : BitVec 2) ++ rm.bits)).withVUn o)
  | .cvtN32F32 o rm => some ((Raw.mk0 .w64 0x11D ((0 : BitVec 2) ++ rm.bits)).withVUn o)
  | .cvtF32F64 g d a rm => some ({ (((Raw.mk0 .w64 0x11E ((0 : BitVec 2) ++ rm.bits)).withG g).withD d) with a := a })
  | .cvtF64F32 o => some ((Raw.mk0 .w64 0x11F).withVUn o)
  | .cvtF16x2F32 o rm => some ((Raw.mk0 .w64 0x120 ((0 : BitVec 2) ++ rm.bits)).withV2 o)
  | .cvtF32F16 o half => some ((Raw.mk0 .w64 0x121 ((0 : BitVec 1) ++ BitVec.ofBool half ++ (0 : BitVec 2))).withVUn o)
  | .cvtBf16x2F32 o rm => some ((Raw.mk0 .w64 0x122 ((0 : BitVec 2) ++ rm.bits)).withV2 o)
  | .cvtF32Bf16 o half => some ((Raw.mk0 .w64 0x123 ((0 : BitVec 1) ++ BitVec.ofBool half ++ (0 : BitVec 2))).withVUn o)
  | .cvtT8F32 o => some ((Raw.mk0 .w64 0x124).withVScl o)
  | .cvtF32T8 o rm => some ((Raw.mk0 .w64 0x125 ((0 : BitVec 2) ++ rm.bits)).withVScl o)
  | .cvtT6F32 o => some ((Raw.mk0 .w64 0x126).withVScl o)
  | .cvtF32T6 o rm => some ((Raw.mk0 .w64 0x127 ((0 : BitVec 2) ++ rm.bits)).withVScl o)
  | .blkpackT8 g a e b c => some (((((Raw.mk0 .w64 0x128).withG g).withSA a).withB b).withHi (slot8 c) e)
  | .blkpackT6 g a e b c => some (((((Raw.mk0 .w64 0x129).withG g).withSA a).withB b).withHi (slot8 c) e)
  | .blkunpk g d a e rm => some (((((Raw.mk0 .w64 0x12A ((0 : BitVec 2) ++ rm.bits)).withG g).withD d).withSA a).withHi 0 e)
  | .frcp o => some ((Raw.mk0 .w64 0x12B).withVUn o)
  | .frsq o => some ((Raw.mk0 .w64 0x12C).withVUn o)
  | .fsqrt o => some ((Raw.mk0 .w64 0x12D).withVUn o)
  | .fdiv o => some ((Raw.mk0 .w64 0x12E).withV2 o)
  | .fexp2 o => some ((Raw.mk0 .w64 0x12F).withVUn o)
  | .flog2 o => some ((Raw.mk0 .w64 0x130).withVUn o)
  | .fsin o => some ((Raw.mk0 .w64 0x131).withVUn o)
  | .fcos o => some ((Raw.mk0 .w64 0x132).withVUn o)
  | .ftanh o => some ((Raw.mk0 .w64 0x133).withVUn o)
  | .fsigm o => some ((Raw.mk0 .w64 0x134).withVUn o)
  | .idivI32 o => some ((Raw.mk0 .w64 0x135).withVBin o)
  | .idivN32 o => some ((Raw.mk0 .w64 0x136).withVBin o)
  | .iremI32 o => some ((Raw.mk0 .w64 0x137).withVBin o)
  | .iremN32 o => some ((Raw.mk0 .w64 0x138).withVBin o)
  | .ldL1 g d m w => some ((((Raw.mk0 .w64 0x160 ((0 : BitVec 2) ++ w.bits)).withG g).withD d).withMem m)
  | .ldL2 g d m w => some ((((Raw.mk0 .w64 0x161 ((0 : BitVec 2) ++ w.bits)).withG g).withD d).withMem m)
  | .ldL3 g d m w => some ((((Raw.mk0 .w64 0x162 ((0 : BitVec 2) ++ w.bits)).withG g).withD d).withMem m)
  | .stL1 g d m w => some ({ ((((Raw.mk0 .w64 0x163 ((0 : BitVec 2) ++ w.bits)).withG g).withD d.n).withMem m) with ha := d.hold })
  | .stL2 g d m w => some ({ ((((Raw.mk0 .w64 0x164 ((0 : BitVec 2) ++ w.bits)).withG g).withD d.n).withMem m) with ha := d.hold })
  | .stL3 g d m w => some ({ ((((Raw.mk0 .w64 0x165 ((0 : BitVec 2) ++ w.bits)).withG g).withD d.n).withMem m) with ha := d.hold })
  | .lduL1 d m w => some (((Raw.mk0 .w64 0x166 ((0 : BitVec 2) ++ w.bits)).withD (slot8 d)).withMem m)
  | .lduL2 d m w => some (((Raw.mk0 .w64 0x167 ((0 : BitVec 2) ++ w.bits)).withD (slot8 d)).withMem m)
  | .lduL3 d m w => some (((Raw.mk0 .w64 0x168 ((0 : BitVec 2) ++ w.bits)).withD (slot8 d)).withMem m)
  | .atAdd o => some ((Raw.mk0 .w96 0x169).withAt o)
  | .atMinI32 o => some ((Raw.mk0 .w96 0x16A).withAt o)
  | .atMaxI32 o => some ((Raw.mk0 .w96 0x16B).withAt o)
  | .atMinN32 o => some ((Raw.mk0 .w96 0x16C).withAt o)
  | .atMaxN32 o => some ((Raw.mk0 .w96 0x16D).withAt o)
  | .atAnd o => some ((Raw.mk0 .w96 0x16E).withAt o)
  | .atOr o => some ((Raw.mk0 .w96 0x16F).withAt o)
  | .atXor o => some ((Raw.mk0 .w96 0x170).withAt o)
  | .atXchg o => some ((Raw.mk0 .w96 0x171).withAt o)
  | .atXchg64 o => some ((Raw.mk0 .w96 0x172).withAt o)
  | .atCas o f => some (((Raw.mk0 .w96 0x173).withAt o).withF f)
  | .atCas64 o f => some (((Raw.mk0 .w96 0x174).withAt o).withF f)
  | .atFadd o => some ((Raw.mk0 .w96 0x175).withAt o)
  | .atAmaxx o => some ((Raw.mk0 .w96 0x176).withAt o)
  | .spinfo d n => some (((Raw.mk0 .w64 0x177).withD (slot8 d)).withHi 0 (n.setWidth 10))
  | .ldGm g d m w => some ((((Raw.mk0 .w64 0x190 ((0 : BitVec 2) ++ w.bits)).withG g).withD d).withMem m)
  | .lduGm d m w => some (((Raw.mk0 .w64 0x191 ((0 : BitVec 2) ++ w.bits)).withD (slot8 d)).withMem m)
  | .stGm g d m w => some ({ ((((Raw.mk0 .w64 0x192 ((0 : BitVec 2) ++ w.bits)).withG g).withD d.n).withMem m) with ha := d.hold })
  | .ldGmAcq g d m w => some ((((Raw.mk0 .w64 0x193 ((0 : BitVec 2) ++ w.bits)).withG g).withD d).withMem m)
  | .stGmRel g d m w => some ({ ((((Raw.mk0 .w64 0x194 ((0 : BitVec 2) ++ w.bits)).withG g).withD d.n).withMem m) with ha := d.hold })
  | .phase => some (Raw.mk0 .w64 0x195)
  | .fenceO => some (Raw.mk0 .w64 0x196)
  | .fenceR d m => some (((Raw.mk0 .w64 0x197).withD (slot8 d)).withFence m)
  | .evpost a e => some (((Raw.mk0 .w64 0x198).withSA a).withHi 0 e)
  | .evpostNb d a e => some ((((Raw.mk0 .w64 0x199).withD (slot8 d)).withSA a).withHi 0 e)
  | .evwm a e => some (((Raw.mk0 .w64 0x19A).withSA a).withHi 0 e)
  | .streamqTail d a e => some ((((Raw.mk0 .w64 0x19B 0).withD (slot8 d)).withSA a).withHi 0 e)
  | .streamqRel d a e => some ((((Raw.mk0 .w64 0x19B 1).withD (slot8 d)).withSA a).withHi 0 e)
  | .streamqWm d a e => some ((((Raw.mk0 .w64 0x19B 2).withD (slot8 d)).withSA a).withHi 0 e)
  | .streamqLate d a e => some ((((Raw.mk0 .w64 0x19B 3).withD (slot8 d)).withSA a).withHi 0 e)
  | .automap a e => some (((Raw.mk0 .w64 0x19C).withSA a).withHi 0 e)
  | .autounmap a e => some (((Raw.mk0 .w64 0x19D).withSA a).withHi 0 e)
  | .autoqSt d a => some (((Raw.mk0 .w64 0x19E 0).withD (slot8 d)).withSA a)
  | .autoqAcc d a => some (((Raw.mk0 .w64 0x19E 1).withD (slot8 d)).withSA a)
  | .autoqOvf d a => some (((Raw.mk0 .w64 0x19E 2).withD (slot8 d)).withSA a)
  | .autoqExp d a => some (((Raw.mk0 .w64 0x19E 3).withD (slot8 d)).withSA a)
  | .svcall a e => some (((Raw.mk0 .w64 0x19F).withSA a).withHi 0 e)
  | .chime d a b v => some (((((Raw.mk0 .w64 0x1A0).withD (slot8 d)).withSA a).withHi 0 (v.setWidth 10)).withChPayload b)
  | .chwait => some (Raw.mk0 .w64 0x1A1)
  | .chret => some (Raw.mk0 .w64 0x1A2)
  | .chpermDes d a => some (((Raw.mk0 .w64 0x1A3 0).withD (slot8 d)).withSA a)
  | .chpermSet d a b n => some (((((Raw.mk0 .w64 0x1A3 1).withD (slot8 d)).withSA a).withSB b).withHi 0 (n.setWidth 10))
  | .chpermVec d a v => some ((((Raw.mk0 .w64 0x1A3 2).withD (slot8 d)).withSA a).withHi 0 (v.setWidth 10))
  | .chpermEn d a => some (((Raw.mk0 .w64 0x1A3 3).withD (slot8 d)).withSA a)
  | .chinfoPend d => some ((Raw.mk0 .w64 0x1A4 0).withD (slot8 d))
  | .chinfoEn d => some ((Raw.mk0 .w64 0x1A4 1).withD (slot8 d))
  | .chinfoDeny d => some ((Raw.mk0 .w64 0x1A4 2).withD (slot8 d))
  | .chinfoVec d v => some (((Raw.mk0 .w64 0x1A4 3).withD (slot8 d)).withHi 0 (v.setWidth 10))
  | .chinfoVecTake d v => some (((Raw.mk0 .w64 0x1A4 7).withD (slot8 d)).withHi 0 (v.setWidth 10))
  | .perfclass d n => some (((Raw.mk0 .w64 0x1A8).withD (slot8 d)).withHi 0 (n.setWidth 10))
  | .perfq d => some ((Raw.mk0 .w64 0x1A9).withD (slot8 d))
  | .tmov d a e => some ((((Raw.mk0 .w64 0x1B0).withD (slot8 d)).withSA a).withHi 0 e)
  | .tmovV d a e => some ((((Raw.mk0 .w64 0x1B1).withD (slot8 d)).withSA a).withHi 0 e)
  | .tmovW d a e => some ((((Raw.mk0 .w64 0x1B2).withD (slot8 d)).withSA a).withHi 0 e)
  | .tmovR d a e => some ((((Raw.mk0 .w64 0x1B3).withD (slot8 d)).withSA a).withHi 0 e)
  | .tmovZ d a e => some ((((Raw.mk0 .w64 0x1B4).withD (slot8 d)).withSA a).withHi 0 e)
  | .rainit a b c n => some ((((Raw.mk0 .w64 0x1B5).withSA a).withSB b).withHi (slot8 c) (n.setWidth 10))
  | .rawait d a => some (((Raw.mk0 .w64 0x1B6).withD (slot8 d)).withSA a)
  | .rarel d a => some (((Raw.mk0 .w64 0x1B7).withD (slot8 d)).withSA a)
  | .gath a e => some (((Raw.mk0 .w64 0x1B8).withSA a).withHi 0 e)
  | .scat a e => some (((Raw.mk0 .w64 0x1B9).withSA a).withHi 0 e)
  | .collAr a e => some (((Raw.mk0 .w64 0x1BA).withSA a).withHi 0 e)
  | .collAg a e => some (((Raw.mk0 .w64 0x1BB).withSA a).withHi 0 e)
  | .collRs a e => some (((Raw.mk0 .w64 0x1BC).withSA a).withHi 0 e)
  | .collBc a e => some (((Raw.mk0 .w64 0x1BD).withSA a).withHi 0 e)
  | .collA2a a e => some (((Raw.mk0 .w64 0x1BE).withSA a).withHi 0 e)
  | .waitoc cls n => some ((Raw.mk0 .w64 0x1BF ((0 : BitVec 2) ++ cls)).withHi 0 (n.setWidth 10))
  | .ocrd cls d => some ((Raw.mk0 .w64 0x1C0 ((0 : BitVec 2) ++ cls)).withD (slot8 d))
  | .psleep a => some ((Raw.mk0 .w64 0x1C1).withSA a)
  | .cpydec a e => some (((Raw.mk0 .w64 0x1C2).withSA a).withHi 0 e)
  | .cpyenc a e => some (((Raw.mk0 .w64 0x1C3).withSA a).withHi 0 e)
  | .movts d b => some (((Raw.mk0 .w64 0x1D0).withD (slot8 d)).withShape b)
  | .twr g d a b => some (((((Raw.mk0 .w64 0x1D1).withG g).withD (slot8 d)).withA a).withSB b)
  | .trd g d a b => some ({ ((((Raw.mk0 .w64 0x1D2).withG g).withD d).withSB b) with a := slot8 a })
  | .trdT g d a b => some ({ ((((Raw.mk0 .w64 0x1D3).withG g).withD d).withSB b) with a := slot8 a })
  | .tzero d => some ((Raw.mk0 .w64 0x1D4).withD (slot8 d))
  | .sqgo d a => some (((Raw.mk0 .w64 0x1D5).withD (slot8 d)).withSA a)
  | .sqsig k => some ((Raw.mk0 .w64 0x1D6).withHi 0 (k.setWidth 10))
  | .sqwait k => some ((Raw.mk0 .w64 0x1D7).withHi 0 (k.setWidth 10))
  | .sqstat d => some ((Raw.mk0 .w64 0x1D8).withD (slot8 d))
  | .dialld d a e => some ((((Raw.mk0 .w64 0x1E0).withD (slot8 d)).withSA a).withHi 0 e)
  | .dialq d a => some ({ ((Raw.mk0 .w64 0x1E1).withD (slot8 d)) with a := slot8 a })
  | .dsadd o c => some (((Raw.mk0 .w64 0x1E2).withV2 o).withHi (slot8 c) 0)
  | .dssub o c => some (((Raw.mk0 .w64 0x1E3).withV2 o).withHi (slot8 c) 0)
  | .dsmul o c => some (((Raw.mk0 .w64 0x1E4).withV2 o).withHi (slot8 c) 0)
  | .dsdiv o c => some (((Raw.mk0 .w64 0x1E5).withV2 o).withHi (slot8 c) 0)
  | .dsneg o => some ((Raw.mk0 .w64 0x1E6).withVUn o)
  | .dsrcp o c => some (((Raw.mk0 .w64 0x1E7).withVUn o).withHi (slot8 c) 0)
  | .dssqr o c => some (((Raw.mk0 .w64 0x1E8).withVUn o).withHi (slot8 c) 0)
  | .dsuni o => some ((Raw.mk0 .w64 0x1E9).withV2 o)
  | .dsint o => some ((Raw.mk0 .w64 0x1EA).withV2 o)
  | .dscpl o => some ((Raw.mk0 .w64 0x1EB).withVUn o)
  | .dshull o => some ((Raw.mk0 .w64 0x1EC).withVUn o)
  | .dsexp o => some ((Raw.mk0 .w64 0x1ED).withVUn o)
  | .dsexpBlock g d a c e => some (((((Raw.mk0 .w64 0x1ED 1).withG g).withD d).withSA a).withHi (slot8 c) e)
  | .dsfrom o c => some (((Raw.mk0 .w64 0x1EE).withVUn o).withHi (slot8 c) 0)
  | .dsfromArc o c => some (((Raw.mk0 .w64 0x1EF).withV2 o).withHi (slot8 c) 0)
  | .dslo o c => some (((Raw.mk0 .w64 0x1F0).withVUn o).withHi (slot8 c) 0)
  | .dshi o c => some (((Raw.mk0 .w64 0x1F1).withVUn o).withHi (slot8 c) 0)
  | .dstestMeet g d a b => some (((((Raw.mk0 .w64 0x1F2).withG g).withD (slot8 d)).withA a).withB b)
  | .dstestIn g d a b => some (((((Raw.mk0 .w64 0x1F3).withG g).withD (slot8 d)).withA a).withB b)
  | .dsredUni g d a => some ((((Raw.mk0 .w64 0x1F4).withG g).withD (slot8 d)).withA a)
  | .dsredInt g d a => some ((((Raw.mk0 .w64 0x1F5).withG g).withD (slot8 d)).withA a)
  | _ => none

/-- The length that a word's low bits name (R37). -/
def lenOf (w : BitVec 128) : Option Len :=
  if w.extractLsb' 0 2 = 0 then some .w64
  else if w.extractLsb' 0 2 = 1 then some .w96
  else if w.extractLsb' 0 2 = 2 then some .w128
  else none

/-- The bits of a word at its length: what stands above it in memory is another word's. -/
def cutTo (len : Len) (w : BitVec 128) : BitVec 128 :=
  match len with
  | .w64 => w &&& (0xFFFFFFFFFFFFFFFF : BitVec 128)
  | .w96 => w &&& (0xFFFFFFFFFFFFFFFFFFFFFFFF : BitVec 128)
  | .w128 => w

/-- Decodes the gang word in the low bits of `w` (R43). The fetch-boundary check needs the PC and stands with fetch. -/
noncomputable def decodeGang (w : BitVec 128) : Except DecErr Instr :=
  match lenOf w with
  | none => .error ⟨2, false⟩
  | some len =>
    let w := cutTo len w
    let r := Raw.ofBits len w
    match r.desc with
    | none => .error ⟨4, false⟩
    | some t =>
      if t.fmt = .pair then
        match checkPair w with
        | some e => .error e
        | none => .ok (.pair (half0 w) (half1 w))
      else
        match t.check r with
        | some n => .error ⟨n, false⟩
        | none =>
          match r.build with
          | some i => .ok i
          | none => .error ⟨4, false⟩

/-- The word of a gang instruction with its length; none for an instruction that has no gang word. -/
def encodeGang (i : Instr) : Option (Len × BitVec 128) :=
  match i with
  | .pair h0 h1 => some (.w128, packPair h0 h1)
  | i => i.raw.map fun r => (r.len, r.pack)

/-- The fields of a sequencer word (R54). -/
structure SeqRaw where
  sop : BitVec 6
  td  : BitVec 4
  ta  : BitVec 4
  tb  : BitVec 4
  tx  : BitVec 4
  sm  : BitVec 8
  sk  : BitVec 32
  deriving DecidableEq, Repr

def SeqRaw.ofBits (w : BitVec 64) : SeqRaw :=
  ⟨w.extractLsb' 2 6, w.extractLsb' 8 4, w.extractLsb' 12 4, w.extractLsb' 16 4, w.extractLsb' 20 4,
    w.extractLsb' 24 8, w.extractLsb' 32 32⟩

def SeqRaw.pack (r : SeqRaw) : BitVec 64 :=
  r.sk ++ r.sm ++ r.tx ++ r.tb ++ r.ta ++ r.td ++ r.sop ++ (0 : BitVec 2)

/-- Which fields a sequencer opcode leaves reserved are 0 (R237). -/
def SeqRaw.reservedOk (r : SeqRaw) (td ta tb tx : Bool) (sm : BitVec 8) (sk : BitVec 32) : Bool :=
  (td || r.td == 0) && (ta || r.ta == 0) && (tb || r.tb == 0) && (tx || r.tx == 0) && ((r.sm &&& ~~~sm) == 0) &&
    ((r.sk &&& ~~~sk) == 0)


/-- A sequencer opcode's instruction, and whether its reserved fields are 0; none for a reserved opcode. -/
noncomputable def SeqRaw.build (r : SeqRaw) : Option (Bool × Instr) :=
  match r.sop.toNat with
  | 0x00 => some (r.reservedOk false false false false 0 0, .sqnop)
  | 0x01 => some (r.reservedOk false false false true 0 0, .sqarr r.tx)
  | 0x02 => some (r.reservedOk false false false true 0 0xFFFF, .sqwt r.tx (r.sk.setWidth 16))
  | 0x03 => some (r.reservedOk false false false false 0 0xFFFFFFFF, .sqjmp r.sk)
  | 0x04 => some (r.reservedOk false false false false 3 0xFFFFFFFF, .sqloop (r.sm.setWidth 2) (r.sk.extractLsb' 0 16) (r.sk.extractLsb' 16 16))
  | 0x05 => some (r.reservedOk false false false false 0 0, .sqend)
  | 0x06 => some (r.reservedOk true false false false 0xFF 0xFFFFFFFF, .tldq r.td r.sm r.sk)
  | 0x07 => some (r.reservedOk true false false false 0xFF 0xFFFFFFFF, .tstq r.td r.sm r.sk)
  | 0x08 => some (r.reservedOk true false false false 0 0, .tzq r.td)
  | 0x09 => some (r.reservedOk true true true false 1 0, .mmaT8 r.td r.ta r.tb (r.sm.getLsbD 0))
  | 0x0A => some (r.reservedOk true true true false 1 0, .mmaT6 r.td r.ta r.tb (r.sm.getLsbD 0))
  | 0x0B => some (r.reservedOk true true true false 1 0, .mmaF16 r.td r.ta r.tb (r.sm.getLsbD 0))
  | 0x0C => some (r.reservedOk true true true false 1 0, .mmaBf16 r.td r.ta r.tb (r.sm.getLsbD 0))
  | 0x0D => some (r.reservedOk true true true false 1 0, .mmaF32 r.td r.ta r.tb (r.sm.getLsbD 0))
  | 0x0E => some (r.reservedOk true true true false 1 0, .mmasT8 r.td r.ta r.tb (r.sm.getLsbD 0))
  | 0x0F => some (r.reservedOk true true true false 1 0, .mmasT6 r.td r.ta r.tb (r.sm.getLsbD 0))
  | 0x10 => some (r.reservedOk true true true true 1 0xFFFFFFFF, .gmmaT8 r.td r.ta r.tb r.tx (r.sm.getLsbD 0) r.sk)
  | 0x11 => some (r.reservedOk true true true true 1 0xFFFFFFFF, .gmmaT6 r.td r.ta r.tb r.tx (r.sm.getLsbD 0) r.sk)
  | 0x12 => some (r.reservedOk true true true true 1 0xFFFFFFFF, .gmmaF16 r.td r.ta r.tb r.tx (r.sm.getLsbD 0) r.sk)
  | 0x13 => some (r.reservedOk true true true true 1 0xFFFFFFFF, .gmmaBf16 r.td r.ta r.tb r.tx (r.sm.getLsbD 0) r.sk)
  | 0x14 => some (r.reservedOk true true true false 0 0, .tadd r.td r.ta r.tb)
  | 0x15 => some (r.reservedOk true true false false 0 0xFFFFFFFF, .tscale r.td r.ta r.sk)
  | 0x17 => some (r.reservedOk true true false false 0xFF 0, .tcvtT8 r.td r.ta r.sm)
  | 0x18 => some (r.reservedOk true true false false 0xFF 0, .tcvtT6 r.td r.ta r.sm)
  | 0x19 => some (r.reservedOk true true false false 0xFF 0, .tcvtF16 r.td r.ta r.sm)
  | 0x1A => some (r.reservedOk true true false false 0xFF 0, .tcvtBf16 r.td r.ta r.sm)
  | 0x16 => if r.sm.getLsbD 0 then some (r.reservedOk false false false false 1 0xFFFFFFFF, .tamaxRst r.sk)
      else some (r.reservedOk false true false false 1 0xFFFFFFFF, .tamax r.ta r.sk)
  | _ => none

/-- The word of a sequencer instruction. -/
def encodeSeq (i : Instr) : Option (BitVec 64) :=
  let z0 : SeqRaw := ⟨0, 0, 0, 0, 0, 0, 0⟩
  match i with
  | .sqnop => some (({ z0 with sop := 0x00 } : SeqRaw).pack)
  | .sqarr k => some (({ z0 with sop := 0x01, tx := k } : SeqRaw).pack)
  | .sqwt k n => some (({ z0 with sop := 0x02, tx := k, sk := n.setWidth 32 } : SeqRaw).pack)
  | .sqjmp off => some (({ z0 with sop := 0x03, sk := off } : SeqRaw).pack)
  | .sqloop c off n => some (({ z0 with sop := 0x04, sm := c.setWidth 8, sk := n ++ off } : SeqRaw).pack)
  | .sqend => some (({ z0 with sop := 0x05 } : SeqRaw).pack)
  | .tldq td sm sk => some (({ z0 with sop := 0x06, td := td, sm := sm, sk := sk } : SeqRaw).pack)
  | .tstq td sm sk => some (({ z0 with sop := 0x07, td := td, sm := sm, sk := sk } : SeqRaw).pack)
  | .tzq td => some (({ z0 with sop := 0x08, td := td } : SeqRaw).pack)
  | .mmaT8 td ta tb z => some (({ z0 with sop := 0x09, td := td, ta := ta, tb := tb, sm := (BitVec.ofBool z).setWidth 8 } : SeqRaw).pack)
  | .mmaT6 td ta tb z => some (({ z0 with sop := 0x0A, td := td, ta := ta, tb := tb, sm := (BitVec.ofBool z).setWidth 8 } : SeqRaw).pack)
  | .mmaF16 td ta tb z => some (({ z0 with sop := 0x0B, td := td, ta := ta, tb := tb, sm := (BitVec.ofBool z).setWidth 8 } : SeqRaw).pack)
  | .mmaBf16 td ta tb z => some (({ z0 with sop := 0x0C, td := td, ta := ta, tb := tb, sm := (BitVec.ofBool z).setWidth 8 } : SeqRaw).pack)
  | .mmaF32 td ta tb z => some (({ z0 with sop := 0x0D, td := td, ta := ta, tb := tb, sm := (BitVec.ofBool z).setWidth 8 } : SeqRaw).pack)
  | .mmasT8 td ta tb z => some (({ z0 with sop := 0x0E, td := td, ta := ta, tb := tb, sm := (BitVec.ofBool z).setWidth 8 } : SeqRaw).pack)
  | .mmasT6 td ta tb z => some (({ z0 with sop := 0x0F, td := td, ta := ta, tb := tb, sm := (BitVec.ofBool z).setWidth 8 } : SeqRaw).pack)
  | .gmmaT8 td ta tb tx z sk => some (({ z0 with sop := 0x10, td := td, ta := ta, tb := tb, tx := tx, sm := (BitVec.ofBool z).setWidth 8, sk := sk } : SeqRaw).pack)
  | .gmmaT6 td ta tb tx z sk => some (({ z0 with sop := 0x11, td := td, ta := ta, tb := tb, tx := tx, sm := (BitVec.ofBool z).setWidth 8, sk := sk } : SeqRaw).pack)
  | .gmmaF16 td ta tb tx z sk => some (({ z0 with sop := 0x12, td := td, ta := ta, tb := tb, tx := tx, sm := (BitVec.ofBool z).setWidth 8, sk := sk } : SeqRaw).pack)
  | .gmmaBf16 td ta tb tx z sk => some (({ z0 with sop := 0x13, td := td, ta := ta, tb := tb, tx := tx, sm := (BitVec.ofBool z).setWidth 8, sk := sk } : SeqRaw).pack)
  | .tadd td ta tb => some (({ z0 with sop := 0x14, td := td, ta := ta, tb := tb } : SeqRaw).pack)
  | .tscale td ta sk => some (({ z0 with sop := 0x15, td := td, ta := ta, sk := sk } : SeqRaw).pack)
  | .tcvtT8 td ta q => some (({ z0 with sop := 0x17, td := td, ta := ta, sm := q } : SeqRaw).pack)
  | .tcvtT6 td ta q => some (({ z0 with sop := 0x18, td := td, ta := ta, sm := q } : SeqRaw).pack)
  | .tcvtF16 td ta q => some (({ z0 with sop := 0x19, td := td, ta := ta, sm := q } : SeqRaw).pack)
  | .tcvtBf16 td ta q => some (({ z0 with sop := 0x1A, td := td, ta := ta, sm := q } : SeqRaw).pack)
  | .tamax ta sk => some (({ z0 with sop := 0x16, ta := ta, sk := sk } : SeqRaw).pack)
  | .tamaxRst sk => some (({ z0 with sop := 0x16, sm := 1, sk := sk } : SeqRaw).pack)
  | _ => none

/-- Decodes a sequencer word; the error is R230's reason for SEQ_FAULT, numbering the cases of R55. -/
noncomputable def decodeSeq (w : BitVec 64) : Except Nat Instr :=
  let r := SeqRaw.ofBits w
  if w.extractLsb' 0 2 ≠ 0 then .error 1
  else
    match r.build with
    | none => .error 2
    | some (ok, i) => if ok then .ok i else .error 3

/-- Decodes an Orangery hart's word: the posting extension of R366. A word of custom-0 with a reserved field is an illegal
instruction; every other word is one of RV64GCH (R364). -/
inductive HartWord where
  | ok (i : Instr) | illegal | base
  deriving DecidableEq, Repr

noncomputable def decodeHart (w : BitVec 32) : HartWord :=
  if w.extractLsb' 0 7 ≠ 0x0B then .base
  else if w.extractLsb' 20 12 ≠ 0 then .illegal
  else if w.extractLsb' 12 3 = 0 then .ok (.skEvpost (w.extractLsb' 7 5) (w.extractLsb' 15 5))
  else if w.extractLsb' 12 3 = 1 then .ok (.skEvwm (w.extractLsb' 7 5) (w.extractLsb' 15 5))
  else .illegal

/-- The word of a posting instruction (R366). -/
def encodeHart (i : Instr) : Option (BitVec 32) :=
  match i with
  | .skEvpost d a => some ((0 : BitVec 12) ++ a ++ (0 : BitVec 3) ++ d ++ (0x0B : BitVec 7))
  | .skEvwm d a => some ((0 : BitVec 12) ++ a ++ (1 : BitVec 3) ++ d ++ (0x0B : BitVec 7))
  | _ => none

/-- The bytes of a value, lowest first (R3). -/
def leBytes (n : Nat) (w : Nat) : List Byte :=
  match n with
  | 0 => []
  | k + 1 => BitVec.ofNat 8 w :: leBytes k (w / 256)

/-- The value of bytes, lowest first (R3). -/
def leNat : List Byte → Nat
  | [] => 0
  | b :: bs => b.toNat + 256 * leNat bs

/-- The instruction that a table word stands for: a word of 32 bits is an Orangery hart's (R366), a longer one a gang's
(R37). The bits above `nbits` are 0. -/
noncomputable def decodeTableWord (nbits w : Nat) : Option Instr :=
  let bytes := leBytes (nbits / 8) w
  if nbits = 32 then
    match decodeHart (BitVec.ofNat 32 (leNat bytes)) with
    | .ok i => some i
    | _ => none
  else
    match decodeGang (BitVec.ofNat 128 (leNat bytes)) with
    | .ok i => some i
    | .error _ => none

end Sys2Proof
end

