-- ==== Sys2Proof/Machine/Fetch.lean ====
section
/-! DEFINITION. Machine/Fetch.lean: the fetch of gang words through the instruction cache (R8, R46), the decode with its
fetch-boundary check (R43), what a word reads, and when a slot may issue. -/

namespace Sys2Proof.Machine

/-! ### Fetch of a gang's word (R46) -/

/-- How a fetch ends: the bytes from the address on, a wait, or a cause with its reason (R345). -/
inductive Fetched (α : Type) where
  | ok (x : α)
  | stall
  | fail (code reason : Nat)
  deriving DecidableEq, Repr

/-- An open or denied fault of a fetch: none when the fetch may go on. -/
def State.fetchHeld (s : State) (fid : Option Nat) : Option (Fetched (List Byte)) :=
  match fid with
  | none => none
  | some f => if s.faultOpen f then some .stall else if s.faultDenied f then some (.fail 0x07 6) else none

/-- Reads `n` bytes at an address as published, in a context; with the fault's FID where one is recorded. -/
def State.fetchAt (s : State) (ctx addr n : Nat) (k : AccKind) (w : FaultWho) (r : Requester) :
    Fetched (List Byte) × Option Nat × State :=
  match s.lookup ctx addr k .cores with
  | (.ok l _, s) =>
    let s := s.countAccess ctx addr r
    (if s.poisonedLoc l n then .fail 0x09 0 else .ok (s.readLoc l n), none, s)
  | (.hold, s) => (.stall, none, s)
  | (.absent, s) => (.fail 0x07 6, none, s)
  | (.refuse, s) => (.fail 0x08 0, none, s)
  | (.fault ty lv, s) => let x := s.faultRecord ctx addr ty lv w r []; (.stall, some x.1, x.2)
  | (.deny ty lv, s) => (.fail 0x07 6, none, (s.faultRecord ctx addr ty lv w r []).2)

/-- The check of R165 that a fetch address fails: its cause and reason. -/
def State.fetchCheck (s : State) (addr : Nat) (z : Nat) : Option (Nat × Nat) :=
  (firstFail s.domain [(0, (addr : Int))] z .load [1, 2, 3, 4, 5, 6, 7]).map fun f => checkCause f.1

/-- A line comes into the instruction cache of a core: 64 KiB of 64-byte lines (R8). A full cache gives up a line, which one is free. -/
def State.cacheLine (s : State) (core ctx n : Nat) (bs : List Byte) : State :=
  let c := s.core core
  if c.icache.length < 1024 then s.setCore core { c with icache := ((ctx, n), bs) :: c.icache }
  else
    let f := s.takeFree
    f.2.setCore core { c with icache := ((ctx, n), bs) :: c.icache.eraseIdx (Config.freeVictim f.1 % 1024) }

/-- The 64-byte line at a line number, from the instruction cache of a core or into it. -/
def State.codeLine (s : State) (P : Plot) (pc : Nat) (w : FaultWho) : Fetched (List Byte) × Option Nat × State :=
  let c := s.core P.core
  match assoc c.icache (P.ctx, pc / 64) with
  | some bs => (.ok bs, none, s)
  | none =>
    match s.fetchAt P.ctx (pc - pc % 64) 64 .fetch w (.die (dieOf P.core)) with
    | (.ok bs, _, s) => (.ok bs, none, s.cacheLine P.core P.ctx (pc / 64) bs)
    | x => x

/-- The 16 bytes from an offset of a line on, as one word: what stands past the line's end reads 0. -/
def lineWord (line : List Byte) (off : Nat) : BitVec 128 := BitVec.ofNat 128 (natOf (bytesAt line off 16))

/-- The word at a slot's PC, where its line is in the instruction cache. -/
def State.wordOf (s : State) (P : Plot) (S : PcSlot) : Option (BitVec 128) :=
  (assoc (s.core P.core).icache (P.ctx, S.pc.toNat / 64)).map fun line => lineWord line (S.pc.toNat % 64)

/-- The word at a slot's PC. -/
def State.fetchWord (s : State) (P : Plot) (G : Gang) (sl : SlotId) (S : PcSlot) :
    Fetched (BitVec 128) × Option Nat × State :=
  let pc := S.pc.toNat
  match s.fetchHeld S.fid with
  | some (.fail c r) => (.fail c r, none, s)
  | some _ => (.stall, S.fid, s)
  | none =>
    match s.fetchCheck pc 4 with
    | some e => (.fail e.1 e.2, none, s)
    | none =>
      match s.codeLine P pc ⟨P.lid, whoWord 0 0 G.idx sl 7, S.pc, AccKind.fetch.code⟩ with
      | (.ok line, _, s) => (.ok (lineWord line (pc % 64)), none, s)
      | (.stall, f, s) => (.stall, f, s)
      | (.fail c r, _, s) => (.fail c r, none, s)

/-- The trap of a fetch: TADDR is the PC (R46). -/
def fetchTrap (code reason : Nat) (pc : Word64) : TrapInfo := globalTrap code reason .load pc.toNat 0

/-! ### Decode at a PC (R43) -/

/-- The length code, the fetch boundary, then the other checks. -/
noncomputable def decodeAt (pc : Word64) (w : BitVec 128) : Except DecErr Instr :=
  match lenOf w with
  | none => .error ⟨2, false⟩
  | some len => if 32 < pc.toNat % 32 + len.bytes then .error ⟨3, false⟩ else decodeGang w

/-- The trap of a word that fails decode. -/
def decodeTrap (e : DecErr) (pc : Word64) : TrapInfo := { illegalTrap e.reason pc with half := e.half }

/-! ### Issue of a gang's word -/

/-! ### What a word names -/

/-- The registers of a slot of a kind. -/
def slotRegs (k : SlotK) (n : BitVec 8) : List Nat :=
  match k with
  | .v => [n.toNat]
  | .pr => [n.toNat, n.toNat + 1]
  | _ => []

/-- The operand positions that hold a latch (R95). -/
inductive Pos where
  | a | b | c
  deriving DecidableEq, Repr

/-- The opcodes whose slot D is a source: the stores (R41). -/
def storesD (op : Nat) : Bool := (decide (0x163 ≤ op) && decide (op ≤ 0x165)) || op == 0x192 || op == 0x194

/-- The vector sources of a word: position and register. -/
def wordSources (w : BitVec 128) : List (Pos × Nat) :=
  match lenOf w with
  | none => []
  | some len =>
    let r := Raw.ofBits len (cutTo len w)
    match r.desc with
    | none => []
    | some t =>
      let at_ (p : Pos) (k : SlotK) (n : BitVec 8) : List (Pos × Nat) := (slotRegs k n).map fun v => (p, v)
      match t.fmt with
      | .pair => [half0 w, half1 w].flatMap fun h => [Pos.a, .b, .c].zip (h.sources.map (·.toNat))
      | .ma => at_ .a t.f r.f ++ at_ .b t.b r.b ++ at_ .c t.c r.mc
      | .m => (if storesD r.op.toNat then at_ .a t.d r.d else []) ++ at_ .b t.b r.b
      | .g => at_ .a t.a r.a ++ at_ .b t.b r.b ++ at_ .c t.c r.c
      | _ => []

/-- The word reads a tile register: TRD and TRD.T (R233). -/
def wordReadsTile (w : BitVec 128) : Bool := w.extractLsb' 2 9 == 0x1D2 || w.extractLsb' 2 9 == 0x1D3

/-! ### When a slot may issue -/

/-- The slot may issue a word: its plot is on its core, no plot of the core comes to its halt (R352), it waits for nothing, no fault has
found the log full (R327), and no denial is due to trap first (R328). -/
def State.mayIssue (s : State) (P : Plot) (G : Gang) (S : PcSlot) : Bool :=
  P.place == .resident && !s.halting P.core && G.life == .running && S.wait.issues && !s.logFull G && !s.denialDue G

end Sys2Proof.Machine
end

