-- ==== Sys2Proof/Machine/Firmware.lean ====
section
/-! DEFINITION. Machine/Firmware.lean: boot, the image and the recovery loader (R378 to R380), the life cycle and wiping
(R381), the governors (R382), routing (R355), monitors (R388), soft errors (R385, R386), attestation (R384) and the recovery
log (R354). -/

namespace Sys2Proof.Machine

/-! ### The image (R379) -/

/-- A signature under a key that the life-cycle state accepts (R381): the production key, and before PRODUCTION the development key too. -/
def LifeCycle.accepts (l : LifeCycle) (msg sig : List Byte) : Bool :=
  let prod := ecdsaOk Config.productionKey msg sig
  match l with
  | .blank => prod || ecdsaOk Config.developmentKey msg sig
  | .develop => prod || ecdsaOk Config.developmentKey msg sig
  | .production => prod
  | .decommissioned => false

/-- What debug access a life-cycle state gives (R381). The spec gives debug access no effect of its own. -/
inductive DebugAccess where
  | open_ | supervisor | none
  deriving DecidableEq, Repr

def LifeCycle.debug (l : LifeCycle) : DebugAccess :=
  match l with
  | .blank => .open_
  | .develop => .supervisor
  | .production => .none
  | .decommissioned => .none

/-- The reason code of the first failing check of an image (R379, R380): 1 MAGIC, 2 reserved byte, 3 LEN, 4 SVN, 5 signature. -/
def Firmware.imageBad (f : Firmware) : Option Nat :=
  let img := f.flash
  let len := fieldAt img 8 8
  if fieldAt img 0 4 ≠ 0x57464B53 then some 1
  else if fieldAt img 16 16 ≠ 0 then some 2
  else if len < 64 ∨ 2 ^ 26 < len then some 3
  else if fieldAt img 4 4 < f.minSvn then some 4
  else if f.life.accepts (bytesAt img 0 32 ++ bytesAt img 128 len) (bytesAt img 32 96) then none
  else some 5

/-! ### The recovery log (R354) -/

/-- The records of an emergency area that have not been restored (STATE 1): whether each is complete. Records follow each other by LEN,
restored ones (STATE 3) among them; an area ends where neither begins. -/
def scanArea (host : Store) (addr : Nat) : Nat → List Bool
  | 0 => []
  | n + 1 =>
    let state := host.nat addr 4
    let len := host.nat (addr + 24) 8
    if (state ≠ 1 ∧ state ≠ 3) ∨ len = 0 then (if state = 1 then [false] else [])
    else (if state = 1 then [host.nat (addr + len - 8) 8 == host.nat (addr + 32) 8] else []) ++ scanArea host (addr + len) n

/-- One entry for each context with records in its area. -/
def recoveryLog (host : Store) (areas : List (Nat × Nat)) : List (Nat × Recovery) :=
  areas.filterMap fun c =>
    match scanArea host c.2 512 with
    | [] => none
    | l => some (c.1, if l.all id then Recovery.restorable else .lost)

/-! ### RESET_BOOT (R378) -/

/-- What a reset leaves: every SRAM and HBM location is zero; the fuses, the flash, the keys, the recovery log and memory outside the
part stand. A power-up finds the emergency areas to read (R354). -/
def State.wiped (s : State) : State :=
  { State.reset with
    host := s.host
    peers := s.peers
    agenda := s.agenda
    free := s.free
    fw := { Firmware.reset with
      flash := s.fw.flash
      life := s.fw.life
      minSvn := s.fw.minSvn
      streamKey := s.fw.streamKey
      recovery := s.fw.recovery
      areas := if s.power then s.fw.areas else some (s.contexts.map fun c => (c.1, c.2.emergency))
      identity := s.fw.identity } }

/-- The boot ROM: it wipes, reads the image and verifies it; then the governors start, or the recovery loader does. Firmware that
starts first since the power came up reads the emergency areas and writes the recovery log. -/
def State.boot (s : State) : State :=
  let w := s.wiped
  match w.fw.imageBad with
  | none => { w with fw := { w.fw with
      boot := .running
      runSvn := fieldAt w.fw.flash 4 4
      recovery := (w.fw.areas.map (recoveryLog w.host)).getD w.fw.recovery
      areas := none } }
  | some r => { w with fw := { w.fw with boot := .loader, reason := r } }

def execResetBoot (s : State) : Res := .next s.boot

/-- The recovery loader takes an image from the mailbox (R380). A failed write leaves the loader running, with a part of
the image in flash: how much is a free value. In DECOMMISSIONED the loader only reports (R381). -/
def execRecoveryImageWrite (img : List Byte) (ok : Bool) (s : State) : Res :=
  if s.fw.boot ≠ .loader ∨ s.fw.life = .decommissioned then .next s
  else if ok then .next (State.boot { s with fw := { s.fw with flash := img } })
  else
    let f := s.takeFree
    let n := (Config.freeResult f.1).toNat % (img.length + 1)
    .next { f.2 with fw := { s.fw with flash := img.take n ++ s.fw.flash.drop n } }

/-! ### Life cycle, SVN, lock step -/

def LifeCycle.next (l : LifeCycle) : Option LifeCycle :=
  match l with
  | .blank => some .develop
  | .develop => some .production
  | .production => some .decommissioned
  | .decommissioned => none

/-- The identity key exists: it is generated when the part leaves BLANK and erased in DECOMMISSIONED (R381, R384). -/
def LifeCycle.hasKey (l : LifeCycle) : Bool := l == .develop || l == .production

/-- A signed request moves the part to the next state, wipes it and resets it (R381). -/
def execLifecycleTransition (signed : Bool) (s : State) : Res :=
  match s.fw.life.next with
  | some l => if signed then .next (State.boot { s with fw := { s.fw with life := l, identity := l.hasKey } }) else .next s
  | none => .next s

/-- The booted image raises the fused minimum to its SVN on the host's request, which comes through the supervisor interface of port 0's
physical function (R357, R379). -/
def execSvnRaise (s : State) : Res :=
  .next (s.supervised [.port0pf] { s with fw := { s.fw with minSvn := max s.fw.minSvn s.fw.runSvn } })

/-- The contexts that a lock-step mismatch marks: those with an entry in the recovery log, and those that the part holds. -/
def State.lostContexts (s : State) : List (Nat × Recovery) :=
  ((s.fw.recovery.map (·.1) ++ s.contexts.map (·.1)).eraseDups).map fun c => (c, Recovery.lost)

/-- The governors disagree: every core halts with no save, every context is LOST, and the part resets (R382). -/
def execLockstepMismatch (s : State) : Res :=
  if s.booted then .next (State.boot { s with fw := { s.fw with recovery := s.lostContexts } }) else .next s

/-! ### The routing table (R355) -/

def State.setRoute (s : State) (src : RouteSrc) (v : Word × Option Claimant) : State :=
  { s with fw := { s.fw with routing := assocPut s.fw.routing src v } }

/-- A claimant's access to the table, through the supervisor interface of the running firmware (R355, R380, R383). -/
def State.atTable (s : State) (who : Claimant) (go : State) : State :=
  let m := match who with
    | .host => Master.port0pf
    | .orangery => Master.harts
  if !s.booted then s else if s.tableAllows targetSupervisor m .store then go else s.answered .denied

/-- A claim of an unclaimed entry; a claimed one answers BUSY and stays. -/
def execRoutingClaim (src : RouteSrc) (who : Claimant) (s : State) : Res :=
  let e := s.fw.route src
  .next (s.atTable who (if e.2.isNone then (s.setRoute src (e.1, some who)).answered .ok else s.answered .busy))

/-- Only the owner writes VEC. -/
def execRoutingVecWrite (src : RouteSrc) (who : Claimant) (v : Word) (s : State) : Res :=
  .next (s.atTable who (if (s.fw.route src).2 = some who then (s.setRoute src (v, some who)).answered .ok else s.answered .denied))

/-- Only the owner releases the entry. -/
def execRoutingRelease (src : RouteSrc) (who : Claimant) (s : State) : Res :=
  let e := s.fw.route src
  .next (s.atTable who (if e.2 = some who then (s.setRoute src (e.1, none)).answered .ok else s.answered .denied))

/-! ### Monitors (R388) -/

/-- A write of a monitor's control word: EVENT, SCOPE and EN are kept; CLR zeroes the results in one step. -/
def execMonitorControlWrite (cluster n : Nat) (v : Word64) (s : State) : Res :=
  let x := s.cluster cluster
  let ctl := v &&& 0xFFF1
  let old := x.mons.getD n (Monitor.cleared 0xF0)
  .next (s.supervised [.port0pf, .harts, .governors] (if cluster < 32 then
    s.setCluster cluster { x with mons := x.mons.set n (if v.getLsbD 1 then Monitor.cleared ctl else { old with ctl := ctl }) } else s))

/-! ### Soft errors (R385, R386) -/

/-- The scrubber reads all of HBM; the errors that it finds are soft errors like any other. -/
def execScrubPass (s : State) : Res := .next s

/-- An uncorrectable 64-bit word: both of its aligned 4-byte words are poisoned. -/
def Store.spoil (t : Store) (a : Nat) : Store :=
  let w := 2 * (a / 8)
  { t with poison := w :: (w + 1) :: t.poison.filter fun x => x != w && x != w + 1 }

/-- A soft error: ECC corrects it and counts it; or it poisons a word of memory or a scratchpad; or it drops an instruction-cache line,
which is then fetched again. -/
def State.softError (s : State) (e : SoftError) : State :=
  match e with
  | .corrected => { s with fw := { s.fw with corrected := s.fw.corrected + 1 } }
  | .hbm a => if a < 4 * 2 ^ 37 then { s with hbm := s.hbm.spoil a } else s
  | .bower p a =>
    match s.plot? p with
    | some P => if a < P.tmpl.l1s then s.setPlot { P with bower := P.bower.spoil a } else s
    | none => s
  | .pad n a =>
    match s.pads.find n with
    | some q => if a < q.size then { s with pads := s.pads.put n { q with store := q.store.spoil a } } else s
    | none => s
  | .icache core ctx line =>
    match s.cores.find core with
    | some c => s.setCore core { c with icache := c.icache.filter fun l => l.1 != (ctx, line) }
    | none => s

/-- The word that a plot's stream executes: the matrix word under way, or the word of the line at its PC. -/
def SeqStream.cached (q : SeqStream) : Option (BitVec 64) :=
  q.word <|> match q.line with
    | some (n, bs) => if n = q.pc.toNat / 64 then some (BitVec.ofNat 64 (fieldAt bs (q.pc.toNat % 64) 8)) else none
    | none => none

/-- A sequencer word that reads a tile: TSTQ, MMA, MMAS, GMMA, TADD, TSCALE, TAMAX and TCVT (R55). -/
def seqReadsTile (w : BitVec 64) : Bool :=
  let op := (w.extractLsb' 2 6).toNat
  op == 0x07 || (decide (0x09 ≤ op) && decide (op ≤ 0x1A))

/-- The plot of a word that reads a bad register or tile is suspended at that word (R386, R347). -/
def State.stateError (s : State) (P : Plot) (G : Gang) (sl : SlotId) (tile : Bool) : State :=
  let t : TrapInfo := { code := 0x09, info := if tile then 0xF1 else 0xF0 }
  (s.setPlot (P.suspend G.idx G.inTrap)).setGang (G.trapState t sl false)

/-- An uncorrectable error in the register pool or a tile file is found by the word that reads it: the next word of a gang's slot, or,
with no slot, the word of the plot's stream; the trap state of that is gang `g`'s (DESIGN CHOICE, log 25). -/
def execUncorrectableStateError (p g : Nat) (sl : Option SlotId) (tile : Bool) (s : State) : Res :=
  match sl with
  | some sl => s.onSlot p g sl fun P G S =>
    let reads (w : BitVec 128) : Bool := if tile then wordReadsTile w else !(wordSources w).isEmpty
    if s.mayIssue P G S && (s.wordOf P S).any reads then s.stateError P G sl tile else s
  | none => s.onGang p g fun P G =>
    if tile && G.life == .running && P.stream.state == .run && !P.stream.stop && P.stream.cached.any seqReadsTile then s.stateError P G .A true
    else s

/-! ### Attestation (R384) -/

def LifeCycle.code (l : LifeCycle) : Nat :=
  match l with
  | .blank => 0
  | .develop => 1
  | .production => 2
  | .decommissioned => 3

def Tdisp.code (t : Tdisp) : Nat :=
  match t with
  | .unlocked => 0
  | .locked => 1
  | .run => 2
  | .error => 3

/-- The signed part of a report: the nonce, the life-cycle state, both SVNs, the image's hash and the interface's state. -/
def State.reportBody (s : State) (vf : Nat) (nonce : BitVec 256) : List Byte :=
  leOf 32 nonce.toNat ++ leOf 1 s.fw.life.code ++ leOf 4 s.fw.minSvn ++ leOf 4 s.fw.runSvn ++
    sha384 (bytesAt s.fw.flash 0 (128 + fieldAt s.fw.flash 8 8)) ++ leOf 1 (((s.vfs.find vf).map Interface.tdisp).getD Tdisp.unlocked).code

/-- GET_MEASUREMENTS: in PRODUCTION and DEVELOP a report signed with the identity key; refused otherwise (R381). -/
def execGetMeasurements (vf : Nat) (nonce : BitVec 256) (s : State) : Res :=
  let b := s.reportBody vf nonce
  .next (s.secured .load
    (if s.fw.life.hasKey && s.fw.identity then
      State.answered { s with fw := { s.fw with report := b ++ ecdsaSign Config.identityKey (Config.freeOnce b) b } } .ok
     else State.answered { s with fw := { s.fw with report := [] } } .denied))

end Sys2Proof.Machine
end

