-- ==== Sys2Proof/WellFormed.lean ====
section
/-! DEFINITION. WellFormed.lean: which operands an instruction may have, said on the instruction itself: register
numbers (R39), register pairs (R130), hold bits (R41), counts (R107), selectors (R91), and the conditions of PAIR
(R48, R49). `Decode.lean` makes the same checks on the fields of a word; an obligation says that the two agree. -/

namespace Sys2Proof

/-- A vector register number (R39). -/
def vregOk (d : VReg) : Bool := decide (d.toNat < 192)

/-- The lower register of a pair (R130): the upper one is v191 at most. -/
def vpairOk (d : VReg) : Bool := decide (d.toNat < 191)

def HReg.wf (r : HReg) : Bool := vregOk r.n

def VSrc.wf : VSrc → Bool
  | .reg r => r.wf
  | .e10 _ => true
  | .k32 _ => true

def VBin.wf (o : VBin) : Bool := vregOk o.d && o.a.wf && o.b.wf
def VTri.wf (o : VTri) : Bool := vregOk o.d && o.a.wf && o.b.wf && o.c.wf
def VUn.wf (o : VUn) : Bool := vregOk o.d && o.a.wf
def V2.wf (o : V2) : Bool := vregOk o.d && o.a.wf && o.b.wf
def V3.wf (o : V3) : Bool := vregOk o.d && o.a.wf && o.b.wf && o.c.wf

/-- A vector index is a vector register; the others are bounded by their types (R41). -/
def MemRef.wf (m : MemRef) : Bool :=
  match m.idx with
  | .vec r => r.wf
  | _ => true

/-- A uniform load takes no vector index (R43). -/
def Idx.uniform : Idx → Bool
  | .vec _ => false
  | _ => true

/-- The data register of an access: a pair at the .X64 width (R155). -/
def dataOk (w : Width) (d : VReg) : Bool := if w = .x64 then vpairOk d else vregOk d

/-- An atomic's operands (R158): pairs in the 64-bit forms, with no hold bit; an ordering only in GM (R40). -/
def AtOps.wf (o : AtOps) (wide : Bool) : Bool :=
  (match o.idx with
   | .vec r => r.wf
   | _ => true) &&
  (if wide then vpairOk o.d && vpairOk o.c.n && !o.c.hold else vregOk o.d && o.c.wf) &&
  (o.ord == .rlx || o.space == .gm)

/-- R107: a multiple of 8 from 8 to 184. -/
def regCountOk (n : BitVec 10) : Bool := n.toNat != 0 && n.toNat % 8 == 0 && decide (n.toNat ≤ 184)

/-- R91: the assigned selectors. -/
def readableSel (e : BitVec 10) : Bool :=
  decide (e.toNat < 0x0B) || (decide (0x10 ≤ e.toNat) && decide (e.toNat < 0x18)) ||
    (decide (0x20 ≤ e.toNat) && decide (e.toNat < 0x24)) || (decide (0x30 ≤ e.toNat) && decide (e.toNat < 0x34))

/-- How many sources a mini-opcode has (R48); none if it is reserved. -/
def miniSources (m : BitVec 7) : Option Nat :=
  let n := m.toNat
  if [0x09, 0x0A, 0x0E, 0x13, 0x14, 0x15, 0x27, 0x28, 0x29, 0x40, 0x41, 0x42, 0x43, 0x45, 0x47].contains n then some 1
  else if [0x04, 0x19, 0x1A, 0x23, 0x24, 0x2C, 0x2D, 0x2E, 0x2F].contains n then some 3
  else if 0x50 ≤ n ∧ n ≤ 0x58 then some 1
  else if (0x01 ≤ n ∧ n ≤ 0x1A) ∨ (0x20 ≤ n ∧ n ≤ 0x2F) ∨ n = 0x44 ∨ n = 0x46 then some 2
  else none

/-- The mini-opcodes with a rounding modifier. -/
def miniRounds (m : BitVec 7) : Bool :=
  [0x20, 0x21, 0x22, 0x23, 0x24, 0x2A, 0x2B, 0x2C, 0x2D, 0x2E, 0x2F, 0x40, 0x41, 0x42, 0x43, 0x44, 0x46].contains m.toNat

/-- A half of a PAIR word: the checks of its operation alone (R49). -/
def Half.wf (h : Half) : Bool :=
  match miniSources h.mini with
  | none => false
  | some n =>
    (miniRounds h.mini || h.m2 == 0) && vregOk h.d && vregOk h.a &&
      (if 2 ≤ n then vregOk h.b else h.b == 0 && !h.hb) && (if 3 ≤ n then vregOk h.c else h.c == 0 && !h.hc)

/-- The registers that a half reads. -/
def Half.reads (h : Half) : List VReg :=
  match miniSources h.mini with
  | some 1 => [h.a]
  | some 2 => [h.a, h.b]
  | some 3 => [h.a, h.b, h.c]
  | _ => []

/-- R49: independence, banks and class. -/
def halvesOk (h0 h1 : Half) : Bool :=
  let u := (h0.reads ++ h1.reads).eraseDups
  !h1.reads.contains h0.d && h0.d != h1.d && !h0.reads.contains h1.d &&
    (u.map fun v => v.toNat % 6).eraseDups.length == u.length &&
    !(decide (0x40 ≤ h0.mini.toNat) && decide (0x40 ≤ h1.mini.toNat))

/-- The operands of an instruction are ones that its encodings admit. The sequencer words, the posting words and the
machine steps have no operand that their types do not already bound. -/
def Instr.wf (i : Instr) : Bool :=
  match i with
  | .nop _ _ => true
  | .bra _ => true
  | .brc _ _ => true
  | .brcAny _ _ => true
  | .brcAll _ _ => true
  | .brsZ _ _ => true
  | .brsNz _ _ => true
  | .brx _ => true
  | .call _ _ => true
  | .callx _ _ => true
  | .ret _ => true
  | .join => true
  | .exit _ => true
  | .exitD _ _ _ => true
  | .exitH _ _ => true
  | .sleep _ => true
  | .waitcEq _ => true
  | .waitcNe _ => true
  | .waitcGe _ => true
  | .bar _ => true
  | .barPh _ => true
  | .bararr _ => true
  | .barwait _ => true
  | .barredAdd _ _ _ => true
  | .barredMin _ _ _ => true
  | .barredMax _ _ _ => true
  | .barredAnd _ _ _ => true
  | .barredOr _ _ _ => true
  | .barredFadd _ _ _ => true
  | .barscanAdd _ _ _ => true
  | .barscanFadd _ _ _ => true
  | .yield => true
  | .trap _ => true
  | .tret => true
  | .vadd o => o.wf
  | .vsub o => o.wf
  | .vaddc o => o.wf
  | .vaddsI32 o => o.wf
  | .vsubsI32 o => o.wf
  | .vmul o => o.wf
  | .vmulhI32 o => o.wf
  | .vmulhN32 o => o.wf
  | .vmulwI32 o => vpairOk o.d && o.a.wf && o.b.wf
  | .vmad o => o.wf
  | .vminI32 o => o.wf
  | .vminN32 o => o.wf
  | .vmaxI32 o => o.wf
  | .vmaxN32 o => o.wf
  | .vabs o => o.wf
  | .vneg o => o.wf
  | .vand o => o.wf
  | .vor o => o.wf
  | .vxor o => o.wf
  | .vnot o => o.wf
  | .vshl o => o.wf
  | .vshr o => o.wf
  | .vsra o => o.wf
  | .vrot o => o.wf
  | .vpopc o => o.wf
  | .vclz o => o.wf
  | .vbrev o => o.wf
  | .vaddI16x2 o => o.wf
  | .vsubI16x2 o => o.wf
  | .vmulI16x2 o => o.wf
  | .vdot4I8 o => o.wf
  | .vdot4N8 o => o.wf
  | .vcmpEq o => o.a.wf && o.b.wf
  | .vcmpNe o => o.a.wf && o.b.wf
  | .vcmpLtI32 o => o.a.wf && o.b.wf
  | .vcmpLeI32 o => o.a.wf && o.b.wf
  | .vcmpLtN32 o => o.a.wf && o.b.wf
  | .vcmpLeN32 o => o.a.wf && o.b.wf
  | .vsel o => vregOk o.d && o.a.wf && o.b.wf
  | .vmov o => o.wf
  | .vmovi _ d _ => vregOk d
  | .vbcast _ d _ => vregOk d
  | .vlane _ d => vregOk d
  | .vshflIdx o => o.wf
  | .vshflXor o => o.wf
  | .vshflUp o => o.wf
  | .vshflDn o => o.wf
  | .vshflRot o => o.wf
  | .vredAdd _ _ a => a.wf
  | .vredMinI32 _ _ a => a.wf
  | .vredMaxI32 _ _ a => a.wf
  | .vredAnd _ _ a => a.wf
  | .vredOr _ _ a => a.wf
  | .vext _ a _ => a.wf
  | .vins d _ _ => vregOk d
  | .vrel n => regCountOk n
  | .vclaim n => regCountOk n
  | .vclaimNb _ n => regCountOk n
  | .vquery _ => true
  | .sadd _ => true
  | .ssub _ => true
  | .smul _ => true
  | .smulhI64 _ => true
  | .smulhN64 _ => true
  | .sdivI64 _ => true
  | .sdivN64 _ => true
  | .sremI64 _ => true
  | .sremN64 _ => true
  | .sand _ => true
  | .sor _ => true
  | .sxor _ => true
  | .snot _ _ => true
  | .sshl _ => true
  | .sshr _ => true
  | .ssra _ => true
  | .srot _ => true
  | .sbfe _ _ _ _ => true
  | .sbfi _ _ _ _ => true
  | .sminI64 _ => true
  | .sminN64 _ => true
  | .smaxI64 _ => true
  | .smaxN64 _ => true
  | .scmpEq _ => true
  | .scmpNe _ => true
  | .scmpLtI64 _ => true
  | .scmpLeI64 _ => true
  | .scmpLtN64 _ => true
  | .scmpLeN64 _ => true
  | .ssel _ _ _ _ => true
  | .smov _ _ => true
  | .smovi _ _ => true
  | .slea _ _ => true
  | .spopc _ _ => true
  | .sclz _ _ => true
  | .pand _ _ _ _ => true
  | .por _ _ _ _ => true
  | .pxor _ _ _ _ => true
  | .pnot _ _ _ => true
  | .pmovSp _ _ e => e != 3
  | .pmovPs _ _ e => e != 3
  | .ppopc _ _ => true
  | .movsr _ sel => readableSel sel
  | .movrs _ sel => sel == 0x10 || sel == 0x20
  | .faddF32 o _ => o.wf
  | .fsubF32 o _ => o.wf
  | .fmulF32 o _ => o.wf
  | .fmaF32 o _ => o.wf
  | .fnmaF32 o _ => o.wf
  | .fminF32 o => o.wf
  | .fmaxF32 o => o.wf
  | .fabsF32 o => o.wf
  | .fnegF32 o => o.wf
  | .fsatF32 o => o.wf
  | .fcmpEq o => o.a.wf && o.b.wf
  | .fcmpLt o => o.a.wf && o.b.wf
  | .fcmpLe o => o.a.wf && o.b.wf
  | .fcmpUn o => o.a.wf && o.b.wf
  | .fclass o => o.wf
  | .frnd o _ => o.wf
  | .fscale o _ => o.wf
  | .faddF64 _ d a b _ => vpairOk d && vpairOk a && vpairOk b
  | .fmulF64 _ d a b _ => vpairOk d && vpairOk a && vpairOk b
  | .fmaF64 _ d a b c _ => vpairOk d && vpairOk a && vpairOk b && vpairOk c
  | .faddF16x2 o _ => o.wf
  | .fmulF16x2 o _ => o.wf
  | .fmaF16x2 o _ => o.wf
  | .fmaBf16x2 o _ => o.wf
  | .fdot2F16 o _ => o.wf
  | .fdot2Bf16 o _ => o.wf
  | .cvtF32I32 o _ => o.wf
  | .cvtF32N32 o _ => o.wf
  | .cvtI32F32 o _ => o.wf
  | .cvtN32F32 o _ => o.wf
  | .cvtF32F64 _ d a _ => vregOk d && vpairOk a
  | .cvtF64F32 o => vpairOk o.d && o.a.wf
  | .cvtF16x2F32 o _ => o.wf
  | .cvtF32F16 o _ => o.wf
  | .cvtBf16x2F32 o _ => o.wf
  | .cvtF32Bf16 o _ => o.wf
  | .cvtT8F32 o => vregOk o.d && o.a.wf
  | .cvtF32T8 o _ => vregOk o.d && o.a.wf
  | .cvtT6F32 o => vregOk o.d && o.a.wf
  | .cvtF32T6 o _ => vregOk o.d && o.a.wf
  | .blkpackT8 _ _ _ b _ => b.wf
  | .blkpackT6 _ _ _ b _ => b.wf
  | .blkunpk _ d _ _ _ => vregOk d
  | .frcp o => o.wf
  | .frsq o => o.wf
  | .fsqrt o => o.wf
  | .fdiv o => o.wf
  | .fexp2 o => o.wf
  | .flog2 o => o.wf
  | .fsin o => o.wf
  | .fcos o => o.wf
  | .ftanh o => o.wf
  | .fsigm o => o.wf
  | .idivI32 o => o.wf
  | .idivN32 o => o.wf
  | .iremI32 o => o.wf
  | .iremN32 o => o.wf
  | .ldL1 _ d m w => m.wf && dataOk w d
  | .ldL2 _ d m w => m.wf && dataOk w d
  | .ldL3 _ d m w => m.wf && dataOk w d
  | .stL1 _ d m w => m.wf && dataOk w d.n && (w != .x64 || !d.hold)
  | .stL2 _ d m w => m.wf && dataOk w d.n && (w != .x64 || !d.hold)
  | .stL3 _ d m w => m.wf && dataOk w d.n && (w != .x64 || !d.hold)
  | .lduL1 _ m _ => m.wf && m.idx.uniform
  | .lduL2 _ m _ => m.wf && m.idx.uniform
  | .lduL3 _ m _ => m.wf && m.idx.uniform
  | .atAdd o => o.wf false
  | .atMinI32 o => o.wf false
  | .atMaxI32 o => o.wf false
  | .atMinN32 o => o.wf false
  | .atMaxN32 o => o.wf false
  | .atAnd o => o.wf false
  | .atOr o => o.wf false
  | .atXor o => o.wf false
  | .atXchg o => o.wf false
  | .atXchg64 o => o.wf true
  | .atCas o f => o.wf false && f.wf
  | .atCas64 o f => o.wf true && vpairOk f.n && !f.hold
  | .atFadd o => o.wf false
  | .atAmaxx o => o.wf false
  | .spinfo _ n => n != 3
  | .ldGm _ d m w => m.wf && dataOk w d
  | .lduGm _ m _ => m.wf && m.idx.uniform
  | .stGm _ d m w => m.wf && dataOk w d.n && (w != .x64 || !d.hold)
  | .ldGmAcq _ d m w => m.wf && dataOk w d
  | .stGmRel _ d m w => m.wf && dataOk w d.n && (w != .x64 || !d.hold)
  | .phase => true
  | .fenceO => true
  | .fenceR _ _ => true
  | .evpost _ _ => true
  | .evpostNb _ _ _ => true
  | .evwm _ _ => true
  | .streamqTail _ _ _ => true
  | .streamqRel _ _ _ => true
  | .streamqWm _ _ _ => true
  | .streamqLate _ _ _ => true
  | .automap _ _ => true
  | .autounmap _ _ => true
  | .autoqSt _ _ => true
  | .autoqAcc _ _ => true
  | .autoqOvf _ _ => true
  | .autoqExp _ _ => true
  | .svcall _ _ => true
  | .chime _ _ _ _ => true
  | .chwait => true
  | .chret => true
  | .chpermDes _ _ => true
  | .chpermSet _ _ _ _ => true
  | .chpermVec _ _ _ => true
  | .chpermEn _ _ => true
  | .chinfoPend _ => true
  | .chinfoEn _ => true
  | .chinfoDeny _ => true
  | .chinfoVec _ _ => true
  | .chinfoVecTake _ _ => true
  | .perfclass _ n => n != 3
  | .perfq _ => true
  | .tmov _ _ _ => true
  | .tmovV _ _ _ => true
  | .tmovW _ _ _ => true
  | .tmovR _ _ _ => true
  | .tmovZ _ _ _ => true
  | .rainit _ _ _ _ => true
  | .rawait _ _ => true
  | .rarel _ _ => true
  | .gath _ _ => true
  | .scat _ _ => true
  | .collAr _ _ => true
  | .collAg _ _ => true
  | .collRs _ _ => true
  | .collBc _ _ => true
  | .collA2a _ _ => true
  | .waitoc _ _ => true
  | .ocrd _ _ => true
  | .psleep _ => true
  | .cpydec _ _ => true
  | .cpyenc _ _ => true
  | .movts _ _ => true
  | .twr _ _ a _ => a.wf
  | .trd _ d _ _ => vregOk d
  | .trdT _ d _ _ => vregOk d
  | .tzero _ => true
  | .sqgo _ _ => true
  | .sqsig _ => true
  | .sqwait _ => true
  | .sqstat _ => true
  | .dialld _ _ _ => true
  | .dialq _ _ => true
  | .dsadd o _ => o.wf
  | .dssub o _ => o.wf
  | .dsmul o _ => o.wf
  | .dsdiv o _ => o.wf
  | .dsneg o => o.wf
  | .dsrcp o _ => o.wf
  | .dssqr o _ => o.wf
  | .dsuni o => o.wf
  | .dsint o => o.wf
  | .dscpl o => o.wf
  | .dshull o => o.wf
  | .dsexp o => o.wf
  | .dsexpBlock _ d _ _ _ => vregOk d
  | .dsfrom o _ => o.wf
  | .dsfromArc o _ => o.wf
  | .dslo o _ => o.wf
  | .dshi o _ => o.wf
  | .dstestMeet _ _ a b => a.wf && b.wf
  | .dstestIn _ _ a b => a.wf && b.wf
  | .dsredUni _ _ a => a.wf
  | .dsredInt _ _ a => a.wf
  | .pair h0 h1 => h0.wf && h1.wf && halvesOk h0 h1
  | .sqnop => true
  | .sqarr _ => true
  | .sqwt _ _ => true
  | .sqjmp _ => true
  | .sqloop _ _ _ => true
  | .sqend => true
  | .tldq _ _ _ => true
  | .tstq _ _ _ => true
  | .tzq _ => true
  | .mmaT8 _ _ _ _ => true
  | .mmaT6 _ _ _ _ => true
  | .mmaF16 _ _ _ _ => true
  | .mmaBf16 _ _ _ _ => true
  | .mmaF32 _ _ _ _ => true
  | .mmasT8 _ _ _ _ => true
  | .mmasT6 _ _ _ _ => true
  | .gmmaT8 _ _ _ _ _ _ => true
  | .gmmaT6 _ _ _ _ _ _ => true
  | .gmmaF16 _ _ _ _ _ _ => true
  | .gmmaBf16 _ _ _ _ _ _ => true
  | .tadd _ _ _ => true
  | .tscale _ _ _ => true
  | .tamax _ _ => true
  | .tamaxRst _ => true
  | .tcvtT8 _ _ _ => true
  | .tcvtT6 _ _ _ => true
  | .tcvtF16 _ _ _ => true
  | .tcvtBf16 _ _ _ => true
  | .skEvpost _ _ => true
  | .skEvwm _ _ => true
  | .skctxWrite _ _ => true
  | .globalLoadPerform _ _ _ _ => true
  | .bufferDrain _ _ _ => true
  | .boundaryAcknowledge _ _ => true
  | .gmAtomicPerform _ _ => true
  | .engineAccess _ _ _ _ => true
  | .engineComplete _ _ _ => true
  | .fenceRForcedPoint _ _ => true
  | .tableWalk _ _ _ _ => true
  | .extentCounterAppend _ _ _ _ _ => true
  | .verdictRetry _ => true
  | .verdictDeny _ => true
  | .deferredTrap _ _ => true
  | .tlbInvalidate _ _ _ => true
  | .migrationStart _ _ _ _ => true
  | .migrationCommit _ _ _ => true
  | .migrationAbort _ _ _ _ => true
  | .joinResolve _ _ => true
  | .barPhArrival _ _ => true
  | .sleepExpire _ _ _ => true
  | .waitcRecheck _ _ _ => true
  | .claimGrant _ => true
  | .sfqEntryComplete _ => true
  | .psleepWake _ _ _ => true
  | .spinDemote _ _ _ => true
  | .spinDemotionTimeout _ _ _ => true
  | .swapEligible _ _ _ => true
  | .gangDrainComplete _ _ => true
  | .armedDecrement _ _ => true
  | .dialCompileComplete _ _ => true
  | .tmovRReserve _ _ _ => true
  | .tmovRFill _ _ _ => true
  | .tmovVClaim _ _ _ => true
  | .cpydecCheck _ _ _ => true
  | .sqwtResume _ => true
  | .streamGranuleStop _ => true
  | .notify _ _ _ => true
  | .streamFetch _ => true
  | .replayEmit _ => true
  | .eventRelease _ => true
  | .virtualEventFire _ => true
  | .launchBacklogEntry _ => true
  | .postAction _ => true
  | .postAtHub _ _ => true
  | .errorOverflowRecord _ => true
  | .admission _ _ => true
  | .preemptForHead => true
  | .preemptionHalt _ => true
  | .saveRecord _ => true
  | .swapSave => true
  | .waitcWatchFire _ _ => true
  | .chimeStep _ _ => true
  | .doorbellWrite _ _ _ => true
  | .chimeDelivery _ _ => true
  | .scratchGrant _ _ _ _ _ => true
  | .grantRevoke _ _ => true
  | .streamCreate _ _ => true
  | .streamDelete _ => true
  | .capabilityIssue _ _ _ _ => true
  | .genRaise _ => true
  | .registrationDelete _ _ => true
  | .groupAbort _ => true
  | .codeLoad _ _ _ => true
  | .currentGrantEval _ => true
  | .classChange _ => true
  | .temperatureReport _ _ => true
  | .thermalCeilingStep => true
  | .softTrip => true
  | .hardTrip => true
  | .resetBoot => true
  | .recoveryImageWrite _ _ => true
  | .lifecycleTransition _ => true
  | .svnRaise => true
  | .lockstepMismatch => true
  | .routingClaim _ _ => true
  | .routingVecWrite _ _ _ => true
  | .routingRelease _ _ => true
  | .monitorControlWrite _ _ _ => true
  | .scrubPass => true
  | .uncorrectableStateError _ _ _ _ => true
  | .lockInterface _ => true
  | .startInterface _ => true
  | .stopInterface _ => true
  | .tdispError _ => true
  | .ideIntegrityFailure _ => true
  | .keyInstall _ _ _ _ => true
  | .getMeasurements _ _ => true
  | .apertureBind _ _ _ => true
  | .apertureAccess _ _ _ _ _ => true
  | .flitCrcRetry _ => true
  | .domainForm _ _ => true
  | .partLeavesDomain _ => true
  | .supervisorRegisterWrite _ => true
  | .suspendedPlotResume _ _ => true
  | .plotDestroy _ => true
  | .contextDestroy _ => true
  | .errorStreamAcknowledge _ _ _ => true
  | .drawAccumulatorWindow _ => true
  | .firmwareRecordRemap _ _ => true
  | .orangeryMemoryAccess _ _ _ => true

end Sys2Proof
end

