-- ==== Sys2Proof/Machine/Pair.lean ====
section
/-! DEFINITION. Machine/Pair.lean: the PAIR word (R47 to R50). -/

namespace Sys2Proof.Machine

/-- The lane operation of a mini-opcode (R48) with its rounding mode; the halves' mini-opcodes are checked at decode. -/
def miniFn (m : Nat) (rm : RM) (a b c : Word) : Word :=
  match m with
  | 0x01 => a + b
  | 0x02 => a - b
  | 0x03 => a * b
  | 0x04 => a * b + c
  | 0x05 => minI a b
  | 0x06 => minN a b
  | 0x07 => maxI a b
  | 0x08 => maxN a b
  | 0x09 => fnAbs a
  | 0x0A => 0 - a
  | 0x0B => a &&& b
  | 0x0C => a ||| b
  | 0x0D => a ^^^ b
  | 0x0E => ~~~ a
  | 0x0F => fnShl a b
  | 0x10 => fnShr a b
  | 0x11 => fnSra a b
  | 0x12 => fnRot a b
  | 0x13 => fnPopc a
  | 0x14 => fnClz a
  | 0x15 => a
  | 0x16 => halves (fun x y => x + y) a b
  | 0x17 => halves (fun x y => x - y) a b
  | 0x18 => halves (fun x y => x * y) a b
  | 0x19 => dot4 (fun x => x.toInt) a b c
  | 0x1A => dot4 (fun x => (x.toNat : Int)) a b c
  | 0x20 => fnFadd rm a b
  | 0x21 => fnFsub rm a b
  | 0x22 => fnFmul rm a b
  | 0x23 => fnFma rm a b c
  | 0x24 => fnFnma rm a b c
  | 0x25 => fnFmin a b
  | 0x26 => fnFmax a b
  | 0x27 => fnFabs a
  | 0x28 => fnFneg a
  | 0x29 => fnFsat a
  | 0x2A => fnFaddH rm a b
  | 0x2B => fnFmulH rm a b
  | 0x2C => fnFmaH rm a b c
  | 0x2D => fnFmaBf rm a b c
  | 0x2E => fnDot2 f16 rm a b c
  | 0x2F => fnDot2 bf16 rm a b c
  | 0x40 => fnCvtFI rm a
  | 0x41 => fnCvtIF rm a
  | 0x42 => fnCvtFN rm a
  | 0x43 => fnCvtNF rm a
  | 0x44 => fnCvtPack f16 rm a b
  | 0x45 => fnCvtWiden f16 false a
  | 0x46 => fnCvtPack bf16 rm a b
  | 0x47 => fnCvtWiden bf16 false a
  | 0x50 => fnRcp a
  | 0x51 => fnRsq a
  | 0x52 => fnSqrt a
  | 0x53 => fnExp2 a
  | 0x54 => fnLog2 a
  | 0x55 => fnSin a
  | 0x56 => fnCos a
  | 0x57 => fnTanh a
  | _ => fnSigm a

/-- The half enters the special-function queue (R143). -/
def queued (h : Half) : Bool := decide (0x50 ≤ h.mini.toNat)

/-- The rounding mode in M2. -/
def m2Mode (m : BitVec 2) : RM := if m = 0 then .rn else if m = 1 then .rz else if m = 2 then .ru else .rd

/-- The registers of a half at positions a, b and c. -/
def halfRegs (h : Half) : Option HReg × Option HReg × Option HReg :=
  let n := (miniSources h.mini).getD 0
  (some ⟨h.a, h.ha⟩, if 2 ≤ n then some ⟨h.b, h.hb⟩ else none, if 3 ≤ n then some ⟨h.c, h.hc⟩ else none)

/-- The vector registers that a half names. -/
def halfUses (h : Half) : List Nat :=
  let r := halfRegs h
  h.d.toNat :: [r.1, r.2.1, r.2.2].filterMap (·.map (·.n.toNat))

/-- The result of a half in every lane. -/
def halfResult (G : Gang) (h : Half) : Lanes :=
  let r := halfRegs h
  lanes3 (miniFn h.mini.toNat (m2Mode h.m2)) (G.operand G.latchA r.1) (G.operand G.latchB r.2.1) (G.operand G.latchC r.2.2)

/-- A latch after the word (R50): half 1's held operand, else half 0's, else as R95 leaves it. -/
def pairLatch (G : Gang) (l : Option Latch) (r0 r1 : Option HReg) : Option Latch :=
  match r1 with
  | some r => if r.hold then some ⟨r.n.toNat, G.operand l (some r)⟩
      else match r0 with
        | some q => if q.hold then some ⟨q.n.toNat, G.operand l (some q)⟩ else none
        | none => none
  | none =>
    match r0 with
    | some q => if q.hold then some ⟨q.n.toNat, G.operand l (some q)⟩ else none
    | none => l

/-- A half is performed: on a lane array it writes now, in the queue it takes an entry. -/
def halfPerform (s : State) (x : Issuer) (h : Half) (G : Gang) : State × Gang :=
  let m := x.G.active x.S h.g
  let v := halfResult x.G h
  if queued h then
    (s.enqueueSfq x.P.core ⟨gangKey x.P.id x.G.idx, h.d, m, v⟩,
     { G with latchA := latchDrop G.latchA h.d.toNat, latchB := latchDrop G.latchB h.d.toNat, latchC := latchDrop G.latchC h.d.toNat })
  else (s, G.wv h.d.toNat m v)

/-- PAIR (R50): the registers of half 0 and then of half 1 are checked against NV; both halves read, and both write. Where both
halves name registers at or above NV, TINFO gives the lowest of half 0, whose cause R50 reports; R345 speaks of the lowest
that the word names (DESIGN CHOICE, log entry 101). -/
def execPair (h0 h1 : Half) (s : State) : Res :=
  s.issue [] [] fun x =>
    if !s.settledRegs x (halfUses h0 ++ halfUses h1) [] then s
    else
      match x.G.beyond (halfUses h0), x.G.beyond (halfUses h1) with
      | some v, _ => s.trap x.P x.G x.sl x.S (boundsTrap v x.G.nv)
      | none, some v => s.trap x.P x.G x.sl x.S { boundsTrap v x.G.nv with half := true }
      | none, none =>
        if (queued h0 || queued h1) && decide (32 ≤ (s.core x.P.core).sfq.length) then s
        else
          let r0 := halfRegs h0
          let r1 := halfRegs h1
          let G := { x.G with
            latchA := pairLatch x.G x.G.latchA r0.1 r1.1
            latchB := pairLatch x.G x.G.latchB r0.2.1 r1.2.1
            latchC := pairLatch x.G x.G.latchC r0.2.2 r1.2.2 }
          let y := halfPerform s x h0 G
          let z := halfPerform y.1 x h1 y.2
          z.1.done x z.2 16

end Sys2Proof.Machine
end

