-- ==== Sys2Proof/Machine/Dispatch.lean ====
section
/-! DEFINITION. Machine/Dispatch.lean: one arm for each constructor of `Instr`, one meaning for each arm. -/

namespace Sys2Proof.Machine

def exec (i : Instr) (s : State) : Host.Outcome State Fault Refusal :=
  match i with
  | .nop len g => Sys2Proof.Machine.execNop len g s
  | .bra k => Sys2Proof.Machine.execBra k s
  | .brc g k => Sys2Proof.Machine.execBrc g k s
  | .brcAny g k => Sys2Proof.Machine.execBrcAny g k s
  | .brcAll g k => Sys2Proof.Machine.execBrcAll g k s
  | .brsZ a k => Sys2Proof.Machine.execBrsZ a k s
  | .brsNz a k => Sys2Proof.Machine.execBrsNz a k s
  | .brx a => Sys2Proof.Machine.execBrx a s
  | .call d k => Sys2Proof.Machine.execCall d k s
  | .callx d a => Sys2Proof.Machine.execCallx d a s
  | .ret a => Sys2Proof.Machine.execRet a s
  | .join => Sys2Proof.Machine.execJoin s
  | .exit g => Sys2Proof.Machine.execExit g s
  | .exitD g a e => Sys2Proof.Machine.execExitD g a e s
  | .exitH g a => Sys2Proof.Machine.execExitH g a s
  | .sleep k => Sys2Proof.Machine.execSleep k s
  | .waitcEq o => Sys2Proof.Machine.execWaitcEq o s
  | .waitcNe o => Sys2Proof.Machine.execWaitcNe o s
  | .waitcGe o => Sys2Proof.Machine.execWaitcGe o s
  | .bar c => Sys2Proof.Machine.execBar c s
  | .barPh c => Sys2Proof.Machine.execBarPh c s
  | .bararr c => Sys2Proof.Machine.execBararr c s
  | .barwait c => Sys2Proof.Machine.execBarwait c s
  | .barredAdd d a c => Sys2Proof.Machine.execBarredAdd d a c s
  | .barredMin d a c => Sys2Proof.Machine.execBarredMin d a c s
  | .barredMax d a c => Sys2Proof.Machine.execBarredMax d a c s
  | .barredAnd d a c => Sys2Proof.Machine.execBarredAnd d a c s
  | .barredOr d a c => Sys2Proof.Machine.execBarredOr d a c s
  | .barredFadd d a c => Sys2Proof.Machine.execBarredFadd d a c s
  | .barscanAdd d a c => Sys2Proof.Machine.execBarscanAdd d a c s
  | .barscanFadd d a c => Sys2Proof.Machine.execBarscanFadd d a c s
  | .yield => Sys2Proof.Machine.execYield s
  | .trap k => Sys2Proof.Machine.execTrap k s
  | .tret => Sys2Proof.Machine.execTret s
  | .vadd o => Sys2Proof.Machine.execVadd o s
  | .vsub o => Sys2Proof.Machine.execVsub o s
  | .vaddc o => Sys2Proof.Machine.execVaddc o s
  | .vaddsI32 o => Sys2Proof.Machine.execVaddsI32 o s
  | .vsubsI32 o => Sys2Proof.Machine.execVsubsI32 o s
  | .vmul o => Sys2Proof.Machine.execVmul o s
  | .vmulhI32 o => Sys2Proof.Machine.execVmulhI32 o s
  | .vmulhN32 o => Sys2Proof.Machine.execVmulhN32 o s
  | .vmulwI32 o => Sys2Proof.Machine.execVmulwI32 o s
  | .vmad o => Sys2Proof.Machine.execVmad o s
  | .vminI32 o => Sys2Proof.Machine.execVminI32 o s
  | .vminN32 o => Sys2Proof.Machine.execVminN32 o s
  | .vmaxI32 o => Sys2Proof.Machine.execVmaxI32 o s
  | .vmaxN32 o => Sys2Proof.Machine.execVmaxN32 o s
  | .vabs o => Sys2Proof.Machine.execVabs o s
  | .vneg o => Sys2Proof.Machine.execVneg o s
  | .vand o => Sys2Proof.Machine.execVand o s
  | .vor o => Sys2Proof.Machine.execVor o s
  | .vxor o => Sys2Proof.Machine.execVxor o s
  | .vnot o => Sys2Proof.Machine.execVnot o s
  | .vshl o => Sys2Proof.Machine.execVshl o s
  | .vshr o => Sys2Proof.Machine.execVshr o s
  | .vsra o => Sys2Proof.Machine.execVsra o s
  | .vrot o => Sys2Proof.Machine.execVrot o s
  | .vpopc o => Sys2Proof.Machine.execVpopc o s
  | .vclz o => Sys2Proof.Machine.execVclz o s
  | .vbrev o => Sys2Proof.Machine.execVbrev o s
  | .vaddI16x2 o => Sys2Proof.Machine.execVaddI16x2 o s
  | .vsubI16x2 o => Sys2Proof.Machine.execVsubI16x2 o s
  | .vmulI16x2 o => Sys2Proof.Machine.execVmulI16x2 o s
  | .vdot4I8 o => Sys2Proof.Machine.execVdot4I8 o s
  | .vdot4N8 o => Sys2Proof.Machine.execVdot4N8 o s
  | .vcmpEq o => Sys2Proof.Machine.execVcmpEq o s
  | .vcmpNe o => Sys2Proof.Machine.execVcmpNe o s
  | .vcmpLtI32 o => Sys2Proof.Machine.execVcmpLtI32 o s
  | .vcmpLeI32 o => Sys2Proof.Machine.execVcmpLeI32 o s
  | .vcmpLtN32 o => Sys2Proof.Machine.execVcmpLtN32 o s
  | .vcmpLeN32 o => Sys2Proof.Machine.execVcmpLeN32 o s
  | .vsel o => Sys2Proof.Machine.execVsel o s
  | .vmov o => Sys2Proof.Machine.execVmov o s
  | .vmovi g d k => Sys2Proof.Machine.execVmovi g d k s
  | .vbcast g d a => Sys2Proof.Machine.execVbcast g d a s
  | .vlane g d => Sys2Proof.Machine.execVlane g d s
  | .vshflIdx o => Sys2Proof.Machine.execVshflIdx o s
  | .vshflXor o => Sys2Proof.Machine.execVshflXor o s
  | .vshflUp o => Sys2Proof.Machine.execVshflUp o s
  | .vshflDn o => Sys2Proof.Machine.execVshflDn o s
  | .vshflRot o => Sys2Proof.Machine.execVshflRot o s
  | .vredAdd g d a => Sys2Proof.Machine.execVredAdd g d a s
  | .vredMinI32 g d a => Sys2Proof.Machine.execVredMinI32 g d a s
  | .vredMaxI32 g d a => Sys2Proof.Machine.execVredMaxI32 g d a s
  | .vredAnd g d a => Sys2Proof.Machine.execVredAnd g d a s
  | .vredOr g d a => Sys2Proof.Machine.execVredOr g d a s
  | .vext d a b => Sys2Proof.Machine.execVext d a b s
  | .vins d a b => Sys2Proof.Machine.execVins d a b s
  | .vrel n => Sys2Proof.Machine.execVrel n s
  | .vclaim n => Sys2Proof.Machine.execVclaim n s
  | .vclaimNb d n => Sys2Proof.Machine.execVclaimNb d n s
  | .vquery d => Sys2Proof.Machine.execVquery d s
  | .sadd o => Sys2Proof.Machine.execSadd o s
  | .ssub o => Sys2Proof.Machine.execSsub o s
  | .smul o => Sys2Proof.Machine.execSmul o s
  | .smulhI64 o => Sys2Proof.Machine.execSmulhI64 o s
  | .smulhN64 o => Sys2Proof.Machine.execSmulhN64 o s
  | .sdivI64 o => Sys2Proof.Machine.execSdivI64 o s
  | .sdivN64 o => Sys2Proof.Machine.execSdivN64 o s
  | .sremI64 o => Sys2Proof.Machine.execSremI64 o s
  | .sremN64 o => Sys2Proof.Machine.execSremN64 o s
  | .sand o => Sys2Proof.Machine.execSand o s
  | .sor o => Sys2Proof.Machine.execSor o s
  | .sxor o => Sys2Proof.Machine.execSxor o s
  | .snot d a => Sys2Proof.Machine.execSnot d a s
  | .sshl o => Sys2Proof.Machine.execSshl o s
  | .sshr o => Sys2Proof.Machine.execSshr o s
  | .ssra o => Sys2Proof.Machine.execSsra o s
  | .srot o => Sys2Proof.Machine.execSrot o s
  | .sbfe d a b c => Sys2Proof.Machine.execSbfe d a b c s
  | .sbfi d a b c => Sys2Proof.Machine.execSbfi d a b c s
  | .sminI64 o => Sys2Proof.Machine.execSminI64 o s
  | .sminN64 o => Sys2Proof.Machine.execSminN64 o s
  | .smaxI64 o => Sys2Proof.Machine.execSmaxI64 o s
  | .smaxN64 o => Sys2Proof.Machine.execSmaxN64 o s
  | .scmpEq o => Sys2Proof.Machine.execScmpEq o s
  | .scmpNe o => Sys2Proof.Machine.execScmpNe o s
  | .scmpLtI64 o => Sys2Proof.Machine.execScmpLtI64 o s
  | .scmpLeI64 o => Sys2Proof.Machine.execScmpLeI64 o s
  | .scmpLtN64 o => Sys2Proof.Machine.execScmpLtN64 o s
  | .scmpLeN64 o => Sys2Proof.Machine.execScmpLeN64 o s
  | .ssel d a b c => Sys2Proof.Machine.execSsel d a b c s
  | .smov d a => Sys2Proof.Machine.execSmov d a s
  | .smovi d k => Sys2Proof.Machine.execSmovi d k s
  | .slea o sh => Sys2Proof.Machine.execSlea o sh s
  | .spopc d a => Sys2Proof.Machine.execSpopc d a s
  | .sclz d a => Sys2Proof.Machine.execSclz d a s
  | .pand g d a b => Sys2Proof.Machine.execPand g d a b s
  | .por g d a b => Sys2Proof.Machine.execPor g d a b s
  | .pxor g d a b => Sys2Proof.Machine.execPxor g d a b s
  | .pnot g d a => Sys2Proof.Machine.execPnot g d a s
  | .pmovSp d a e => Sys2Proof.Machine.execPmovSp d a e s
  | .pmovPs d a e => Sys2Proof.Machine.execPmovPs d a e s
  | .ppopc d a => Sys2Proof.Machine.execPpopc d a s
  | .movsr d sel => Sys2Proof.Machine.execMovsr d sel s
  | .movrs a sel => Sys2Proof.Machine.execMovrs a sel s
  | .faddF32 o rm => Sys2Proof.Machine.execFaddF32 o rm s
  | .fsubF32 o rm => Sys2Proof.Machine.execFsubF32 o rm s
  | .fmulF32 o rm => Sys2Proof.Machine.execFmulF32 o rm s
  | .fmaF32 o rm => Sys2Proof.Machine.execFmaF32 o rm s
  | .fnmaF32 o rm => Sys2Proof.Machine.execFnmaF32 o rm s
  | .fminF32 o => Sys2Proof.Machine.execFminF32 o s
  | .fmaxF32 o => Sys2Proof.Machine.execFmaxF32 o s
  | .fabsF32 o => Sys2Proof.Machine.execFabsF32 o s
  | .fnegF32 o => Sys2Proof.Machine.execFnegF32 o s
  | .fsatF32 o => Sys2Proof.Machine.execFsatF32 o s
  | .fcmpEq o => Sys2Proof.Machine.execFcmpEq o s
  | .fcmpLt o => Sys2Proof.Machine.execFcmpLt o s
  | .fcmpLe o => Sys2Proof.Machine.execFcmpLe o s
  | .fcmpUn o => Sys2Proof.Machine.execFcmpUn o s
  | .fclass o => Sys2Proof.Machine.execFclass o s
  | .frnd o rm => Sys2Proof.Machine.execFrnd o rm s
  | .fscale o rm => Sys2Proof.Machine.execFscale o rm s
  | .faddF64 g d a b rm => Sys2Proof.Machine.execFaddF64 g d a b rm s
  | .fmulF64 g d a b rm => Sys2Proof.Machine.execFmulF64 g d a b rm s
  | .fmaF64 g d a b c rm => Sys2Proof.Machine.execFmaF64 g d a b c rm s
  | .faddF16x2 o rm => Sys2Proof.Machine.execFaddF16x2 o rm s
  | .fmulF16x2 o rm => Sys2Proof.Machine.execFmulF16x2 o rm s
  | .fmaF16x2 o rm => Sys2Proof.Machine.execFmaF16x2 o rm s
  | .fmaBf16x2 o rm => Sys2Proof.Machine.execFmaBf16x2 o rm s
  | .fdot2F16 o rm => Sys2Proof.Machine.execFdot2F16 o rm s
  | .fdot2Bf16 o rm => Sys2Proof.Machine.execFdot2Bf16 o rm s
  | .cvtF32I32 o rm => Sys2Proof.Machine.execCvtF32I32 o rm s
  | .cvtF32N32 o rm => Sys2Proof.Machine.execCvtF32N32 o rm s
  | .cvtI32F32 o rm => Sys2Proof.Machine.execCvtI32F32 o rm s
  | .cvtN32F32 o rm => Sys2Proof.Machine.execCvtN32F32 o rm s
  | .cvtF32F64 g d a rm => Sys2Proof.Machine.execCvtF32F64 g d a rm s
  | .cvtF64F32 o => Sys2Proof.Machine.execCvtF64F32 o s
  | .cvtF16x2F32 o rm => Sys2Proof.Machine.execCvtF16x2F32 o rm s
  | .cvtF32F16 o half => Sys2Proof.Machine.execCvtF32F16 o half s
  | .cvtBf16x2F32 o rm => Sys2Proof.Machine.execCvtBf16x2F32 o rm s
  | .cvtF32Bf16 o half => Sys2Proof.Machine.execCvtF32Bf16 o half s
  | .cvtT8F32 o => Sys2Proof.Machine.execCvtT8F32 o s
  | .cvtF32T8 o rm => Sys2Proof.Machine.execCvtF32T8 o rm s
  | .cvtT6F32 o => Sys2Proof.Machine.execCvtT6F32 o s
  | .cvtF32T6 o rm => Sys2Proof.Machine.execCvtF32T6 o rm s
  | .blkpackT8 g a e b c => Sys2Proof.Machine.execBlkpackT8 g a e b c s
  | .blkpackT6 g a e b c => Sys2Proof.Machine.execBlkpackT6 g a e b c s
  | .blkunpk g d a e rm => Sys2Proof.Machine.execBlkunpk g d a e rm s
  | .frcp o => Sys2Proof.Machine.execFrcp o s
  | .frsq o => Sys2Proof.Machine.execFrsq o s
  | .fsqrt o => Sys2Proof.Machine.execFsqrt o s
  | .fdiv o => Sys2Proof.Machine.execFdiv o s
  | .fexp2 o => Sys2Proof.Machine.execFexp2 o s
  | .flog2 o => Sys2Proof.Machine.execFlog2 o s
  | .fsin o => Sys2Proof.Machine.execFsin o s
  | .fcos o => Sys2Proof.Machine.execFcos o s
  | .ftanh o => Sys2Proof.Machine.execFtanh o s
  | .fsigm o => Sys2Proof.Machine.execFsigm o s
  | .idivI32 o => Sys2Proof.Machine.execIdivI32 o s
  | .idivN32 o => Sys2Proof.Machine.execIdivN32 o s
  | .iremI32 o => Sys2Proof.Machine.execIremI32 o s
  | .iremN32 o => Sys2Proof.Machine.execIremN32 o s
  | .ldL1 g d m w => Sys2Proof.Machine.execLdL1 g d m w s
  | .ldL2 g d m w => Sys2Proof.Machine.execLdL2 g d m w s
  | .ldL3 g d m w => Sys2Proof.Machine.execLdL3 g d m w s
  | .stL1 g d m w => Sys2Proof.Machine.execStL1 g d m w s
  | .stL2 g d m w => Sys2Proof.Machine.execStL2 g d m w s
  | .stL3 g d m w => Sys2Proof.Machine.execStL3 g d m w s
  | .lduL1 d m w => Sys2Proof.Machine.execLduL1 d m w s
  | .lduL2 d m w => Sys2Proof.Machine.execLduL2 d m w s
  | .lduL3 d m w => Sys2Proof.Machine.execLduL3 d m w s
  | .atAdd o => Sys2Proof.Machine.execAtAdd o s
  | .atMinI32 o => Sys2Proof.Machine.execAtMinI32 o s
  | .atMaxI32 o => Sys2Proof.Machine.execAtMaxI32 o s
  | .atMinN32 o => Sys2Proof.Machine.execAtMinN32 o s
  | .atMaxN32 o => Sys2Proof.Machine.execAtMaxN32 o s
  | .atAnd o => Sys2Proof.Machine.execAtAnd o s
  | .atOr o => Sys2Proof.Machine.execAtOr o s
  | .atXor o => Sys2Proof.Machine.execAtXor o s
  | .atXchg o => Sys2Proof.Machine.execAtXchg o s
  | .atXchg64 o => Sys2Proof.Machine.execAtXchg64 o s
  | .atCas o f => Sys2Proof.Machine.execAtCas o f s
  | .atCas64 o f => Sys2Proof.Machine.execAtCas64 o f s
  | .atFadd o => Sys2Proof.Machine.execAtFadd o s
  | .atAmaxx o => Sys2Proof.Machine.execAtAmaxx o s
  | .spinfo d n => Sys2Proof.Machine.execSpinfo d n s
  | .ldGm g d m w => Sys2Proof.Machine.execLdGm g d m w s
  | .lduGm d m w => Sys2Proof.Machine.execLduGm d m w s
  | .stGm g d m w => Sys2Proof.Machine.execStGm g d m w s
  | .ldGmAcq g d m w => Sys2Proof.Machine.execLdGmAcq g d m w s
  | .stGmRel g d m w => Sys2Proof.Machine.execStGmRel g d m w s
  | .phase => Sys2Proof.Machine.execPhase s
  | .fenceO => Sys2Proof.Machine.execFenceO s
  | .fenceR d m => Sys2Proof.Machine.execFenceR d m s
  | .evpost a e => Sys2Proof.Machine.execEvpost a e s
  | .evpostNb d a e => Sys2Proof.Machine.execEvpostNb d a e s
  | .evwm a e => Sys2Proof.Machine.execEvwm a e s
  | .streamqTail d a e => Sys2Proof.Machine.execStreamqTail d a e s
  | .streamqRel d a e => Sys2Proof.Machine.execStreamqRel d a e s
  | .streamqWm d a e => Sys2Proof.Machine.execStreamqWm d a e s
  | .streamqLate d a e => Sys2Proof.Machine.execStreamqLate d a e s
  | .automap a e => Sys2Proof.Machine.execAutomap a e s
  | .autounmap a e => Sys2Proof.Machine.execAutounmap a e s
  | .autoqSt d a => Sys2Proof.Machine.execAutoqSt d a s
  | .autoqAcc d a => Sys2Proof.Machine.execAutoqAcc d a s
  | .autoqOvf d a => Sys2Proof.Machine.execAutoqOvf d a s
  | .autoqExp d a => Sys2Proof.Machine.execAutoqExp d a s
  | .svcall a e => Sys2Proof.Machine.execSvcall a e s
  | .chime d a b v => Sys2Proof.Machine.execChime d a b v s
  | .chwait => Sys2Proof.Machine.execChwait s
  | .chret => Sys2Proof.Machine.execChret s
  | .chpermDes d a => Sys2Proof.Machine.execChpermDes d a s
  | .chpermSet d a b n => Sys2Proof.Machine.execChpermSet d a b n s
  | .chpermVec d a v => Sys2Proof.Machine.execChpermVec d a v s
  | .chpermEn d a => Sys2Proof.Machine.execChpermEn d a s
  | .chinfoPend d => Sys2Proof.Machine.execChinfoPend d s
  | .chinfoEn d => Sys2Proof.Machine.execChinfoEn d s
  | .chinfoDeny d => Sys2Proof.Machine.execChinfoDeny d s
  | .chinfoVec d v => Sys2Proof.Machine.execChinfoVec d v s
  | .chinfoVecTake d v => Sys2Proof.Machine.execChinfoVecTake d v s
  | .perfclass d n => Sys2Proof.Machine.execPerfclass d n s
  | .perfq d => Sys2Proof.Machine.execPerfq d s
  | .tmov d a e => Sys2Proof.Machine.execTmov d a e s
  | .tmovV d a e => Sys2Proof.Machine.execTmovV d a e s
  | .tmovW d a e => Sys2Proof.Machine.execTmovW d a e s
  | .tmovR d a e => Sys2Proof.Machine.execTmovR d a e s
  | .tmovZ d a e => Sys2Proof.Machine.execTmovZ d a e s
  | .rainit a b c n => Sys2Proof.Machine.execRainit a b c n s
  | .rawait d a => Sys2Proof.Machine.execRawait d a s
  | .rarel d a => Sys2Proof.Machine.execRarel d a s
  | .gath a e => Sys2Proof.Machine.execGath a e s
  | .scat a e => Sys2Proof.Machine.execScat a e s
  | .collAr a e => Sys2Proof.Machine.execCollAr a e s
  | .collAg a e => Sys2Proof.Machine.execCollAg a e s
  | .collRs a e => Sys2Proof.Machine.execCollRs a e s
  | .collBc a e => Sys2Proof.Machine.execCollBc a e s
  | .collA2a a e => Sys2Proof.Machine.execCollA2a a e s
  | .waitoc cls n => Sys2Proof.Machine.execWaitoc cls n s
  | .ocrd cls d => Sys2Proof.Machine.execOcrd cls d s
  | .psleep a => Sys2Proof.Machine.execPsleep a s
  | .cpydec a e => Sys2Proof.Machine.execCpydec a e s
  | .cpyenc a e => Sys2Proof.Machine.execCpyenc a e s
  | .movts d b => Sys2Proof.Machine.execMovts d b s
  | .twr g d a b => Sys2Proof.Machine.execTwr g d a b s
  | .trd g d a b => Sys2Proof.Machine.execTrd g d a b s
  | .trdT g d a b => Sys2Proof.Machine.execTrdT g d a b s
  | .tzero d => Sys2Proof.Machine.execTzero d s
  | .sqgo d a => Sys2Proof.Machine.execSqgo d a s
  | .sqsig k => Sys2Proof.Machine.execSqsig k s
  | .sqwait k => Sys2Proof.Machine.execSqwait k s
  | .sqstat d => Sys2Proof.Machine.execSqstat d s
  | .dialld d a e => Sys2Proof.Machine.execDialld d a e s
  | .dialq d a => Sys2Proof.Machine.execDialq d a s
  | .dsadd o c => Sys2Proof.Machine.execDsadd o c s
  | .dssub o c => Sys2Proof.Machine.execDssub o c s
  | .dsmul o c => Sys2Proof.Machine.execDsmul o c s
  | .dsdiv o c => Sys2Proof.Machine.execDsdiv o c s
  | .dsneg o => Sys2Proof.Machine.execDsneg o s
  | .dsrcp o c => Sys2Proof.Machine.execDsrcp o c s
  | .dssqr o c => Sys2Proof.Machine.execDssqr o c s
  | .dsuni o => Sys2Proof.Machine.execDsuni o s
  | .dsint o => Sys2Proof.Machine.execDsint o s
  | .dscpl o => Sys2Proof.Machine.execDscpl o s
  | .dshull o => Sys2Proof.Machine.execDshull o s
  | .dsexp o => Sys2Proof.Machine.execDsexp o s
  | .dsexpBlock g d a c e => Sys2Proof.Machine.execDsexpBlock g d a c e s
  | .dsfrom o c => Sys2Proof.Machine.execDsfrom o c s
  | .dsfromArc o c => Sys2Proof.Machine.execDsfromArc o c s
  | .dslo o c => Sys2Proof.Machine.execDslo o c s
  | .dshi o c => Sys2Proof.Machine.execDshi o c s
  | .dstestMeet g d a b => Sys2Proof.Machine.execDstestMeet g d a b s
  | .dstestIn g d a b => Sys2Proof.Machine.execDstestIn g d a b s
  | .dsredUni g d a => Sys2Proof.Machine.execDsredUni g d a s
  | .dsredInt g d a => Sys2Proof.Machine.execDsredInt g d a s
  | .pair h0 h1 => Sys2Proof.Machine.execPair h0 h1 s
  | .sqnop => Sys2Proof.Machine.execSqnop s
  | .sqarr k => Sys2Proof.Machine.execSqarr k s
  | .sqwt k n => Sys2Proof.Machine.execSqwt k n s
  | .sqjmp off => Sys2Proof.Machine.execSqjmp off s
  | .sqloop c off n => Sys2Proof.Machine.execSqloop c off n s
  | .sqend => Sys2Proof.Machine.execSqend s
  | .tldq td sm sk => Sys2Proof.Machine.execTldq td sm sk s
  | .tstq td sm sk => Sys2Proof.Machine.execTstq td sm sk s
  | .tzq td => Sys2Proof.Machine.execTzq td s
  | .mmaT8 td ta tb z => Sys2Proof.Machine.execMmaT8 td ta tb z s
  | .mmaT6 td ta tb z => Sys2Proof.Machine.execMmaT6 td ta tb z s
  | .mmaF16 td ta tb z => Sys2Proof.Machine.execMmaF16 td ta tb z s
  | .mmaBf16 td ta tb z => Sys2Proof.Machine.execMmaBf16 td ta tb z s
  | .mmaF32 td ta tb z => Sys2Proof.Machine.execMmaF32 td ta tb z s
  | .mmasT8 td ta tb z => Sys2Proof.Machine.execMmasT8 td ta tb z s
  | .mmasT6 td ta tb z => Sys2Proof.Machine.execMmasT6 td ta tb z s
  | .gmmaT8 td ta tb tx z sk => Sys2Proof.Machine.execGmmaT8 td ta tb tx z sk s
  | .gmmaT6 td ta tb tx z sk => Sys2Proof.Machine.execGmmaT6 td ta tb tx z sk s
  | .gmmaF16 td ta tb tx z sk => Sys2Proof.Machine.execGmmaF16 td ta tb tx z sk s
  | .gmmaBf16 td ta tb tx z sk => Sys2Proof.Machine.execGmmaBf16 td ta tb tx z sk s
  | .tadd td ta tb => Sys2Proof.Machine.execTadd td ta tb s
  | .tscale td ta sk => Sys2Proof.Machine.execTscale td ta sk s
  | .tamax ta sk => Sys2Proof.Machine.execTamax ta sk s
  | .tamaxRst sk => Sys2Proof.Machine.execTamaxRst sk s
  | .tcvtT8 td ta q => Sys2Proof.Machine.execTcvtT8 td ta q s
  | .tcvtT6 td ta q => Sys2Proof.Machine.execTcvtT6 td ta q s
  | .tcvtF16 td ta q => Sys2Proof.Machine.execTcvtF16 td ta q s
  | .tcvtBf16 td ta q => Sys2Proof.Machine.execTcvtBf16 td ta q s
  | .skEvpost d a => Sys2Proof.Machine.execSkEvpost d a s
  | .skEvwm d a => Sys2Proof.Machine.execSkEvwm d a s
  | .skctxWrite h v => Sys2Proof.Machine.execSkctxWrite h v s
  | .globalLoadPerform p g n lane => Sys2Proof.Machine.execGlobalLoadPerform p g n lane s
  | .bufferDrain p g line => Sys2Proof.Machine.execBufferDrain p g line s
  | .boundaryAcknowledge p g => Sys2Proof.Machine.execBoundaryAcknowledge p g s
  | .gmAtomicPerform p g => Sys2Proof.Machine.execGmAtomicPerform p g s
  | .engineAccess p g cls n => Sys2Proof.Machine.execEngineAccess p g cls n s
  | .engineComplete p g cls => Sys2Proof.Machine.execEngineComplete p g cls s
  | .fenceRForcedPoint p g => Sys2Proof.Machine.execFenceRForcedPoint p g s
  | .tableWalk owner ctx off k => Sys2Proof.Machine.execTableWalk owner ctx off k s
  | .extentCounterAppend owner ctx extent die part => Sys2Proof.Machine.execExtentCounterAppend owner ctx extent die part s
  | .verdictRetry fid => Sys2Proof.Machine.execVerdictRetry fid s
  | .verdictDeny fid => Sys2Proof.Machine.execVerdictDeny fid s
  | .deferredTrap p g => Sys2Proof.Machine.execDeferredTrap p g s
  | .tlbInvalidate owner ctx off => Sys2Proof.Machine.execTlbInvalidate owner ctx off s
  | .migrationStart owner ctx off newPa => Sys2Proof.Machine.execMigrationStart owner ctx off newPa s
  | .migrationCommit owner ctx off => Sys2Proof.Machine.execMigrationCommit owner ctx off s
  | .migrationAbort owner ctx off poison => Sys2Proof.Machine.execMigrationAbort owner ctx off poison s
  | .joinResolve p g => Sys2Proof.Machine.execJoinResolve p g s
  | .barPhArrival p g => Sys2Proof.Machine.execBarPhArrival p g s
  | .sleepExpire p g sl => Sys2Proof.Machine.execSleepExpire p g sl s
  | .waitcRecheck p g sl => Sys2Proof.Machine.execWaitcRecheck p g sl s
  | .claimGrant p => Sys2Proof.Machine.execClaimGrant p s
  | .sfqEntryComplete core => Sys2Proof.Machine.execSfqEntryComplete core s
  | .psleepWake p g sl => Sys2Proof.Machine.execPsleepWake p g sl s
  | .spinDemote p g sl => Sys2Proof.Machine.execSpinDemote p g sl s
  | .spinDemotionTimeout p g sl => Sys2Proof.Machine.execSpinDemotionTimeout p g sl s
  | .swapEligible p g sl => Sys2Proof.Machine.execSwapEligible p g sl s
  | .gangDrainComplete p g => Sys2Proof.Machine.execGangDrainComplete p g s
  | .armedDecrement p g => Sys2Proof.Machine.execArmedDecrement p g s
  | .dialCompileComplete core k => Sys2Proof.Machine.execDialCompileComplete core k s
  | .tmovRReserve p g n => Sys2Proof.Machine.execTmovRReserve p g n s
  | .tmovRFill p g n => Sys2Proof.Machine.execTmovRFill p g n s
  | .tmovVClaim p g n => Sys2Proof.Machine.execTmovVClaim p g n s
  | .cpydecCheck p g n => Sys2Proof.Machine.execCpydecCheck p g n s
  | .sqwtResume p => Sys2Proof.Machine.execSqwtResume p s
  | .streamGranuleStop p => Sys2Proof.Machine.execStreamGranuleStop p s
  | .notify f off bytes => Sys2Proof.Machine.execNotify f off bytes s
  | .streamFetch n => Sys2Proof.Machine.execStreamFetch n s
  | .replayEmit n => Sys2Proof.Machine.execReplayEmit n s
  | .eventRelease slot => Sys2Proof.Machine.execEventRelease slot s
  | .virtualEventFire slot => Sys2Proof.Machine.execVirtualEventFire slot s
  | .launchBacklogEntry slot => Sys2Proof.Machine.execLaunchBacklogEntry slot s
  | .postAction slot => Sys2Proof.Machine.execPostAction slot s
  | .postAtHub p g => Sys2Proof.Machine.execPostAtHub p g s
  | .errorOverflowRecord n => Sys2Proof.Machine.execErrorOverflowRecord n s
  | .admission core grant => Sys2Proof.Machine.execAdmission core grant s
  | .preemptForHead => Sys2Proof.Machine.execPreemptForHead s
  | .preemptionHalt core => Sys2Proof.Machine.execPreemptionHalt core s
  | .saveRecord p => Sys2Proof.Machine.execSaveRecord p s
  | .swapSave => Sys2Proof.Machine.execSwapSave s
  | .waitcWatchFire p addr => Sys2Proof.Machine.execWaitcWatchFire p addr s
  | .chimeStep p g => Sys2Proof.Machine.execChimeStep p g s
  | .doorbellWrite f off bytes => Sys2Proof.Machine.execDoorbellWrite f off bytes s
  | .chimeDelivery p g => Sys2Proof.Machine.execChimeDelivery p g s
  | .scratchGrant p g n accept share => Sys2Proof.Machine.execScratchGrant p g n accept share s
  | .grantRevoke p level => Sys2Proof.Machine.execGrantRevoke p level s
  | .streamCreate n c => Sys2Proof.Machine.execStreamCreate n c s
  | .streamDelete n => Sys2Proof.Machine.execStreamDelete n s
  | .capabilityIssue n rights ctx addr => Sys2Proof.Machine.execCapabilityIssue n rights ctx addr s
  | .genRaise n => Sys2Proof.Machine.execGenRaise n s
  | .registrationDelete ctx rid => Sys2Proof.Machine.execRegistrationDelete ctx rid s
  | .groupAbort handle => Sys2Proof.Machine.execGroupAbort handle s
  | .codeLoad ctx addr bytes => Sys2Proof.Machine.execCodeLoad ctx addr bytes s
  | .currentGrantEval budget => Sys2Proof.Machine.execCurrentGrantEval budget s
  | .classChange cluster => Sys2Proof.Machine.execClassChange cluster s
  | .temperatureReport cluster temp => Sys2Proof.Machine.execTemperatureReport cluster temp s
  | .thermalCeilingStep => Sys2Proof.Machine.execThermalCeilingStep s
  | .softTrip => Sys2Proof.Machine.execSoftTrip s
  | .hardTrip => Sys2Proof.Machine.execHardTrip s
  | .resetBoot => Sys2Proof.Machine.execResetBoot s
  | .recoveryImageWrite img ok => Sys2Proof.Machine.execRecoveryImageWrite img ok s
  | .lifecycleTransition signed => Sys2Proof.Machine.execLifecycleTransition signed s
  | .svnRaise => Sys2Proof.Machine.execSvnRaise s
  | .lockstepMismatch => Sys2Proof.Machine.execLockstepMismatch s
  | .routingClaim src who => Sys2Proof.Machine.execRoutingClaim src who s
  | .routingVecWrite src who v => Sys2Proof.Machine.execRoutingVecWrite src who v s
  | .routingRelease src who => Sys2Proof.Machine.execRoutingRelease src who s
  | .monitorControlWrite cluster n v => Sys2Proof.Machine.execMonitorControlWrite cluster n v s
  | .scrubPass => Sys2Proof.Machine.execScrubPass s
  | .uncorrectableStateError p g sl tile => Sys2Proof.Machine.execUncorrectableStateError p g sl tile s
  | .lockInterface vf => Sys2Proof.Machine.execLockInterface vf s
  | .startInterface vf => Sys2Proof.Machine.execStartInterface vf s
  | .stopInterface vf => Sys2Proof.Machine.execStopInterface vf s
  | .tdispError vf => Sys2Proof.Machine.execTdispError vf s
  | .ideIntegrityFailure ide => Sys2Proof.Machine.execIdeIntegrityFailure ide s
  | .keyInstall vf slot key salt => Sys2Proof.Machine.execKeyInstall vf slot key salt s
  | .getMeasurements vf nonce => Sys2Proof.Machine.execGetMeasurements vf nonce s
  | .apertureBind n ctx addr => Sys2Proof.Machine.execApertureBind n ctx addr s
  | .apertureAccess vf ide port off r => Sys2Proof.Machine.execApertureAccess vf ide port off r s
  | .flitCrcRetry link => Sys2Proof.Machine.execFlitCrcRetry link s
  | .domainForm partno parts => Sys2Proof.Machine.execDomainForm partno parts s
  | .partLeavesDomain part => Sys2Proof.Machine.execPartLeavesDomain part s
  | .supervisorRegisterWrite w => Sys2Proof.Machine.execSupervisorRegisterWrite w s
  | .suspendedPlotResume p by_ => Sys2Proof.Machine.execSuspendedPlotResume p by_ s
  | .plotDestroy p => Sys2Proof.Machine.execPlotDestroy p s
  | .contextDestroy ctx => Sys2Proof.Machine.execContextDestroy ctx s
  | .errorStreamAcknowledge n idx clear => Sys2Proof.Machine.execErrorStreamAcknowledge n idx clear s
  | .drawAccumulatorWindow cluster => Sys2Proof.Machine.execDrawAccumulatorWindow cluster s
  | .firmwareRecordRemap slot newSlot => Sys2Proof.Machine.execFirmwareRecordRemap slot newSlot s
  | .orangeryMemoryAccess h addr r => Sys2Proof.Machine.execOrangeryMemoryAccess h addr r s

end Sys2Proof.Machine
end

