-- ==== Sys2Proof/Machine/Riscv.lean ====
section
/-! DEFINITION. Machine/Riscv.lean: the RV64GCH instructions of an Orangery hart (R364) outside the posting extension. PRESUMED (log 21):
the RISC-V instruction set, which R364 names and does not describe: I, M, A, F, D, C, Zicsr and Zifencei, with the privileged
instructions and the hypervisor's. -/

namespace Sys2Proof.Machine

/-! ### Control and status registers -/

/-- The registers that hold what is written to them, with the bits that a write reaches. -/
def csrPlain : List (Nat × Nat) :=
  let all := 2 ^ 64 - 1
  [(cMedeleg, 0xF0B7FF), (cMie, 0x1EEE), (cMtvec, all - 2), (0x306, 7), (0x30A, 1), (0x340, all), (cMepc, all - 1), (cMcause, all),
   (cMtval, all), (0x34A, all), (0x34B, all)] ++
  [(cStvec, all - 2), (0x106, 7), (0x10A, 1), (0x140, all), (cSepc, all - 1), (cScause, all), (cStval, all)] ++
  [(cHedeleg, 0xB1FF), (cHideleg, 0x444), (0x605, all), (0x606, 7), (0x607, 0), (0x60A, 1), (0x643, all), (0x64A, all)] ++
  [(cVstvec, all - 2), (0x240, all), (cVsepc, all - 1), (cVscause, all), (cVstval, all), (cFcsr, 0xFF)]

/-- A status word as it reads: UXL is 2, and SD says that FS is dirty. -/
def statusView (w : Word64) : Word64 := w ||| 0x200000000 ||| (if w.getLsbD 13 && w.getLsbD 14 then 0x8000000000000000 else 0)

/-- The bits of sstatus. -/
def sstatusBits : Word64 := 0x80000003000DE762

/-- The counters of events, which count nothing, and their selectors. -/
def csrZero (n : Nat) : Bool :=
  (decide (0xC03 ≤ n) && decide (n ≤ 0xC1F)) || (decide (0xB03 ≤ n) && decide (n ≤ 0xB1F)) || (decide (0x320 ≤ n) && decide (n ≤ 0x33F)) ||
    (decide (0xF11 ≤ n) && decide (n ≤ 0xF13)) || n == 0xF15 || n == 0xE12

/-- A register as an instruction reads it; none where there is no such register. Cycles and retired instructions are free values. -/
def State.csrRead (s : State) (h : Nat) (H : Hart) (n : Nat) : Option Word64 :=
  match n with
  | 0x5C0 => some H.skctx
  | 0x001 => some (H.raw cFcsr &&& 0x1F)
  | 0x002 => some (H.raw cFcsr >>> 5)
  | 0x300 => some (statusView (H.raw cMstatus) ||| 0x800000000)
  | 0x100 => some (statusView (H.raw cMstatus) &&& sstatusBits)
  | 0x200 => some (statusView (H.raw cVsstatus))
  | 0x301 => some 0x80000000001411AD
  | 0x303 => some H.mideleg
  | 0x344 => some (H.raw cMip)
  | 0x104 => some (H.raw cMie &&& H.raw cMideleg)
  | 0x144 => some (H.raw cMip &&& H.raw cMideleg)
  | 0x604 => some (H.raw cMie &&& 0x1444)
  | 0x644 => some (H.raw cMip &&& 0x1444)
  | 0x645 => some (H.raw cMip &&& 0x444)
  | 0x204 => some ((H.raw cMie &&& H.raw cHideleg) >>> 1)
  | 0x244 => some ((H.raw cMip &&& H.raw cHideleg) >>> 1)
  | 0x180 => some (H.raw cSatp)
  | 0x280 => some (H.raw cVsatp)
  | 0x600 => some (H.raw cHstatus ||| 0x200000000)
  | 0x680 => some (H.raw cHgatp)
  | 0xF14 => some (BitVec.ofNat 64 h)
  | 0xC01 => some (s.time + if H.priv.virtual then H.raw 0x605 else 0)
  | 0xC00 => some (Config.freeResult s.free)
  | 0xC02 => some (Config.freeResult s.free)
  | 0xB00 => some (Config.freeResult s.free)
  | 0xB02 => some (Config.freeResult s.free)
  | _ => if csrZero n then some 0 else (assoc csrPlain n).map fun _ => H.raw n

/-- A value that a translation root takes: one with a MODE other than 0 and 9 changes nothing. -/
def Hart.putAtp (H : Hart) (n mask : Nat) (v : Word64) : Hart :=
  if v.toNat / 2 ^ 60 = 0 ∨ v.toNat / 2 ^ 60 = 9 then H.putRaw n (v &&& BitVec.ofNat 64 mask) else H

/-- A register as an instruction writes it. -/
def Hart.csrWrite (H : Hart) (n : Nat) (v : Word64) : Hart :=
  let all := 2 ^ 64 - 1
  match n with
  | 0x5C0 => H.setSkctx v
  | 0x001 => H.putBits cFcsr 0x1F v
  | 0x002 => H.putBits cFcsr 0xE0 (v <<< 5)
  | 0x300 => H.putBits cMstatus (if v.toNat / 2 ^ 11 % 4 = 2 then 0xC0007E61AA else 0xC0007E79AA) v
  | 0x100 => H.putBits cMstatus 0xC6122 v
  | 0x200 => H.putBits cVsstatus 0xC6122 v
  | 0x303 => H.putRaw cMideleg (v &&& 0x222)
  | 0x344 => H.putBits cMip 0x226 v
  | 0x104 => H.putBits cMie (H.raw cMideleg).toNat v
  | 0x144 => H.putBits cMip (H.raw cMideleg &&& 2).toNat v
  | 0x604 => H.putBits cMie 0x1444 v
  | 0x644 => H.putBits cMip 4 v
  | 0x645 => H.putBits cMip 0x444 v
  | 0x204 => H.putBits cMie (H.raw cHideleg).toNat (v <<< 1)
  | 0x244 => H.putBits cMip (H.raw cHideleg &&& 4).toNat (v <<< 1)
  | 0x180 => H.putAtp cSatp all v
  | 0x280 => H.putAtp cVsatp all v
  | 0x600 => H.putBits cHstatus 0x7003C0 v
  | 0x680 => H.putAtp cHgatp (all - 3 - 0xC00000000000000) v
  | _ => match assoc csrPlain n with
    | some m => H.putBits n m v
    | none => H

/-- In a guest's S-mode the supervisor's numbers name the guest's own registers. -/
def Hart.csrNumber (H : Hart) (n : Nat) : Nat :=
  if H.priv = .vs ∧ [0x100, 0x104, 0x105, 0x140, 0x141, 0x142, 0x143, 0x144, 0x180].contains n then n + 0x100 else n

/-- The floating-point state is off. -/
def Hart.fpOff (H : Hart) : Bool :=
  let off (w : Word64) : Bool := !(w.getLsbD 13 || w.getLsbD 14)
  off (H.raw cMstatus) || (H.priv.virtual && off (H.raw cVsstatus))

/-- The exception of an access to an unprivileged counter. -/
def Hart.counterBad (H : Hart) (k : Nat) : Option Nat :=
  let m := (H.raw 0x306).getLsbD k
  let hc := (H.raw 0x606).getLsbD k
  let sc := (H.raw 0x106).getLsbD k
  match H.priv with
  | .m => none
  | .hs => if m then none else some excIllegal
  | .u => if m && sc then none else some excIllegal
  | .vs => if !m then some excIllegal else if hc then none else some excVirtual
  | .vu => if !m then some excIllegal else if hc && sc then none else some excVirtual

/-- The exception of an access that the mode may not make. Every mode reads skctx, and HS-mode alone writes it (R365). -/
def Hart.csrBad (H : Hart) (n : Nat) (writes : Bool) : Option Nat :=
  let lv := n / 256 % 4
  let st := H.raw cMstatus
  if n = 0x5C0 then (if writes && H.priv != .hs then some excIllegal else none)
  else if writes ∧ n / 1024 = 3 then some excIllegal
  else if 1 ≤ n ∧ n ≤ 3 ∧ H.fpOff then some excIllegal
  else if 0xC00 ≤ n ∧ n ≤ 0xC1F then H.counterBad (n % 32)
  else match H.priv with
    | .m => none
    | .hs => if lv = 3 ∨ ((n = 0x180 ∨ n = 0x680) ∧ st.getLsbD 20) then some excIllegal else none
    | .u => if lv = 0 then none else some excIllegal
    | .vs =>
      if lv = 3 then some excIllegal
      else if lv = 2 ∨ (n = 0x180 ∧ (H.raw cHstatus).getLsbD 20) then some excVirtual else none
    | .vu => if lv = 0 then none else if lv = 3 then some excIllegal else some excVirtual

/-- A floating-point register or fcsr has changed: FS is dirty. -/
def Hart.fpDirty (H : Hart) : Hart :=
  let H1 := H.putRaw cMstatus (H.raw cMstatus ||| 0x6000)
  if H.priv.virtual then H1.putRaw cVsstatus (H1.raw cVsstatus ||| 0x6000) else H1

/-- The hart goes on past an instruction of `len` bytes. -/
def Hart.past (H : Hart) (len : Nat) : Hart := { H with pc := H.pc + BitVec.ofNat 64 len }

/-- A CSR instruction: funct3 1 to 3 write, set and clear by a register, 5 to 7 by the register field's value; a set or a clear by x0 or
by 0 writes nothing. -/
def State.csrWord (s : State) (h : Nat) (H : Hart) (f3 n : Nat) (rs1 rd : BitVec 5) (tval : Word64) : State :=
  let op := f3 % 4
  let writes := op == 1 || rs1 != 0
  match H.csrBad n writes, s.csrRead h H (H.csrNumber n) with
  | _, none => s.setHart h (H.except excIllegal tval)
  | some c, _ => s.setHart h (H.except c tval)
  | none, some old =>
    let v : Word64 := if f3 < 4 then H.reg rs1 else rs1.setWidth 64
    -- a set or a clear of pending bits starts from what software has set
    let new := if op = 1 then v else if op = 2 then old ||| v else old &&& ~~~ v
    let H1 := if writes then H.csrWrite (H.csrNumber n) new else H
    let H2 := if writes && decide (1 ≤ n) && decide (n ≤ 3) then H1.fpDirty else H1
    State.setHart { s with free := s.free + 1 } h ((H2.setReg rd old).past 4)

/-! ### Integer arithmetic (I, M) -/

def sext32 (v : Word64) : Word64 := (v.setWidth 32).signExtend 64

/-- OP and OP-IMM by funct3; `alt` selects SUB and SRA. -/
def rvAlu (f3 : Nat) (alt : Bool) (a b : Word64) : Word64 :=
  match f3 with
  | 0 => if alt then a - b else a + b
  | 1 => a <<< (b.toNat % 64)
  | 2 => if a.toInt < b.toInt then 1 else 0
  | 3 => if a.toNat < b.toNat then 1 else 0
  | 4 => a ^^^ b
  | 5 => if alt then a.sshiftRight (b.toNat % 64) else a >>> (b.toNat % 64)
  | 6 => a ||| b
  | _ => a &&& b

/-- OP-32 and OP-IMM-32. -/
def rvAluW (f3 : Nat) (alt : Bool) (a b : Word64) : Word64 :=
  let x : Word := a.setWidth 32
  let k := b.toNat % 32
  match f3 with
  | 0 => sext32 (if alt then a - b else a + b)
  | 1 => (x <<< k).signExtend 64
  | _ => (if alt then x.sshiftRight k else x >>> k).signExtend 64

/-- A quotient and a remainder of integers that round towards zero; a division by zero gives -1 and the dividend. -/
def rvDiv (a b : Int) : Int := if b = 0 then -1 else a.tdiv b
def rvRem (a b : Int) : Int := if b = 0 then a else a.tmod b

/-- M by funct3, on the operands' signed and unsigned readings. -/
def rvMul (f3 : Nat) (a b : Word64) : Word64 :=
  let au : Int := a.toNat
  let bu : Int := b.toNat
  BitVec.ofInt 64 (match f3 with
    | 0 => a.toInt * b.toInt
    | 1 => a.toInt * b.toInt / 2 ^ 64
    | 2 => a.toInt * bu / 2 ^ 64
    | 3 => au * bu / 2 ^ 64
    | 4 => rvDiv a.toInt b.toInt
    | 5 => rvDiv au bu
    | 6 => rvRem a.toInt b.toInt
    | _ => rvRem au bu)

def rvMulW (f3 : Nat) (a b : Word64) : Word64 :=
  let x : Word := a.setWidth 32
  let y : Word := b.setWidth 32
  sext32 (BitVec.ofInt 64 (match f3 with
    | 0 => x.toInt * y.toInt
    | 4 => rvDiv x.toInt y.toInt
    | 5 => rvDiv x.toNat y.toNat
    | 6 => rvRem x.toInt y.toInt
    | _ => rvRem x.toNat y.toNat))

/-- The condition of a branch. -/
def rvTaken (f3 : Nat) (a b : Word64) : Bool :=
  match f3 with
  | 0 => a == b
  | 1 => a != b
  | 4 => decide (a.toInt < b.toInt)
  | 5 => decide (b.toInt ≤ a.toInt)
  | 6 => decide (a.toNat < b.toNat)
  | _ => decide (b.toNat ≤ a.toNat)

/-- What an AMO stores, by funct5: none where there is none. -/
def rvAmo (f5 : Nat) (n : Nat) (old new : Nat) : Option Nat :=
  let i (x : Nat) : Int := (if n = 4 then (BitVec.ofNat 32 x).toInt else (BitVec.ofNat 64 x).toInt)
  match f5 with
  | 0 => some (old + new)
  | 1 => some new
  | 4 => some (old ^^^ new)
  | 8 => some (old ||| new)
  | 12 => some (old &&& new)
  | 16 => some (if i old ≤ i new then old else new)
  | 20 => some (if i new ≤ i old then old else new)
  | 24 => some (min old new)
  | 28 => some (max old new)
  | _ => none

/-! ### Floating point (F, D) -/

/-- Exception flags: NX 1, UF 2, OF 4, DZ 8, NV 16. -/
def fNX : Nat := 1
def fUF : Nat := 2
def fOF : Nat := 4
def fDZ : Nat := 8
def fNV : Nat := 16

/-- Whether a remainder `rem` of 2^d below the last place `n` rounds the magnitude up: to nearest even, towards zero, down, up, to nearest
with ties away. -/
def rvUp (rm : Nat) (neg : Bool) (n rem d : Nat) : Bool :=
  match rm with
  | 0 => decide (2 ^ d < 2 * rem) || (2 * rem == 2 ^ d && n % 2 == 1)
  | 1 => false
  | 2 => neg && rem != 0
  | 3 => !neg && rem != 0
  | _ => decide (2 ^ d ≤ 2 * rem)

/-- m × 2^e in units of 2^q, rounded, and whether it is inexact. -/
def rvUnits (rm : Nat) (neg : Bool) (m : Nat) (e q : Int) : Nat × Bool :=
  if q ≤ e then (m * 2 ^ (e - q).toNat, false)
  else
    let d := (q - e).toNat
    let n := m / 2 ^ d
    (if rvUp rm neg n (m % 2 ^ d) d then n + 1 else n, m % 2 ^ d != 0)

/-- A finite value rounded once, with its flags; `sticky` says that the exact magnitude lies strictly between m and m + 1 units. -/
def FFmt.rvRound (F : FFmt) (rm : Nat) (neg : Bool) (m : Nat) (e : Int) (sticky : Bool) : Nat × Nat :=
  let (m, e) := if sticky then (4 * m + 1, e - 2) else (m, e)
  if m = 0 then (F.zero neg, 0)
  else
    let q0 : Int := (m.log2 : Int) + e - F.fb
    let q := max q0 F.qmin
    let r := rvUnits rm neg m e q
    let (n, q) := if r.1 = 2 ^ (F.fb + 1) then (2 ^ F.fb, q + 1) else (r.1, q)
    let tiny := decide (q0 < F.qmin) && !(decide (q0 + 1 = F.qmin) && (rvUnits rm neg m e q0).1 == 2 ^ (F.fb + 1))
    let fl := (if r.2 then fNX else 0) + (if r.2 && tiny then fUF else 0)
    if n < 2 ^ F.fb then (F.zero neg + n, fl)
    else
      let ex := q + F.fb + F.bias
      if (F.emax : Int) ≤ ex then
        ((if rm = 1 ∨ (rm = 2 ∧ !neg) ∨ (rm = 3 ∧ neg) then F.maxFin neg else F.inf neg), fOF + fNX)
      else (F.zero neg + ex.toNat * 2 ^ F.fb + (n - 2 ^ F.fb), fl)

def FFmt.isSnan (F : FFmt) (w : Nat) : Bool := F.isNan w && !bitOf w (F.fb - 1)

/-- The flag of a signaling operand. -/
def FFmt.snans (F : FFmt) (ws : List Nat) : Nat := if ws.any F.isSnan then fNV else 0

/-- An exact result, rounded. A NaN that no operand brings is invalid. -/
def FFmt.rvPack (F : FFmt) (rm : Nat) (ins : List Nat) (v : FVal) : Nat × Nat :=
  match v with
  | .nan => (F.nan, if ins.any F.isNan then F.snans ins else fNV)
  | .inf neg => (F.inf neg, F.snans ins)
  | .fin neg m e => F.rvRound rm neg m e false

/-- The direction of an exact zero sum. -/
def rvSum (rm : Nat) (l : List FVal) : FVal := sumExact (if rm = 2 then .rd else .rn) l

def FFmt.rvDiv (F : FFmt) (rm : Nat) (a b : Nat) : Nat × Nat :=
  match F.unpack a, F.unpack b with
  | .fin s m e, .fin t n f =>
    if n = 0 then (if m = 0 then (F.nan, fNV) else (F.inf (s != t), fDZ))
    else
      let k := n.log2 + F.fb + 4
      let x := m * 2 ^ k
      if m = 0 then (F.zero (s != t), 0) else F.rvRound rm (s != t) (x / n) (e - f - k) (x % n != 0)
  | .inf _, .inf _ => (F.nan, fNV)
  | .inf s, .fin t _ _ => (F.inf (s != t), 0)
  | .fin s _ _, .inf t => (F.zero (s != t), 0)
  | _, _ => (F.nan, F.snans [a, b])

def FFmt.rvSqrt (F : FFmt) (rm : Nat) (a : Nat) : Nat × Nat :=
  match F.unpack a with
  | .nan => (F.nan, F.snans [a])
  | .inf neg => if neg then (F.nan, fNV) else (F.inf false, 0)
  | .fin neg m e =>
    if m = 0 then (F.zero neg, 0)
    else if neg then (F.nan, fNV)
    else
      let odd : Nat := (e % 2).toNat
      let x := m * 2 ^ (2 * (F.fb + 4) + odd)
      let r := isqrt x (x.log2 / 2 + 1)
      F.rvRound rm false r ((e - odd) / 2 - (F.fb + 4 : Nat)) (r * r != x)

/-- A × B + C with its signs; ∞ × 0 is invalid whatever C is. -/
def FFmt.rvFma (F : FFmt) (rm : Nat) (negP negC : Bool) (a b c : Nat) : Nat × Nat :=
  let p := (F.unpack a).mul (F.unpack b)
  let p := if negP then p.neg else p
  let v := rvSum rm [p, if negC then (F.unpack c).neg else F.unpack c]
  if p.isNan && !F.isNan a && !F.isNan b then (F.nan, fNV) else F.rvPack rm [a, b, c] v

/-- FMIN and FMAX: a NaN gives way to the other operand, and -0 lies below +0. -/
def FFmt.rvPick (F : FFmt) (small : Bool) (a b : Nat) : Nat × Nat := (F.pick small a b, F.snans [a, b])

/-- FLE, FLT and FEQ by funct3: FEQ alone is quiet. -/
def FFmt.rvCmp (F : FFmt) (f3 : Nat) (a b : Nat) : Bool × Nat :=
  if F.isNan a || F.isNan b then (false, if f3 = 2 then F.snans [a, b] else fNV)
  else (if f3 = 0 then decide (F.key a ≤ F.key b) else if f3 = 1 then decide (F.key a < F.key b) else F.key a == F.key b, 0)

/-- A value rounded to an integer of a range; out of the range, and a NaN, is invalid and gives the nearest end, a NaN the upper one. -/
def FFmt.rvToInt (F : FFmt) (rm : Nat) (lo hi : Int) (a : Nat) : Int × Nat :=
  match F.unpack a with
  | .nan => (hi, fNV)
  | .inf neg => (if neg then lo else hi, fNV)
  | .fin neg m e =>
    let r := rvUnits rm neg m e 0
    let n : Int := if neg then -(r.1 : Int) else r.1
    if n < lo then (lo, fNV) else if hi < n then (hi, fNV) else (n, if r.2 then fNX else 0)

/-- FCLASS. -/
def FFmt.rvClass (F : FFmt) (a : Nat) : Nat :=
  match F.unpack a with
  | .nan => if F.isSnan a then 2 ^ 8 else 2 ^ 9
  | .inf neg => if neg then 1 else 2 ^ 7
  | .fin neg m _ =>
    if m = 0 then (if neg then 2 ^ 3 else 2 ^ 4)
    else if m < 2 ^ F.fb then (if neg then 2 ^ 2 else 2 ^ 5)
    else if neg then 2 ^ 1 else 2 ^ 6

/-- A floating-point register as a value of a format: a single must be boxed in ones. -/
def Hart.fp (H : Hart) (F : FFmt) (n : BitVec 5) : Nat :=
  let v := (H.f[n.toNat]).toNat
  if F = f64 then v else if v / 2 ^ 32 = 2 ^ 32 - 1 then v % 2 ^ 32 else f32.nan

def boxed (F : FFmt) (v : Nat) : Word64 := BitVec.ofNat 64 (if F = f64 then v else (2 ^ 32 - 1) * 2 ^ 32 + v)

def Hart.setF (H : Hart) (n : BitVec 5) (v : Word64) : Hart := ({ H with f := H.f.set n.toNat v }).fpDirty

/-- Raises flags. -/
def Hart.flag (H : Hart) (fl : Nat) : Hart := if fl = 0 then H else (H.putRaw cFcsr (H.raw cFcsr ||| BitVec.ofNat 64 fl)).fpDirty

/-- The rounding mode of an instruction: its own, or fcsr's. -/
def Hart.rounding (H : Hart) (rm : Nat) : Option Nat :=
  let m := if rm = 7 then (H.raw cFcsr).toNat / 32 % 8 else rm
  if m ≤ 4 then some m else none

/-! ### The fields of a word -/

structure RvWord where
  op  : Nat
  rd  : BitVec 5
  f3  : Nat
  rs1 : BitVec 5
  rs2 : BitVec 5
  f7  : Nat
  immI : Word64
  immS : Word64
  immB : Word64
  immU : Word64
  immJ : Word64

def rvWord (w : BitVec 32) : RvWord where
  op := (w.extractLsb' 0 7).toNat
  rd := w.extractLsb' 7 5
  f3 := (w.extractLsb' 12 3).toNat
  rs1 := w.extractLsb' 15 5
  rs2 := w.extractLsb' 20 5
  f7 := (w.extractLsb' 25 7).toNat
  immI := (w.extractLsb' 20 12).signExtend 64
  immS := (w.extractLsb' 25 7 ++ w.extractLsb' 7 5).signExtend 64
  immB := (w.extractLsb' 31 1 ++ w.extractLsb' 7 1 ++ w.extractLsb' 25 6 ++ w.extractLsb' 8 4 ++ (0 : BitVec 1)).signExtend 64
  immU := (w.extractLsb' 12 20 ++ (0 : BitVec 12)).signExtend 64
  immJ := (w.extractLsb' 31 1 ++ w.extractLsb' 12 8 ++ w.extractLsb' 20 1 ++ w.extractLsb' 21 10 ++ (0 : BitVec 1)).signExtend 64

/-! ### Compressed instructions (C) -/

def encR (op f3 f7 : Nat) (rd rs1 rs2 : BitVec 5) : BitVec 32 :=
  BitVec.ofNat 7 f7 ++ rs2 ++ rs1 ++ BitVec.ofNat 3 f3 ++ rd ++ BitVec.ofNat 7 op

def encI (op f3 : Nat) (rd rs1 : BitVec 5) (imm : BitVec 12) : BitVec 32 := imm ++ rs1 ++ BitVec.ofNat 3 f3 ++ rd ++ BitVec.ofNat 7 op

def encS (op f3 : Nat) (rs1 rs2 : BitVec 5) (imm : BitVec 12) : BitVec 32 :=
  imm.extractLsb' 5 7 ++ rs2 ++ rs1 ++ BitVec.ofNat 3 f3 ++ imm.extractLsb' 0 5 ++ BitVec.ofNat 7 op

def encB (f3 : Nat) (rs1 : BitVec 5) (imm : BitVec 13) : BitVec 32 :=
  imm.extractLsb' 12 1 ++ imm.extractLsb' 5 6 ++ (0 : BitVec 5) ++ rs1 ++ BitVec.ofNat 3 f3 ++ imm.extractLsb' 1 4 ++ imm.extractLsb' 11 1 ++
    (0x63 : BitVec 7)

def encJ (rd : BitVec 5) (imm : BitVec 21) : BitVec 32 :=
  imm.extractLsb' 20 1 ++ imm.extractLsb' 1 10 ++ imm.extractLsb' 11 1 ++ imm.extractLsb' 12 8 ++ rd ++ (0x6F : BitVec 7)

/-- Quadrant 0. -/
def rvc0 (c : BitVec 16) : Option (BitVec 32) :=
  let rdp : BitVec 5 := (1 : BitVec 2) ++ c.extractLsb' 2 3
  let rsp : BitVec 5 := (1 : BitVec 2) ++ c.extractLsb' 7 3
  let w : BitVec 12 := (0 : BitVec 5) ++ c.extractLsb' 5 1 ++ c.extractLsb' 10 3 ++ c.extractLsb' 6 1 ++ (0 : BitVec 2)
  let d : BitVec 12 := (0 : BitVec 4) ++ c.extractLsb' 5 2 ++ c.extractLsb' 10 3 ++ (0 : BitVec 3)
  match (c.extractLsb' 13 3).toNat with
  | 0 =>
    let i : BitVec 12 := (0 : BitVec 2) ++ c.extractLsb' 7 4 ++ c.extractLsb' 11 2 ++ c.extractLsb' 5 1 ++ c.extractLsb' 6 1 ++ (0 : BitVec 2)
    if i = 0 then none else some (encI 0x13 0 rdp 2 i)
  | 1 => some (encI 0x07 3 rdp rsp d)
  | 2 => some (encI 0x03 2 rdp rsp w)
  | 3 => some (encI 0x03 3 rdp rsp d)
  | 5 => some (encS 0x27 3 rsp rdp d)
  | 6 => some (encS 0x23 2 rsp rdp w)
  | 7 => some (encS 0x23 3 rsp rdp d)
  | _ => none

/-- Quadrant 1. -/
def rvc1 (c : BitVec 16) : Option (BitVec 32) :=
  let rd : BitVec 5 := c.extractLsb' 7 5
  let rdp : BitVec 5 := (1 : BitVec 2) ++ c.extractLsb' 7 3
  let r2p : BitVec 5 := (1 : BitVec 2) ++ c.extractLsb' 2 3
  let sh : BitVec 6 := c.extractLsb' 12 1 ++ c.extractLsb' 2 5
  let i : BitVec 12 := sh.signExtend 12
  let j : BitVec 21 := (c.extractLsb' 12 1 ++ c.extractLsb' 8 1 ++ c.extractLsb' 9 2 ++ c.extractLsb' 6 1 ++ c.extractLsb' 7 1 ++
    c.extractLsb' 2 1 ++ c.extractLsb' 11 1 ++ c.extractLsb' 3 3 ++ (0 : BitVec 1)).signExtend 21
  let b : BitVec 13 := (c.extractLsb' 12 1 ++ c.extractLsb' 5 2 ++ c.extractLsb' 2 1 ++ c.extractLsb' 10 2 ++ c.extractLsb' 3 2 ++
    (0 : BitVec 1)).signExtend 13
  match (c.extractLsb' 13 3).toNat with
  | 0 => some (encI 0x13 0 rd rd i)
  | 1 => if rd = 0 then none else some (encI 0x1B 0 rd rd i)
  | 2 => some (encI 0x13 0 rd 0 i)
  | 3 =>
    if sh = 0 then none
    else if rd = 2 then
      let k : BitVec 10 := c.extractLsb' 12 1 ++ c.extractLsb' 3 2 ++ c.extractLsb' 5 1 ++ c.extractLsb' 2 1 ++ c.extractLsb' 6 1 ++ (0 : BitVec 4)
      some (encI 0x13 0 2 2 (k.signExtend 12))
    else some (sh.signExtend 20 ++ rd ++ (0x37 : BitVec 7))
  | 4 =>
    match (c.extractLsb' 10 2).toNat with
    | 0 => some (encI 0x13 5 rdp rdp ((0 : BitVec 6) ++ sh))
    | 1 => some (encI 0x13 5 rdp rdp ((0x10 : BitVec 6) ++ sh))
    | 2 => some (encI 0x13 7 rdp rdp i)
    | _ =>
      match (c.extractLsb' 12 1 ++ c.extractLsb' 5 2).toNat with
      | 0 => some (encR 0x33 0 0x20 rdp rdp r2p)
      | 1 => some (encR 0x33 4 0 rdp rdp r2p)
      | 2 => some (encR 0x33 6 0 rdp rdp r2p)
      | 3 => some (encR 0x33 7 0 rdp rdp r2p)
      | 4 => some (encR 0x3B 0 0x20 rdp rdp r2p)
      | 5 => some (encR 0x3B 0 0 rdp rdp r2p)
      | _ => none
  | 5 => some (encJ 0 j)
  | 6 => some (encB 0 rdp b)
  | _ => some (encB 1 rdp b)

/-- Quadrant 2. -/
def rvc2 (c : BitVec 16) : Option (BitVec 32) :=
  let rd : BitVec 5 := c.extractLsb' 7 5
  let rs2 : BitVec 5 := c.extractLsb' 2 5
  let sh : BitVec 6 := c.extractLsb' 12 1 ++ c.extractLsb' 2 5
  let lw : BitVec 12 := (0 : BitVec 4) ++ c.extractLsb' 2 2 ++ c.extractLsb' 12 1 ++ c.extractLsb' 4 3 ++ (0 : BitVec 2)
  let ld : BitVec 12 := (0 : BitVec 3) ++ c.extractLsb' 2 3 ++ c.extractLsb' 12 1 ++ c.extractLsb' 5 2 ++ (0 : BitVec 3)
  let sw : BitVec 12 := (0 : BitVec 4) ++ c.extractLsb' 7 2 ++ c.extractLsb' 9 4 ++ (0 : BitVec 2)
  let sd : BitVec 12 := (0 : BitVec 3) ++ c.extractLsb' 7 3 ++ c.extractLsb' 10 3 ++ (0 : BitVec 3)
  match (c.extractLsb' 13 3).toNat with
  | 0 => some (encI 0x13 1 rd rd ((0 : BitVec 6) ++ sh))
  | 1 => some (encI 0x07 3 rd 2 ld)
  | 2 => if rd = 0 then none else some (encI 0x03 2 rd 2 lw)
  | 3 => if rd = 0 then none else some (encI 0x03 3 rd 2 ld)
  | 4 =>
    if c.getLsbD 12 then
      if rs2 = 0 then (if rd = 0 then some 0x00100073 else some (encI 0x67 0 1 rd 0)) else some (encR 0x33 0 0 rd rd rs2)
    else if rs2 = 0 then (if rd = 0 then none else some (encI 0x67 0 0 rd 0)) else some (encR 0x33 0 0 rd 0 rs2)
  | 5 => some (encS 0x27 3 2 rs2 sd)
  | 6 => some (encS 0x23 2 2 rs2 sw)
  | _ => some (encS 0x23 3 2 rs2 sd)

/-- The instruction that a compressed one stands for; none where it is reserved. -/
def rvExpand (c : BitVec 16) : Option (BitVec 32) :=
  match (c.extractLsb' 0 2).toNat with
  | 0 => rvc0 c
  | 1 => rvc1 c
  | 2 => rvc2 c
  | _ => none

/-! ### Execution -/

/-- What an instruction does: the hart's next state, with the next pc in it; an exception; or a memory access first. -/
inductive RvEnd where
  | go (H : Hart)
  | except (cause : Nat)

/-- The value that a load of a size leaves in a register, by funct3. -/
def loadValue (f3 : Nat) (bs : List Byte) : Word64 :=
  let v := natOf bs
  match f3 with
  | 0 => (BitVec.ofNat 8 v).signExtend 64
  | 1 => (BitVec.ofNat 16 v).signExtend 64
  | 2 => (BitVec.ofNat 32 v).signExtend 64
  | _ => BitVec.ofNat 64 v

/-- A load in a mode: `put` takes what it reads. -/
def State.rvLoad (s : State) (h : Nat) (H : Hart) (p : Priv) (va : Word64) (n : Nat) (x : Bool) (put : List Byte → Hart) : State :=
  match s.hartDo h H p va (.read n) x with
  | (.ok bs, s) => s.setHart h (put bs)
  | (.error e, s) => s.hartEnds h H va e

/-- A store in a mode. -/
def State.rvStore (s : State) (h : Nat) (H : Hart) (p : Priv) (va : Word64) (n : Nat) (v : Word64) (next : Hart) : State :=
  match s.hartDo h H p va (.write (leOf n v.toNat)) with
  | (.ok _, s) => s.setHart h next
  | (.error e, s) => s.hartEnds h H va e

/-- LR, SC and the AMOs (A), of 4 or 8 bytes. A SC succeeds while the hart holds a reservation of the same bytes, the word still holds
what LR has read, and the part lets it: that is a free value (DESIGN CHOICE, log 21). -/
def State.rvAtomic (s : State) (h : Nat) (H : Hart) (w : RvWord) (len : Nat) (tval : Word64) : State :=
  let n := if w.f3 = 2 then 4 else 8
  let va := H.reg w.rs1
  let p := H.dataMode
  let put (H : Hart) (v : Nat) : Hart := (H.setReg w.rd (loadValue w.f3 (leOf n v))).past len
  let f5 := w.f7 / 4
  let at_ (k : AccKind) (f : State → Loc → State) : State :=
    if va.toNat % n ≠ 0 then s.setHart h (H.except (excMisaligned k) va)
    else match s.hartReach h H p va n k with
      | (.error e, s) => s.hartEnds h H va e
      | (.ok (.page _), s) => s.setHart h (H.except (excAccess k) va)
      | (.ok (.mem l), s) => f s l
  if f5 = 2 then
    if w.rs2 ≠ 0 then s.setHart h (H.except excIllegal tval)
    else at_ .load fun s l =>
      let v := natOf (s.readLoc l n)
      s.setHart h { put H v with resv := some (va.toNat, n, v) }
  else if f5 = 3 then
    at_ .store fun s l =>
      let f := s.takeFree
      let H0 := { H with resv := none }
      if H.resv = some (va.toNat, n, natOf (s.readLoc l n)) ∧ (Config.freeResult f.1).toNat % 2 = 0 then
        ((f.2.writeLoc l (leOf n (H.reg w.rs2).toNat)).setHart h ((H0.setReg w.rd 0).past len)).fire l n
      else f.2.setHart h ((H0.setReg w.rd 1).past len)
  else match rvAmo f5 n 0 0 with
    | none => s.setHart h (H.except excIllegal tval)
    | some _ => at_ .atomic fun s l =>
      let old := natOf (s.readLoc l n)
      let new := (rvAmo f5 n old ((H.reg w.rs2).toNat % 2 ^ (8 * n))).getD 0
      ((s.writeLoc l (leOf n new)).setHart h (put H old)).fire l n

/-- A result of a format in a floating-point register, with its flags. -/
def Hart.fpResult (H : Hart) (F : FFmt) (rd : BitVec 5) (r : Nat × Nat) : Hart := (H.setF rd (boxed F r.1)).flag r.2

/-- A conversion to an integer of the kind that the rs2 field names: W, WU, L, LU. -/
def Hart.fpToInt (H : Hart) (F : FFmt) (rm : Nat) (w : RvWord) : Option Hart :=
  let a := H.fp F w.rs1
  let out (lo hi : Int) : Int × Nat := F.rvToInt rm lo hi a
  let put (r : Int × Nat) (short : Bool) : Hart :=
    (H.setReg w.rd (if short then sext32 (BitVec.ofInt 64 r.1) else BitVec.ofInt 64 r.1)).flag r.2
  match w.rs2.toNat with
  | 0 => some (put (out (-2 ^ 31) (2 ^ 31 - 1)) true)
  | 1 => some (put (out 0 (2 ^ 32 - 1)) true)
  | 2 => some (put (out (-2 ^ 63) (2 ^ 63 - 1)) false)
  | 3 => some (put (out 0 (2 ^ 64 - 1)) false)
  | _ => none

def Hart.fpOfInt (H : Hart) (F : FFmt) (rm : Nat) (w : RvWord) : Option Hart :=
  let a := H.reg w.rs1
  let put (x : Int) : Hart := H.fpResult F w.rd (F.rvRound rm (decide (x < 0)) x.natAbs 0 false)
  match w.rs2.toNat with
  | 0 => some (put (a.setWidth 32).toInt)
  | 1 => some (put (a.setWidth 32).toNat)
  | 2 => some (put a.toInt)
  | 3 => some (put a.toNat)
  | _ => none

/-- OP-FP. -/
def Hart.opFp (H : Hart) (w : RvWord) : Option Hart :=
  let F := if w.f7 % 4 = 0 then f32 else f64
  let G := if w.f7 % 4 = 0 then f64 else f32
  let a := H.fp F w.rs1
  let b := H.fp F w.rs2
  let sign (x : Nat) : Bool := bitOf x (F.eb + F.fb)
  let res (r : Nat × Nat) : Option Hart := some (H.fpResult F w.rd r)
  let rounded (f : Nat → Option Hart) : Option Hart := (H.rounding w.f3).bind f
  if 2 ≤ w.f7 % 4 then none
  else match w.f7 / 4 with
    | 0 => rounded fun rm => res (F.rvPack rm [a, b] (rvSum rm [F.unpack a, F.unpack b]))
    | 1 => rounded fun rm => res (F.rvPack rm [a, b] (rvSum rm [F.unpack a, (F.unpack b).neg]))
    | 2 => rounded fun rm => res (F.rvPack rm [a, b] ((F.unpack a).mul (F.unpack b)))
    | 3 => rounded fun rm => res (F.rvDiv rm a b)
    | 11 => if w.rs2 = 0 then rounded fun rm => res (F.rvSqrt rm a) else none
    | 4 =>
      let s : Option Bool := match w.f3 with
        | 0 => some (sign b)
        | 1 => some (!sign b)
        | 2 => some (sign a != sign b)
        | _ => none
      s.map fun s => H.setF w.rd (boxed F (a % F.signBit + F.zero s))
    | 5 => if w.f3 = 0 then res (F.rvPick true a b) else if w.f3 = 1 then res (F.rvPick false a b) else none
    | 8 =>
      if w.rs2.toNat = 1 - w.f7 % 4 then
        rounded fun rm =>
          let x := H.fp G w.rs1
          some (H.fpResult F w.rd (F.rvPack rm [] (G.unpack x) |> fun r => (r.1, if G.isNan x then G.snans [x] else r.2)))
      else none
    | 20 => if w.f3 < 3 then some ((H.setReg w.rd (if (F.rvCmp w.f3 a b).1 then 1 else 0)).flag (F.rvCmp w.f3 a b).2) else none
    | 24 => rounded fun rm => H.fpToInt F rm w
    | 26 => rounded fun rm => H.fpOfInt F rm w
    | 28 =>
      if w.rs2 ≠ 0 then none
      else if w.f3 = 0 then some (H.setReg w.rd (if F = f64 then H.f[w.rs1.toNat] else sext32 (H.f[w.rs1.toNat])))
      else if w.f3 = 1 then some (H.setReg w.rd (BitVec.ofNat 64 (F.rvClass a)))
      else none
    | 30 => if w.rs2 = 0 ∧ w.f3 = 0 then
        some (H.setF w.rd (if F = f64 then H.reg w.rs1 else boxed f32 ((H.reg w.rs1).toNat % 2 ^ 32)))
      else none
    | _ => none

/-- The fused multiply-adds, by opcode. -/
def Hart.fmaFp (H : Hart) (w : RvWord) : Option Hart :=
  let F := if w.f7 % 4 = 0 then f32 else f64
  let rs3 : BitVec 5 := BitVec.ofNat 5 (w.f7 / 4)
  if 2 ≤ w.f7 % 4 then none
  else (H.rounding w.f3).map fun rm =>
    H.fpResult F w.rd (F.rvFma rm (w.op == 0x4B || w.op == 0x4F) (w.op == 0x47 || w.op == 0x4F) (H.fp F w.rs1) (H.fp F w.rs2) (H.fp F rs3))

/-! #### Privileged instructions -/

/-- MRET: the mode that MPP and MPV name. -/
def Hart.mret (H : Hart) : Hart :=
  let st := H.raw cMstatus
  let p := privOf (st.toNat / 2 ^ 11 % 4) (st.getLsbD 39)
  let new := (if st.getLsbD 7 then 8 else 0) + 0x80
  { H.putBits cMstatus (0x8000001888 + if p = .m then 0 else 0x20000) (BitVec.ofNat 64 new) with pc := H.raw cMepc, priv := p }

/-- SRET in M-mode and HS-mode: the mode that SPP and hstatus.SPV name. -/
def Hart.sretHost (H : Hart) : Hart :=
  let st := H.raw cMstatus
  let p := privOf (if st.getLsbD 8 then 1 else 0) ((H.raw cHstatus).getLsbD 7)
  let new := (if st.getLsbD 5 then 2 else 0) + 0x20
  { (H.putBits cMstatus 0x20122 (BitVec.ofNat 64 new)).putBits cHstatus 0x80 0 with pc := H.raw cSepc, priv := p }

/-- SRET in VS-mode. -/
def Hart.sretGuest (H : Hart) : Hart :=
  let st := H.raw cVsstatus
  let new := (if st.getLsbD 5 then 2 else 0) + 0x20
  { H.putBits cVsstatus 0x122 (BitVec.ofNat 64 new) with pc := H.raw cVsepc, priv := if st.getLsbD 8 then .vs else .vu }

def Hart.sret (H : Hart) : RvEnd :=
  match H.priv with
  | .u => .except excIllegal
  | .vu => .except excVirtual
  | .vs => if (H.raw cHstatus).getLsbD 22 then .except excVirtual else .go H.sretGuest
  | .hs => if (H.raw cMstatus).getLsbD 22 then .except excIllegal else .go H.sretHost
  | .m => .go H.sretHost

/-- ECALL's exception. -/
def ecallOf (p : Priv) : Nat :=
  match p with
  | .u => 8 | .vu => 8 | .hs => 9 | .vs => 10 | .m => 11

/-- SFENCE.VMA, HFENCE.VVMA and HFENCE.GVMA: the hart holds no translation, so that they only check the mode. -/
def Hart.fenceVma (H : Hart) (hyper gstage : Bool) (len : Nat) : RvEnd :=
  let tvm := (H.raw cMstatus).getLsbD 20
  match H.priv with
  | .m => .go (H.past len)
  | .hs => if tvm && (!hyper || gstage) then .except excIllegal else .go (H.past len)
  | .u => .except excIllegal
  | .vs => if hyper || (H.raw cHstatus).getLsbD 20 then .except excVirtual else .go (H.past len)
  | .vu => .except excVirtual

/-- The privileged instructions with funct3 0. A WFI may end at once. -/
def Hart.system (H : Hart) (word : BitVec 32) (len : Nat) : RvEnd :=
  let w := rvWord word
  if word = 0x00000073 then .except (ecallOf H.priv)
  else if word = 0x00100073 then .except excBreakpoint
  else if word = 0x10500073 then .go (H.past len)
  else if word = 0x30200073 then (if H.priv = .m then .go H.mret else .except excIllegal)
  else if word = 0x10200073 then H.sret
  else if w.rd = 0 ∧ w.f7 = 0x09 then H.fenceVma false false len
  else if w.rd = 0 ∧ w.f7 = 0x11 then H.fenceVma true false len
  else if w.rd = 0 ∧ w.f7 = 0x31 then H.fenceVma true true len
  else .except excIllegal

/-- The mode that HLV and HSV act as; an exception where they are not allowed. -/
def Hart.guestMode (H : Hart) : Except Nat Priv :=
  let g : Priv := if (H.raw cHstatus).getLsbD 8 then .vs else .vu
  match H.priv with
  | .vs => .error excVirtual
  | .vu => .error excVirtual
  | .u => if (H.raw cHstatus).getLsbD 9 then .ok g else .error excIllegal
  | _ => .ok g

/-- HLV, HLVX and HSV: a guest's load or store, whose faults report a guest's address. -/
def State.rvGuest (s : State) (h : Nat) (H : Hart) (w : RvWord) (len : Nat) (tval : Word64) : State :=
  let va := H.reg w.rs1
  let k := w.f7 / 2 % 4
  let n := 2 ^ k
  let u := w.rs2.toNat
  let known := w.f7 / 8 = 6 && (if w.f7 % 2 = 1 then w.rd == 0
    else u == 0 || (u == 1 && k != 3) || (u == 3 && (k == 1 || k == 2)))
  let ends (s : State) : HartEnd → State
    | .wait => s
    | .fault c => s.setHart h (H.trap false c va (excAddress c))
  if !known then s.setHart h (H.except excIllegal tval)
  else match H.guestMode with
    | .error c => s.setHart h (H.except c tval)
    | .ok p =>
      if w.f7 % 2 = 1 then
        match s.hartDo h H p va (.write (leOf n (H.reg w.rs2).toNat)) with
        | (.ok _, s) => s.setHart h (H.past len)
        | (.error e, s) => ends s e
      else
        match s.hartDo h H p va (.read n) (u == 3) with
        | (.ok bs, s) => s.setHart h ((H.setReg w.rd (loadValue (if u = 0 then k else 4 + k) bs)).past len)
        | (.error e, s) => ends s e

/-! #### One instruction -/

/-- The instructions that touch registers only. -/
def Hart.compute (H : Hart) (word : BitVec 32) (len : Nat) : RvEnd :=
  let w := rvWord word
  let a := H.reg w.rs1
  let b := H.reg w.rs2
  let put (v : Word64) : RvEnd := .go ((H.setReg w.rd v).past len)
  let fp (o : Option Hart) : RvEnd := match o with
    | some H1 => if H.fpOff then .except excIllegal else .go (H1.past len)
    | none => .except excIllegal
  match w.op with
  | 0x37 => put w.immU
  | 0x17 => put (H.pc + w.immU)
  | 0x6F => .go { H.setReg w.rd (H.pc + BitVec.ofNat 64 len) with pc := H.pc + w.immJ }
  | 0x67 => if w.f3 = 0 then .go { H.setReg w.rd (H.pc + BitVec.ofNat 64 len) with pc := (a + w.immI) &&& ~~~ 1 } else .except excIllegal
  | 0x63 => if w.f3 = 2 ∨ w.f3 = 3 then .except excIllegal else .go (if rvTaken w.f3 a b then { H with pc := H.pc + w.immB } else H.past len)
  | 0x13 =>
    if w.f3 = 1 then (if w.f7 / 2 = 0 then put (rvAlu 1 false a w.immI) else .except excIllegal)
    else if w.f3 = 5 then (if w.f7 / 2 = 0 ∨ w.f7 / 2 = 0x10 then put (rvAlu 5 (w.f7 / 2 == 0x10) a w.immI) else .except excIllegal)
    else put (rvAlu w.f3 false a w.immI)
  | 0x1B =>
    if w.f3 = 0 then put (rvAluW 0 false a w.immI)
    else if (w.f3 = 1 ∧ w.f7 = 0) ∨ (w.f3 = 5 ∧ (w.f7 = 0 ∨ w.f7 = 0x20)) then put (rvAluW w.f3 (w.f7 == 0x20) a w.immI)
    else .except excIllegal
  | 0x33 =>
    if w.f7 = 0 then put (rvAlu w.f3 false a b)
    else if w.f7 = 0x20 ∧ (w.f3 = 0 ∨ w.f3 = 5) then put (rvAlu w.f3 true a b)
    else if w.f7 = 1 then put (rvMul w.f3 a b)
    else .except excIllegal
  | 0x3B =>
    if w.f7 = 1 ∧ (w.f3 = 0 ∨ 4 ≤ w.f3) then put (rvMulW w.f3 a b)
    else if (w.f7 = 0 ∧ (w.f3 = 0 ∨ w.f3 = 1 ∨ w.f3 = 5)) ∨ (w.f7 = 0x20 ∧ (w.f3 = 0 ∨ w.f3 = 5)) then put (rvAluW w.f3 (w.f7 == 0x20) a b)
    else .except excIllegal
  | 0x0F => if w.f3 ≤ 1 then .go (H.past len) else .except excIllegal
  | 0x53 => fp (H.opFp w)
  | 0x43 => fp (H.fmaFp w)
  | 0x47 => fp (H.fmaFp w)
  | 0x4B => fp (H.fmaFp w)
  | 0x4F => fp (H.fmaFp w)
  | 0x73 => if w.f3 = 0 then H.system word len else .except excIllegal
  | _ => .except excIllegal

/-- The exception's value: an illegal word, a breakpoint's address, else 0. -/
def rvTval (H : Hart) (cause : Nat) (tval : Word64) : Word64 :=
  if cause = excIllegal ∨ cause = excVirtual then tval else if cause = excBreakpoint then H.pc else 0

/-- One instruction of RV64GCH outside the posting extension: `len` is 2 for one that was compressed, `tval` the bits as they stand in
memory. -/
def State.rvStep (s : State) (h : Nat) (H : Hart) (word : BitVec 32) (len : Nat) (tval : Word64) : State :=
  let w := rvWord word
  let p := H.dataMode
  let illegal : State := s.setHart h (H.except excIllegal tval)
  match w.op with
  | 0x03 =>
    if w.f3 = 7 then illegal
    else s.rvLoad h H p (H.reg w.rs1 + w.immI) (2 ^ (w.f3 % 4)) false fun bs => (H.setReg w.rd (loadValue w.f3 bs)).past len
  | 0x23 =>
    if 4 ≤ w.f3 then illegal else s.rvStore h H p (H.reg w.rs1 + w.immS) (2 ^ w.f3) (H.reg w.rs2) (H.past len)
  | 0x07 =>
    if (w.f3 ≠ 2 ∧ w.f3 ≠ 3) ∨ H.fpOff then illegal
    else s.rvLoad h H p (H.reg w.rs1 + w.immI) (2 ^ w.f3) false fun bs =>
      (H.setF w.rd (boxed (if w.f3 = 3 then f64 else f32) (natOf bs))).past len
  | 0x27 =>
    if (w.f3 ≠ 2 ∧ w.f3 ≠ 3) ∨ H.fpOff then illegal
    else s.rvStore h H p (H.reg w.rs1 + w.immS) (2 ^ w.f3) (H.f[w.rs2.toNat]) (H.past len)
  | 0x2F => if w.f3 = 2 ∨ w.f3 = 3 then s.rvAtomic h H w len tval else illegal
  | 0x73 =>
    if w.f3 % 4 ≠ 0 then s.csrWord h H w.f3 (word.extractLsb' 20 12).toNat w.rs1 w.rd tval
    else if w.f3 = 4 then s.rvGuest h H w len tval
    else match H.compute word len with
      | .go H1 => s.setHart h H1
      | .except c => s.setHart h (H.except c (rvTval H c tval))
  | _ =>
    match H.compute word len with
    | .go H1 => s.setHart h H1
    | .except c => s.setHart h (H.except c (rvTval H c tval))

end Sys2Proof.Machine
end

