-- ==== Sys2Proof/Machine/Issue.lean ====
section
/-! DEFINITION. Machine/Issue.lean: what stands around the meaning of a word: the issue of gang words, sequencer words (R227) and
hart words (R364), the order of events at a boundary (R348), the current charge and the hold (R53, R375), the choice of the words
that issue together (R339, R340), the passing of time, and the turns that the part takes when the outside world asks for nothing. -/

namespace Sys2Proof.Machine

/-! ### Current weights (R52, R55) -/

/-- The weights of R52 by opcode: first, last, weight. -/
def opWeights : List (Nat × Nat × Nat) :=
  [(0x000, 0x000, 0), (0x001, 0x00E, 1), (0x00F, 0x00F, 0), (0x010, 0x012, 1), (0x013, 0x016, 2), (0x017, 0x01E, 3)] ++
  [(0x01F, 0x01F, 0), (0x020, 0x021, 1), (0x040, 0x044, 3), (0x045, 0x047, 5), (0x048, 0x049, 6), (0x04A, 0x04F, 3)] ++
  [(0x050, 0x053, 2), (0x054, 0x05C, 3), (0x05D, 0x05D, 5), (0x05E, 0x05F, 7), (0x060, 0x065, 3), (0x066, 0x067, 2)] ++
  [(0x068, 0x068, 1), (0x069, 0x06A, 2), (0x06B, 0x074, 4), (0x075, 0x076, 2), (0x077, 0x07A, 1), (0x0C0, 0x0C1, 1)] ++
  [(0x0C2, 0x0C4, 2), (0x0C5, 0x0C8, 3), (0x0C9, 0x0EB, 1), (0x100, 0x101, 5), (0x102, 0x102, 6), (0x103, 0x104, 7)] ++
  [(0x105, 0x106, 3), (0x107, 0x108, 2), (0x109, 0x10D, 3), (0x10E, 0x10E, 2), (0x10F, 0x10F, 4), (0x110, 0x110, 3)] ++
  [(0x111, 0x111, 9), (0x112, 0x112, 11), (0x113, 0x113, 12), (0x114, 0x114, 5), (0x115, 0x115, 6), (0x116, 0x117, 7)] ++
  [(0x118, 0x119, 8), (0x11A, 0x11D, 4), (0x11E, 0x11F, 5), (0x120, 0x123, 4), (0x124, 0x127, 5), (0x128, 0x12A, 6)] ++
  [(0x12B, 0x12D, 8), (0x12E, 0x12E, 9), (0x12F, 0x134, 8), (0x135, 0x138, 9), (0x160, 0x165, 4), (0x166, 0x168, 2)] ++
  [(0x169, 0x176, 5), (0x177, 0x177, 1), (0x190, 0x194, 3), (0x195, 0x195, 1), (0x196, 0x196, 0), (0x197, 0x197, 2)] ++
  [(0x198, 0x1A4, 1), (0x1A8, 0x1A9, 0), (0x1B0, 0x1B4, 2), (0x1B5, 0x1B7, 1), (0x1B8, 0x1B9, 3), (0x1BA, 0x1BE, 2)] ++
  [(0x1BF, 0x1BF, 0), (0x1C0, 0x1C0, 1), (0x1C1, 0x1C1, 0), (0x1C2, 0x1C3, 3), (0x1D0, 0x1D0, 1), (0x1D1, 0x1D3, 4)] ++
  [(0x1D4, 0x1D4, 3), (0x1D5, 0x1D5, 1), (0x1D6, 0x1D7, 0), (0x1D8, 0x1D8, 1), (0x1E0, 0x1E0, 6), (0x1E1, 0x1E1, 1)] ++
  [(0x1E2, 0x1E8, 4), (0x1E9, 0x1EB, 2), (0x1EC, 0x1F1, 3), (0x1F2, 0x1F3, 2), (0x1F4, 0x1F5, 4)]

/-- The weights of the pairable operations by mini-opcode. -/
def miniWeights : List (Nat × Nat × Nat) :=
  [(0x01, 0x02, 3), (0x03, 0x03, 5), (0x04, 0x04, 6), (0x05, 0x0A, 3), (0x0B, 0x0E, 2), (0x0F, 0x14, 3)] ++
  [(0x15, 0x15, 2), (0x16, 0x17, 3), (0x18, 0x18, 5), (0x19, 0x1A, 7), (0x20, 0x21, 5), (0x22, 0x22, 6)] ++
  [(0x23, 0x24, 7), (0x25, 0x26, 3), (0x27, 0x28, 2), (0x29, 0x29, 3), (0x2A, 0x2A, 5), (0x2B, 0x2B, 6)] ++
  [(0x2C, 0x2D, 7), (0x2E, 0x2F, 8), (0x40, 0x47, 4), (0x50, 0x58, 8)]

/-- The weights of R55 by sequencer opcode. -/
def seqWeights : List (Nat × Nat × Nat) :=
  [(0x00, 0x05, 0), (0x06, 0x07, 6), (0x08, 0x08, 3), (0x09, 0x09, 14), (0x0A, 0x0A, 15), (0x0B, 0x0C, 13)] ++
  [(0x0D, 0x0D, 12), (0x0E, 0x0F, 13), (0x10, 0x10, 14), (0x11, 0x11, 15), (0x12, 0x13, 13), (0x14, 0x15, 6)] ++
  [(0x16, 0x16, 5), (0x17, 0x1A, 6)]

def weightIn (t : List (Nat × Nat × Nat)) (n : Nat) : Nat :=
  ((t.find? fun e => decide (e.1 ≤ n) && decide (n ≤ e.2.1)).map (·.2.2)).getD 0

/-! ### The lane arrays and the banks (R93, R94, R340, R370) -/

def opIn (w : BitVec 128) (l : List (Nat × Nat)) : Bool :=
  l.any fun r => decide (r.1 ≤ (w.extractLsb' 2 9).toNat) && decide ((w.extractLsb' 2 9).toNat ≤ r.2)

/-- A half of a PAIR word enters the special-function queue (R50, R143). -/
def isSpecial (h : Half) : Bool := decide (0x50 ≤ h.mini.toNat)

def isPair (w : BitVec 128) : Bool := w.extractLsb' 2 9 == 0x1FF

/-- The word enters the special-function queue. -/
def usesSfq (w : BitVec 128) : Bool := opIn w [(0x12B, 0x138)] || (isPair w && (isSpecial (half0 w) || isSpecial (half1 w)))

/-- The word names a vector register. -/
def namesVector (w : BitVec 128) : Bool :=
  match lenOf w with
  | none => false
  | some len =>
    let r := Raw.ofBits len (cutTo len w)
    match r.desc with
    | none => false
    | some t => [(t.d, r.d), (t.a, r.a), (t.b, r.b), (t.c, r.c)].any fun q => !(slotRegs q.1 q.2).isEmpty

/-- The lane arrays that a word needs (R94, R340). -/
def arraysOf (w : BitVec 128) : Nat :=
  if isPair w then 2
  else if opIn w [(0x040, 0x0BF), (0x100, 0x12A), (0x139, 0x15F), (0x1E0, 0x1FE)] && namesVector w then 1 else 0

/-- The registers that a word reads from the banks: a source that a latch holds is not read there (R93, R95). FP64 words and the dial-set
arithmetic read theirs spread over their cycles (R135, R274). -/
def bankReads (G : Gang) (w : BitVec 128) : List Nat :=
  if opIn w [(0x111, 0x113), (0x1E2, 0x1E5), (0x1E7, 0x1E8)] then []
  else
    let latch (p : Pos) : Option Latch := match p with
      | .a => G.latchA
      | .b => G.latchB
      | .c => G.latchC
    (((wordSources w).filter fun q => (latchHit (latch q.1) q.2).isNone).map (·.2)).eraseDups

def banksOf (G : Gang) (w : BitVec 128) : List Nat := (bankReads G w).map (· % 6)

/-- The cycles that a beat holds its lane array at class 1 (R93, R135, R274). -/
def beatCycles (G : Gang) (w : BitVec 128) : Nat :=
  if opIn w [(0x111, 0x113)] then 8
  else if opIn w [(0x1E2, 0x1E5), (0x1E7, 0x1E8)] then 4
  else max 1 (((List.range 6).map fun b => (banksOf G w).count b).foldl max 0)

/-- A number of class-1 lane cycles in half cycles of the cluster at a class (R370). -/
def halfCycles (cls n : Nat) : Nat := if cls = 0 then 4 * n else if cls = 1 then 2 * n else n

/-! ### The current charge (R53, R375) -/

/-- The parts of a word that are charged: weight and predicate of each (R53). -/
def chargedParts (w : BitVec 128) : List (Nat × Guard) :=
  if w.extractLsb' 2 9 = 0x1FF then [half0 w, half1 w].map fun h => (weightIn miniWeights h.mini.toNat, h.g)
  else [(weightIn opWeights (w.extractLsb' 2 9).toNat, ⟨w.extractLsb' 11 3, w.getLsbD 14⟩)]

/-- The charge of one beat of a word: the weight times the beat's active lanes (R375). -/
def beatCharge (G : Gang) (S : PcSlot) (w : BitVec 128) (b : Nat) : Nat :=
  ((chargedParts w).map fun h => h.1 * ((maskLanes (G.active S h.2)).filter fun i => i / 32 == b).length).sum

/-- The charges of a word from the cycle of its issue on: each of its three beats charges when it starts. -/
def chargeOf (cls : Nat) (G : Gang) (S : PcSlot) (w : BitVec 128) : List Nat :=
  let start (b : Nat) : Nat := halfCycles cls (b * beatCycles G w) / 2
  (List.range (start 2 + 1)).map fun t => (((List.range 3).filter fun b => start b == t).map (beatCharge G S w)).sum

/-- The word has weight 8 or more (R340). -/
def heavy (w : BitVec 128) : Bool := (chargedParts w).any fun h => decide (8 ≤ h.1)

/-- Charges to a cluster's draw accumulator, one for each cycle from now on (R375). -/
def State.charge (s : State) (core : Nat) (cs : List Nat) : State :=
  s.setCluster (core / 12) ((s.clusterNow (core / 12)).charge cs)

/-- A word that has issued: its beats charge the draw accumulator, and its lane array is taken (R370, R375). -/
def State.chargeWord (s : State) (P : Plot) (G : Gang) (S : PcSlot) (w : BitVec 128) : State :=
  let t := s.charge P.core (chargeOf (s.cluster (P.core / 12)).cls G S w)
  if arraysOf w = 0 then t
  else
    let x := t.cluster (P.core / 12)
    t.setCluster (P.core / 12) { x with lanesTill := max x.lanesTill (t.ticks + (halfCycles x.cls (3 * beatCycles G w) + 1) / 2) }

/-- A cluster does not issue a word: a heavy one under the hold (R340), a word that names a vector register while a change of class
pends (R372). -/
def Cluster.holdsBack (x : Cluster) (w : BitVec 128) : Bool :=
  (heavy w && x.hold) || ((namesVector w || isPair w) && x.pausing)

/-! ### Issue of a gang's word -/

/-- The agent in the cursor executes an instruction. -/
def State.runAs (s : State) (a : Agent) (i : Instr) : Res := exec i { s with cur := a }

/-- What follows an executed instruction. -/
def Res.after (r : Res) (f : State → State) : Res :=
  match r with
  | .next t => .next (f t)
  | .fault e => .fault e
  | .refused e => .refused e

/-- The slot waits for a dial: its word has not issued (R254). -/
def Wait.forDial : Wait → Bool
  | .dial .. => true
  | _ => false

/-- The slot's word has issued in a turn: it did not wait on, and it is not held for its dial. -/
def State.issued (t : State) (P : Plot) (G : Gang) (sl : SlotId) (S : PcSlot) : Bool :=
  match t.gang? P.id G.idx with
  | some G1 => G1.seq != G.seq && (S.wait == .none || S.wait.forDial) && !((G1.slot sl).any fun S1 => S1.wait.forDial)
  | none => true

/-- A word that waits on has not issued again: the gang and the slot keep their age (R339). -/
def State.keepAge (t : State) (P : Plot) (G : Gang) (sl : SlotId) (S : PcSlot) : State :=
  match t.gang? P.id G.idx with
  | some G1 =>
    t.setGang { G1.setSlot sl ((G1.slot sl).map fun S1 => if S1.issued = some t.ticks then { S1 with issued := S.issued } else S1) with
                  lastIssue := G.lastIssue }
  | none => t

/-- What a turn leaves of the issue: the charge of a word that has issued (R375), else the age. -/
def State.afterIssue (t : State) (P : Plot) (G : Gang) (sl : SlotId) (S : PcSlot) (w : BitVec 128) : State :=
  if t.issued P G sl S then t.chargeWord P G S w else t.keepAge P G sl S

/-- The gang has entered or left a handler, or its plot is suspended. -/
def State.turned (t : State) (P : Plot) (G : Gang) : Bool :=
  (t.plot? P.id).any (·.suspended) || (t.gang? P.id G.idx).any fun G1 => G1.frames.length != G.frames.length

/-- A gang inside a store of one slot is at no instruction boundary: a word of its other slot that traps or returns waits for it
(R171, R343; log 105). -/
def State.heldStore (s : State) (P : Plot) (G : Gang) (r : Res) : Res :=
  match r with
  | .next t => if G.storing && t.turned P G then .next s else r
  | _ => r

/-- A fetched word issues: a decoded word has its meaning, another traps. -/
noncomputable def State.issueWord (s : State) (P : Plot) (G : Gang) (sl : SlotId) (S : PcSlot) (w : BitVec 128) : Res :=
  match decodeAt S.pc w with
  | .error e => s.heldStore P G (.next (s.trap P (G.stamp sl s.ticks) sl S (decodeTrap e S.pc)))
  | .ok i =>
    if (s.clusterNow (P.core / 12)).holdsBack w then .next s
    else s.heldStore P G ((s.runAs (.gang P.id G.idx sl) i).after fun t => t.afterIssue P G sl S w)

/-- The slot fetches its word and issues it. -/
noncomputable def State.fetchIssue (s : State) (P : Plot) (G : Gang) (sl : SlotId) (S : PcSlot) : Res :=
  let S1 := { S with fid := none }
  match s.fetchWord P G sl S with
  | (.ok w, _, s) =>
    let G1 := G.setSlot sl (some S1)
    (s.setGang G1).issueWord P G1 sl S1 w
  | (.stall, f, s) => .next (s.setGang (G.setSlot sl (some { S with fid := f })))
  | (.fail code reason, _, s) =>
    s.heldStore P G (.next (s.trap P ((G.setSlot sl (some S1)).stamp sl s.ticks) sl S1 (fetchTrap code reason S.pc)))

/-- A turn of a PC slot (R348): its store goes on; or a deferred trap that is due, then a due chime, then the slot's word. -/
noncomputable def State.issueTurn (s : State) (p g : Nat) (sl : SlotId) : Res :=
  match s.plot? p, s.gang? p g with
  | some P, some G =>
    match G.slot sl with
    | none => .next s
    | some S =>
      if P.away ∨ G.life ≠ .running then .next s
      else match S.stored with
        | some (size, len, lanes) => .next (s.advanceStore P G sl S size len lanes)
        | none =>
          if P.suspended then .next s
          else match G.deferDue, s.chimeNow P G with
            | some (d, ds), _ => .next (s.takeDeferred P { G with defer := ds } d)
            | none, some (tid, t, v) => .next (s.deliver P G tid t v)
            | none, none => if s.mayIssue P G S then s.fetchIssue P G sl S else .next s
  | _, _ => .next s

/-- A slot that may issue fetches the line of its next word ahead (R46, R339); a fetch that fails is left to the word's issue. -/
def State.fetchTurn (s : State) (p g : Nat) (sl : SlotId) : State :=
  match s.plot? p, s.gang? p g with
  | some P, some G =>
    match G.slot sl with
    | some S =>
      if s.mayIssue P G S then
        match s.fetchWord P G sl S with
        | (.ok _, _, s) => s.setGang (G.setSlot sl (some { S with fid := none }))
        | (.stall, f, s) => s.setGang (G.setSlot sl (some { S with fid := f }))
        | (.fail _ _, _, _) => s
      else s
    | none => s
  | _, _ => s

/-! ### A turn of a tile stream (R227, R230) -/

/-- The word that a stream executes: the matrix word under way; else the word at its PC, from its 64-byte line, which is fetched as
published where the stream does not hold it (R46). -/
def State.streamWord (s : State) (P : Plot) : Fetched (BitVec 64) × Option Nat × State :=
  let pc := P.stream.pc.toNat
  match P.stream.cached, s.fetchHeld P.stream.fid with
  | some w, _ => (.ok w, none, s)
  | none, some (.fail c r) => (.fail c r, none, s)
  | none, some _ => (.stall, P.stream.fid, s)
  | none, none =>
    match s.fetchCheck pc 8 with
    | some e => (.fail e.1 e.2, none, s)
    | none =>
      match s.fetchAt P.ctx (pc - pc % 64) 64 .seqFetch ⟨P.lid, whoWord 0 0 0 .A 7, P.stream.pc, AccKind.seqFetch.code⟩ (.die (dieOf P.core)) with
      | (.ok bs, _, s) =>
        (.ok (BitVec.ofNat 64 (fieldAt bs (pc % 64) 8)), none, s.setPlot { P with stream := { P.stream with line := some (pc / 64, bs) } })
      | (.stall, f, s) => (.stall, f, s)
      | (.fail c r, _, s) => (.fail c r, none, s)

/-- The charge of a cycle that the engine spends on a sequencer word (R375). -/
def seqCharge (w : BitVec 64) : Nat := 32 * weightIn seqWeights (w.extractLsb' 2 6).toNat

/-- The engine has spent its cycles on a step of a sequencer word; their number is free. -/
def State.chargeEngine (s : State) (core : Nat) (w : BitVec 64) : State :=
  let f := s.takeFree
  f.2.charge core (List.replicate (Config.freeEngine f.1 + 1) (seqCharge w))

/-- A decoded sequencer word has its meaning; another faults the stream (R55). While a matrix word is under way the stream keeps it; while
a change of class pends no other word issues (R372). -/
noncomputable def State.streamRun (s : State) (P : Plot) (w : BitVec 64) : Res :=
  match decodeSeq w with
  | .error n => .next (s.setPlot (P.stopAt ⟨0x13, n, 0⟩))
  | .ok i =>
    let x := s.clusterNow (P.core / 12)
    if (x.hold && decide (12 * 32 ≤ seqCharge w)) || (x.pausing && P.stream.mat.isNone) then .next s
    else (s.runAs (.stream P.id) i).after fun t =>
      let t1 := match t.plot? P.id with
        | some Q => if Q.stream.mat.isSome then t.setPlot { Q with stream := { Q.stream with word := some w } } else t
        | none => t
      t1.chargeEngine P.core w

noncomputable def State.streamTurn (s : State) (p : Nat) : Res :=
  match s.plot? p with
  | some P =>
    if P.place = .resident ∧ P.stream.state = .run ∧ !P.stream.stop then
      match s.streamWord P with
      | (.ok w, _, s) =>
        let P1 := (s.plot? p).getD P
        let P2 := { P1 with stream := { P1.stream with fid := none } }
        (s.setPlot P2).streamRun P2 w
      | (.stall, f, s) => .next (s.setPlot { P with stream := { P.stream with fid := f } })
      | (.fail code reason, _, s) =>
        .next (s.setPlot ({ P with stream := { P.stream with fid := none } }.stopAt ⟨code, reason, P.stream.pc⟩))
    else .next s
  | none => .next s

/-! ### A turn of an Orangery hart (R364 to R366) -/

/-- A word of 32 bits: one of the posting extension, or of RV64GCH. -/
noncomputable def State.hartRun (s : State) (h : Nat) (H : Hart) (w : BitVec 32) : Res :=
  match decodeHart w with
  | .ok i => s.runAs (.hart h) i
  | .illegal => .next (s.setHart h (H.except excIllegal (w.setWidth 64)))
  | .base => .next (s.rvStep h H w 4 (w.setWidth 64))

/-- A parcel of 16 bits that is a whole instruction. -/
def State.hartShort (s : State) (h : Nat) (H : Hart) (c : BitVec 16) : State :=
  match rvExpand c with
  | some w => s.rvStep h H w 2 (c.setWidth 64)
  | none => s.setHart h (H.except excIllegal (c.setWidth 64))

/-- Two bytes of a hart's instruction, as its fetch reads them. -/
def State.hartParcel (s : State) (h : Nat) (H : Hart) (pc : Word64) : Except HartEnd Nat × State :=
  match s.hartMem h H H.priv pc 2 .fetch with
  | (.ok l, s) => (.ok (natOf (s.readLoc l 2)), s)
  | (.error e, s) => (.error e, s)

/-- A hart takes an interrupt, or fetches its instruction, of 16 or 32 bits, and executes it. -/
noncomputable def State.hartTurn (s : State) (h : Nat) : Res :=
  match s.hart? h with
  | none => .next s
  | some H =>
    match H.interrupt with
    | some k => .next (s.setHart h (H.trap true k 0 false))
    | none =>
      match s.hartParcel h H H.pc with
      | (.error e, s) => .next (s.hartEnds h H H.pc e)
      | (.ok lo, s) =>
        if lo % 4 ≠ 3 then .next (s.hartShort h H (BitVec.ofNat 16 lo))
        else match s.hartParcel h H (H.pc + 2) with
          | (.error e, s) => .next (s.hartEnds h H (H.pc + 2) e)
          | (.ok hi, s) => s.hartRun h H (BitVec.ofNat 32 (lo + 65536 * hi))

/-! ### Worker cores and governors (R382) -/

/-- The requests that the worker cores parse, from SPDM, mailbox and link-management packets. -/
def parsed (i : Instr) : Bool :=
  match i with
  | .getMeasurements .. => true
  | .lockInterface .. => true
  | .startInterface .. => true
  | .stopInterface .. => true
  | .keyInstall .. => true
  | .lifecycleTransition .. => true
  | .svnRaise => true
  | .domainForm .. => true
  | .partLeavesDomain .. => true
  | _ => false

/-- A worker core hands the governors a parsed request; no other request enters the queue. -/
def State.handOver (s : State) (i : Instr) : State :=
  if s.booted && parsed i then { s with fw := { s.fw with queue := s.fw.queue ++ [i] } } else s

/-- The governors check and perform the oldest request. -/
def State.governorTurn (s : State) : Res :=
  match s.fw.queue with
  | [] => .next s
  | i :: rest => exec i { s with fw := { s.fw with queue := rest } }

/-! ### Turns -/

noncomputable def State.runTurn (s : State) : Turn → Res
  | .issue p g sl => s.issueTurn p g sl
  | .fetch p g sl => .next (s.fetchTurn p g sl)
  | .stream p => s.streamTurn p
  | .hart h => s.hartTurn h
  | .peer part q => .next (s.peerTurn part q)
  | .posted k => .next (s.postedTurn k)
  | .serviceFail n => .next (s.serviceFail n)
  | .worker i => .next (s.handOver i)
  | .governor => s.governorTurn
  | .softError e => .next (s.softError e)
  | .event i => exec i s

/-- Time passes: an open number of cluster cycles, with TIME counting nanoseconds of the 1.1 GHz clock (R4, R370). -/
def State.advance (s : State) : State :=
  let t := s.ticks + Config.freeCycles s.free
  { s with ticks := t, time := BitVec.ofNat 64 (t * 10 / 11), free := s.free + 1 }

/-! ### The turns that the part takes of itself -/

/-- Order of R339: descending PRIO, descending age, ascending gang index, ascending plot slot. -/
def pickBefore (now : Nat) (x y : Plot × Gang) : Bool :=
  let age (G : Gang) : Nat := now - G.lastIssue.getD G.since
  let key (q : Plot × Gang) : List Nat := [11 - q.1.tmpl.prio, (2 ^ 64) - age q.2, q.2.idx, q.1.pslot]
  decide (key x < key y)

def pickInsert (now : Nat) (x : Plot × Gang) : List (Plot × Gang) → List (Plot × Gang)
  | [] => [x]
  | y :: ys => if pickBefore now x y then x :: y :: ys else y :: pickInsert now x ys

/-- The gangs of a core in the order of R339. -/
def State.pickOrder (s : State) (core : Nat) : List (Plot × Gang) :=
  let ps := (s.plots.map (·.2)).filter fun P => P.core == core && P.place == .resident
  (ps.flatMap fun P => (s.gangsOf P.id).map fun G => (P, G)).foldl (fun l x => pickInsert s.ticks x l) []

/-- The slots of a gang, the one that issued less recently first (R339). -/
def Gang.slotOrder (G : Gang) : List SlotId :=
  match G.a, G.b with
  | some a, some b =>
    match a.issued, b.issued with
    | some x, some y => if y < x then [.B, .A] else [.A, .B]
    | some _, none => [.B, .A]
    | none, _ => [.A, .B]
  | some _, none => [.A]
  | none, some _ => [.B]
  | none, none => []

/-- A slot in a wait of R73, or inside a store: it is no candidate. -/
def Wait.blocks : Wait → Bool
  | .none => false
  | .dial .. => false
  | _ => true

/-- The word that a slot would issue now: none while the slot is blocked, while its word is not fetched, while the cluster keeps it back, or
while its turn does nothing (the scoreboard, a full queue or counter). A fetch that fails counts as the word 0. -/
noncomputable def State.ready (s : State) (x : Plot × Gang) (sl : SlotId) : Option (BitVec 128) :=
  match x.2.slot sl with
  | none => none
  | some S =>
    let acts := match s.issueTurn x.1.id x.2.idx sl with
      | .next t => decide (t ≠ s)
      | _ => true
    if S.wait.blocks || !s.mayIssue x.1 x.2 S || !acts then none
    else match s.wordOf x.1 S, (s.fetchWord x.1 x.2 sl S).1 with
      | some w, _ => if (s.clusterNow (x.1.core / 12)).holdsBack w then none else some w
      | none, .fail _ _ => some 0
      | none, _ => none

/-- A slot that may be picked, with its word. -/
structure Pick where
  P  : Plot
  G  : Gang
  sl : SlotId
  w  : BitVec 128

def Pick.turn (x : Pick) : Turn := .issue x.P.id x.G.idx x.sl

/-- The first ready slot of a gang, spin-demoted or not as asked. -/
noncomputable def State.candidate (s : State) (demoted : Bool) (x : Plot × Gang) : Option Pick :=
  x.2.slotOrder.findSome? fun sl =>
    if (x.2.slot sl).any fun S => S.demoted.isSome == demoted then (s.ready x sl).map fun w => ⟨x.1, x.2, sl, w⟩ else none

/-! ### Conflicts of two words (R340) -/

/-- The word accesses a scratchpad: the words of range E but the atomics on global memory, block packing, DIALLD, the block form of
DSEXP (R271), and the words that read a block or a descriptor in the bower or work on a ledger there (R187, R205, R207, R296). -/
def usesScratch (w : BitVec 128) : Bool :=
  opIn w [(0x160, 0x168), (0x128, 0x12A), (0x1E0, 0x1E0), (0x198, 0x19D), (0x19F, 0x19F), (0x1B0, 0x1BE), (0x1C2, 0x1C3)] ||
    (opIn w [(0x169, 0x176)] && w.extractLsb' 18 2 != 3) || (opIn w [(0x1ED, 0x1ED)] && w.getLsbD 18)

/-- The word counts in an engine class (R188). -/
def usesEngine (w : BitVec 128) : Bool :=
  opIn w [(0x198, 0x19A), (0x19C, 0x19D), (0x19F, 0x19F), (0x1B0, 0x1B4), (0x1B8, 0x1BE), (0x1C2, 0x1C3)]

/-- The word is CHIME, CHPERM or CHINFO. -/
def usesChime (w : BitVec 128) : Bool := opIn w [(0x1A0, 0x1A0), (0x1A3, 0x1A4)]

/-- The second word is not picked beside the first (R340). How many lane arrays of the core are free is a free value. -/
def State.conflict (s : State) (core : Nat) (x y : Pick) : Bool :=
  decide (Config.freeArrays (384 * s.free + core) < arraysOf x.w + arraysOf y.w) ||
    (banksOf x.G x.w).any (fun b => (banksOf y.G y.w).contains b) ||
    (usesScratch x.w && usesScratch y.w) || (usesEngine x.w && usesEngine y.w) || (usesChime x.w && usesChime y.w) ||
    (usesSfq x.w && usesSfq y.w)

/-- The charge of a candidate's next beat (R375). -/
def Pick.charge (x : Pick) : Nat := ((x.G.slot x.sl).map fun S => beatCharge x.G S x.w 0).getD 0

/-- The smallest charge, the first on a tie. -/
def lightest : List Pick → Option Pick
  | [] => none
  | x :: xs =>
    match lightest xs with
    | some y => if y.charge < x.charge then some y else some x
    | none => some x

/-- The picks among candidates in order: the first, and the next without a conflict, or under pairing the one with the smallest charge
(R339, R375). -/
def State.pickTwo (s : State) (core : Nat) : List Pick → List Turn
  | [] => []
  | x :: xs =>
    let ys := xs.filter fun y => !s.conflict core x y
    x.turn :: ((if (s.clusterNow (core / 12)).pairing then lightest ys else ys.head?).map Pick.turn).toList

/-- Up to two slots of different gangs of a core; spin-demoted slots only where no other is ready (R339, R342). -/
noncomputable def State.picks (s : State) (core : Nat) : List Turn :=
  let order := s.pickOrder core
  match order.filterMap (s.candidate false) with
  | [] => s.pickTwo core (order.filterMap (s.candidate true))
  | l => s.pickTwo core l

/-- The slots of a gang that fetch ahead, and those whose word looks again whether its wait is over. -/
def Gang.polls (G : Gang) : List Turn :=
  [SlotId.A, SlotId.B].flatMap fun sl =>
    match G.slot sl with
    | none => []
    | some S => Turn.fetch G.plot G.idx sl :: if S.wait.blocks && (S.wait.issues || S.storing) then [.issue G.plot G.idx sl] else []

/-- The machine steps of a gang that may be due. -/
noncomputable def Gang.turns (G : Gang) : List Turn :=
  let p := G.plot
  let g := G.idx
  let slots : List Instr := [SlotId.A, SlotId.B].flatMap fun sl =>
    [.waitcRecheck p g sl, .sleepExpire p g sl, .psleepWake p g sl, .spinDemote p g sl, .spinDemotionTimeout p g sl,
      .swapEligible p g sl]
  let cls (k : BitVec 2) (l : List EngOp) : List Instr :=
    (l.flatMap fun o => [.tmovRReserve p g o.num.toNat, .tmovVClaim p g o.num.toNat, .cpydecCheck p g o.num.toNat,
      .engineAccess p g k o.num.toNat, .tmovRFill p g o.num.toNat]) ++ [.engineComplete p g k]
  let l : List Instr :=
    [.joinResolve p g, .barPhArrival p g] ++ slots ++
      (G.loads.flatMap fun l => l.lanes.map fun e => .globalLoadPerform p g l.id e.1) ++ [.gmAtomicPerform p g] ++
      (G.sbuf.map fun l => .bufferDrain p g l.line) ++
      ((G.relLane.map fun r => r.2.2.2.2.map fun e => Instr.bufferDrain p g (e.2.1 / 64)).getD []) ++
      [.boundaryAcknowledge p g, .fenceRForcedPoint p g, .deferredTrap p g, .chimeStep p g, .chimeDelivery p g] ++
      cls 0 G.engCp ++ cls 1 G.engGs ++ cls 2 G.engCl ++ [.postAtHub p g] ++ cls 3 G.engEv ++
      [.gangDrainComplete p g, .armedDecrement p g]
  l.map .event

/-- A hart's turn does something. -/
noncomputable def State.hartActs (s : State) (h : Nat) : Bool :=
  match s.hartTurn h with
  | .next t => decide (t ≠ s)
  | _ => false

/-- Admission of the head of the backlog to each core that it may use. -/
noncomputable def State.admissions (s : State) : List Turn :=
  match headOf s.backlog with
  | none => []
  | some b => ((s.headClusters b.what).flatMap fun c => (List.range 12).map fun k => Instr.admission (12 * c + k) true).map .event

/-- One turn of everything that may move without the outside world: issue, streams, engines, queues, the hub, the scheduler
and the harts. Which of them moves, and how often, is the part's own choice (R168, R173, R341). -/
noncomputable def State.turns (s : State) : List Turn :=
  let used := ((s.plots.map (·.2.core)) ++ s.cores.map (·.1)).eraseDups
  let ev (l : List Instr) : List Turn := l.map .event
  used.flatMap s.picks ++ (s.gangs.flatMap fun q => q.2.polls) ++
    ((s.plots.filter fun q => q.2.stream.state == .run).map fun q => Turn.stream q.1) ++
    (s.gangs.flatMap fun q => q.2.turns) ++
    ev (used.flatMap fun c => .sfqEntryComplete c :: .preemptionHalt c ::
      (s.core c).compile.map fun k => .dialCompileComplete c (BitVec.ofNat 2 k.1)) ++
    ev (s.plots.flatMap fun q => [.claimGrant q.1, .sqwtResume q.1, .streamGranuleStop q.1, .saveRecord q.1]) ++
    ev (s.streams.flatMap fun q => [.streamFetch q.1, .replayEmit q.1, .errorOverflowRecord q.1]) ++
    ev (s.autos.flatMap fun q => [.eventRelease q.1, .virtualEventFire q.1, .launchBacklogEntry q.1, .postAction q.1]) ++
    ev (s.orphans.map fun l => .launchBacklogEntry l.slot) ++
    s.admissions ++ ev [.preemptForHead, .swapSave] ++
    ev (s.clusters.flatMap fun q => [.drawAccumulatorWindow q.1, .classChange q.1]) ++
    ev (s.contexts.flatMap fun c => (c.2.counters.filter fun q => c.2.extT != 0 && decide (2 ^ c.2.extT ≤ q.2.1)).map fun q =>
      .extentCounterAppend q.1.1 c.1 q.1.2 (q.2.2 / 4 % 16) (q.2.2 / 64)) ++
    ((List.range s.posted.length).map fun k => Turn.posted k) ++ (s.fw.queue.map fun _ => Turn.governor) ++
    ((s.harts.filter fun q => s.hartActs q.1).map fun q => Turn.hart q.1)

end Sys2Proof.Machine
end

