-- ==== Sys2Proof/Machine/Step.lean ====
section
/-! DEFINITION. Machine/Step.lean: one step of the part: the turn at the head of the agenda. -/

namespace Sys2Proof.Machine

/-- One step. `agenda` holds the turns to come, in order: the choices that R168 and R339 leave to the part, and the acts of
the outside world. Time passes, then the first turn is taken; an empty agenda is filled with the part's own turns. A module
without power does nothing but start again (R387). -/
noncomputable def step (s : State) : Host.Outcome State Fault Refusal :=
  match s.agenda with
  | [] =>
    if s.power then
      let s1 := s.advance
      .next { s1 with agenda := s1.turns }
    else .fault .powerOff
  | t :: rest =>
    if s.power ∨ t = .event .resetBoot then
      Res.after (({ s with agenda := rest } : State).advance.runTurn t) fun x => { x with cur := .none }
    else .fault .powerOff

/-- The owner's TLB and access table let a fetch of a context reach the first 64 KiB of die 0's memory. -/
def State.withCode (s : State) (bytes : List Byte) : State :=
  { s with
    hbm := s.hbm.writeN 0 bytes
    tlb := ⟨0, 0, 0, 65536, 0x78#64⟩ :: s.tlb
    fw := { s.fw with access := ((0, Master.cores.num), 7) :: ((0, Master.harts.num), 7) :: s.fw.access } }

/-- A word of 32 bits stands at the PC of hart 0. A longer one stands at the PC of slot A of gang 0 of a plot of one gang
with 192 registers, which its launch has just put on core 0, in a cluster whose current budget no word of it reaches. Its turn is next. Log entry 3. -/
def State.withFetchWord (s : State) (nbits w : Nat) : State :=
  let s1 := s.withCode (leBytes 16 (w % 2 ^ nbits))
  if nbits = 32 then
    { s1 with agenda := [.hart 0], harts := s1.harts.put 0 { (s1.hart? 0).getD Hart.fresh with pc := 0 } }
  else
    let t : Template := ⟨0, 0, 1, 192, 192, 1536, 0, 0, 0, false, 0, []⟩
    let l : Launch := ⟨0, 0, 0, 0, 0, [], [], 0, [], 0, 0, 0, 0⟩
    let P := Plot.launch 0 0 0 0 0 0 s.ticks t l
    { (s1.setPlot P).setGang (Gang.launch P 0 s.ticks) with
        agenda := [.issue 0 0 .A], clusters := s1.clusters.put 0 { s1.cluster 0 with budget := 2 ^ 20, hold := false } }

end Sys2Proof.Machine
end

