-- ==== Sys2Proof/Safety.lean ====
section
/-! DEFINITION. Safety.lean: the terms that the statements use: an agent that is ready to execute a word, what a word of
a gang leaves alone, and what every run keeps. -/

namespace Sys2Proof.Machine

/-! ### Memory -/

/-- A plot's own memories are in canonical form: its bower and its tiles. -/
def Plot.MemWf (P : Plot) : Prop := P.bower.mem.wf = true ∧ ∀ T ∈ P.tiles, T.mem.wf = true

/-- Every memory is in canonical form: the part's HBM, host memory and the other parts' memory; each plot's bower and tiles; each
granted pavilion and conservatory region. -/
structure State.MemWf (s : State) : Prop where
  hbm   : s.hbm.mem.wf = true
  host  : s.host.mem.wf = true
  peers : s.peers.mem.wf = true
  plots : ∀ q ∈ s.plots, q.2.MemWf
  pads  : ∀ q ∈ s.pads, q.2.store.mem.wf = true

/-- Every valid operand latch of the gang holds the value that its register has (R95). -/
def Gang.LatchesAgree (G : Gang) : Prop :=
  ∀ l ∈ [G.latchA, G.latchB, G.latchC], ∀ x, l = some x → x.val = G.vreg x.reg

/-- Two states read the same byte everywhere: in global memory, in every bower and in every granted region. -/
structure SameMemory (s t : State) : Prop where
  hbm   : ∀ a, t.hbm.mem.read a = s.hbm.mem.read a
  host  : ∀ a, t.host.mem.read a = s.host.mem.read a
  peers : ∀ a, t.peers.mem.read a = s.peers.mem.read a
  bower : ∀ p P P', s.plot? p = some P → t.plot? p = some P' → ∀ a, P'.bower.mem.read a = P.bower.mem.read a
  pads  : ∀ k a, ((t.pads.find k).map fun r => r.store.mem.read a) = (s.pads.find k).map fun r => r.store.mem.read a

/-! ### A gang's word -/

/-- The cursor names the issuer: this slot of this gang of this plot is in the state. -/
structure Ready (s : State) (x : Issuer) : Prop where
  cur  : s.cur = .gang x.G.plot x.G.idx x.sl
  plot : s.plot? x.G.plot = some x.P
  gang : s.gang? x.G.plot x.G.idx = some x.G
  slot : x.G.slot x.sl = some x.S

/-- The scoreboard lets a word that names these vector and scalar registers issue (R96), and every vector register is
below NV (R43). -/
def CanIssue (s : State) (x : Issuer) (vs ss : List Nat) : Prop :=
  s.settledRegs x vs ss = true ∧ ∀ v ∈ vs, v < x.G.nv

/-- A word of `len` bytes has ended: the slot is past it, its mask is kept and it waits for nothing. -/
def SlotAt (x : Issuer) (len : Nat) (S' : Option PcSlot) : Prop :=
  (S'.map fun S => (S.pc, S.mask, S.wait)) = some (x.S.pc + BitVec.ofNat 64 len, x.S.mask, .none)

/-- The gang's other slot stands where it stood. -/
def OtherKept (x : Issuer) (G' : Gang) : Prop :=
  ((G'.slot (otherSlot x.sl)).map fun S => (S.pc, S.mask, S.wait)) =
    (x.G.slot (otherSlot x.sl)).map fun S => (S.pc, S.mask, S.wait)

/-- What a slot holds, its spin state aside. -/
def slotView (o : Option PcSlot) : Option (Word64 × Mask × Wait) := o.map fun S => (S.pc, S.mask, S.wait)

/-- A gang without its PC slots, its registers, its latches and its issue count and time. -/
def Gang.aside (G : Gang) : Gang :=
  { G with a := none, b := none, v := [], s := Vector.replicate 64 0, p := Vector.replicate 8 0, latchA := none,
           latchB := none, latchC := none, seq := 0, lastIssue := none }

/-- Of a gang, only the slots, the registers and the latches have changed, and its word has been counted (R342 clears
spin counts when a register changes, so the slots are named by what else they hold). -/
structure OnlyRegs (s : State) (x : Issuer) (G' : Gang) : Prop where
  aside : G'.aside = x.G.aside
  seq   : G'.seq = x.G.seq + 1
  last  : G'.lastIssue = some s.ticks

/-- The word has ended: its gang has changed only in its registers, and its slot is past it. -/
structure GangDone (s : State) (x : Issuer) (len : Nat) (G' : Gang) : Prop where
  regs  : OnlyRegs s x G'
  own   : SlotAt x len (G'.slot x.sl)
  other : OtherKept x G'

/-- The word has ended: of its gang only the slots have changed, and they hold these. -/
structure SlotsEnd (s : State) (x : Issuer) (own other : Option (Word64 × Mask × Wait)) (G' : Gang) : Prop where
  only  : OnlyRegs s x G'
  v     : G'.v = x.G.v
  s     : G'.s = x.G.s
  p     : G'.p = x.G.p
  own   : slotView (G'.slot x.sl) = own
  other : slotView (G'.slot (otherSlot x.sl)) = other

/-- A freed slot pops the entries of gang `g`'s stack above the base, from depth `d` down, until one has a lane that has not exited: it
goes on there, at depth `d'`; where none has, it stays free (R64, R67). -/
def Pops (P : Plot) (g : Nat) (exited : Mask) (base d : Nat) (own : Option (Word64 × Mask × Wait)) (d' : Nat) : Prop :=
  let at_ (k : Nat) : Nat := P.tmpl.l1s - 1024 * (g + 1) + 16 * k
  let pc (k : Nat) : Word64 := P.entry + BitVec.ofInt 64 (4 * signed 32 (P.bower.nat (at_ k + 12) 4))
  let lanes (k : Nat) : Mask := BitVec.ofNat 96 (P.bower.nat (at_ k) 12) &&& ~~~ exited
  (base ≤ d' ∧ d' < d ∧ lanes d' ≠ 0 ∧ (∀ k, d' < k → k < d → lanes k = 0) ∧ own = some (pc d', lanes d', .none)) ∨
    ((∀ k, base ≤ k → k < d → lanes k = 0) ∧ own = none ∧ d' = min d base)

/-- The word changes nothing in the whole state but the slots of its gang, which hold these afterwards. -/
def Moves (i : Instr) (s : State) (x : Issuer) (own other : Option (Word64 × Mask × Wait)) : Prop :=
  ∃ G', exec i s = .next (s.setGang G') ∧ SlotsEnd s x own other G'

/-- What the gang's other slot holds. -/
def Issuer.other (x : Issuer) : Option (Word64 × Mask × Wait) := slotView (x.G.slot (otherSlot x.sl))

/-- The word has ended and has changed nothing but its own gang's registers: every other gang, plot, special register,
queue and byte of memory is as before. -/
structure WordDone (s : State) (x : Issuer) (len : Nat) (t : State) (G' : Gang) : Prop where
  state : t = s.setGang G'
  gang  : GangDone s x len G'
  mem   : SameMemory s t

/-- Vector register `d` has taken these values in the lanes of a mask, and no other register has changed. -/
structure VecSet (x : Issuer) (d : VReg) (m : Mask) (val : Nat → Word) (G' : Gang) : Prop where
  nv    : G'.nv = x.G.nv
  lanes : ∀ i < 96, laneAt (G'.vreg d.toNat) i = if m.getLsbD i then val i else laneAt (x.G.vreg d.toNat) i
  rest  : ∀ n, n ≠ d.toNat → G'.vreg n = x.G.vreg n
  s     : G'.s = x.G.s
  p     : G'.p = x.G.p

/-- A pair of vector registers has taken these values in the lanes of a mask, and no other register has changed. -/
structure PairSet (x : Issuer) (d : VReg) (m : Mask) (lo hi : Nat → Word) (G' : Gang) : Prop where
  nv    : G'.nv = x.G.nv
  low   : ∀ i < 96, laneAt (G'.vreg d.toNat) i = if m.getLsbD i then lo i else laneAt (x.G.vreg d.toNat) i
  high  : ∀ i < 96, laneAt (G'.vreg (d.toNat + 1)) i = if m.getLsbD i then hi i else laneAt (x.G.vreg (d.toNat + 1)) i
  rest  : ∀ n, n ≠ d.toNat → n ≠ d.toNat + 1 → G'.vreg n = x.G.vreg n
  s     : G'.s = x.G.s
  p     : G'.p = x.G.p

/-- Scalar register `d` has taken a value, unless it is s0 or s61 to s63, which discard it; no other register has changed. -/
structure SclSet (x : Issuer) (d : SReg) (val : Word64) (G' : Gang) : Prop where
  reg  : G'.rs x.S d = if d = 0 ∨ 61 ≤ d.toNat then x.G.rs x.S d else val
  rest : ∀ n, n ≠ d → G'.rs x.S n = x.G.rs x.S n
  v    : G'.v = x.G.v
  p    : G'.p = x.G.p

/-- Predicate register `d` has taken these bits in the lanes of a mask, unless it is p0, which discards them; no other
register has changed. -/
structure PredSet (x : Issuer) (d : PReg) (m : Mask) (bit : Nat → Bool) (G' : Gang) : Prop where
  reg  : ∀ i < 96, (G'.rp d).getLsbD i = if d = 0 then true else if m.getLsbD i then bit i else (x.G.rp d).getLsbD i
  rest : ∀ n, n ≠ d → G'.rp n = x.G.rp n
  v    : G'.v = x.G.v
  s    : G'.s = x.G.s

/-- No register has changed. -/
structure RegsKept (x : Issuer) (G' : Gang) : Prop where
  v : G'.v = x.G.v
  s : G'.s = x.G.s
  p : G'.p = x.G.p

/-- A word raises a trap, which `State.trap` takes. -/
def Traps (s : State) (x : Issuer) (i : Instr) (t : TrapInfo) : Prop :=
  exec i s = .next (s.trap x.P (x.G.stamp x.sl s.ticks) x.sl { x.S with issued := some s.ticks } t)

/-- A target that is not 64-byte aligned raises BRANCH_ALIGN (R45). -/
def BadTarget (s : State) (x : Issuer) (i : Instr) (tgt : Word64) : Prop := Traps s x i { code := 0x02, addr := tgt }

/-! ### FP32 patterns -/

/-- A NaN pattern. -/
def nanBits (a : Word) : Bool := decide (0x7F800000 < a.toNat % 2 ^ 31)
/-- The order of the patterns that are no NaN, with -0 below +0. -/
def ordBits (a : Word) : Int := if 2 ^ 31 ≤ a.toNat then -((a.toNat - 2 ^ 31 : Nat) : Int) - 1 else a.toNat
/-- The order of the values of the patterns that are no NaN: -0 is +0. -/
def keyBits (a : Word) : Int := if 2 ^ 31 ≤ a.toNat then -((a.toNat - 2 ^ 31 : Nat) : Int) else a.toNat

/-! ### Sources as a word reads them -/

/-- A lane of the source at position A: from the latch if it holds the register (R95). -/
def Issuer.srcA (x : Issuer) (r : HReg) (i : Nat) : Word := laneAt (x.G.operand x.G.latchA (some r)) i
/-- A lane of the register source at position B. -/
def Issuer.srcB (x : Issuer) (r : HReg) (i : Nat) : Word := laneAt (x.G.operand x.G.latchB (some r)) i
/-- A lane of the source at position C. -/
def Issuer.srcC (x : Issuer) (r : HReg) (i : Nat) : Word := laneAt (x.G.operand x.G.latchC (some r)) i
/-- The FP64 pattern of a pair in a lane: bits [31:0] in the lower register (R130). -/
def Issuer.pairLane (x : Issuer) (read : HReg → Nat → Word) (r : VReg) (i : Nat) : Nat :=
  (read ⟨r, false⟩ i).toNat + 2 ^ 32 * (laneAt (x.G.vreg (r.toNat + 1)) i).toNat
/-- A lane of the source at position B or of the immediate that stands for it (R101). -/
def Issuer.srcBI (x : Issuer) (b : VSrc) (i : Nat) : Word :=
  match b with
  | .reg r => x.srcB r i
  | .e10 e => e.signExtend 32
  | .k32 k => k

/-- As `srcBI`, with the immediates of R129: E converted exactly to FP32. -/
def Issuer.srcBF (x : Issuer) (b : VSrc) (i : Nat) : Word :=
  match b with
  | .reg r => x.srcB r i
  | .e10 e => w32 (f32.pack .rn (.fin (decide (e.toInt < 0)) e.toInt.natAbs 0))
  | .k32 k => k

/-- As `srcBI`, with the packed immediates of R129: E converted exactly to FP16, in both halves. -/
def Issuer.srcBH (x : Issuer) (b : VSrc) (i : Nat) : Word :=
  match b with
  | .reg r => x.srcB r i
  | .e10 e =>
    let h := BitVec.ofNat 16 (f16.pack .rn (.fin (decide (e.toInt < 0)) e.toInt.natAbs 0))
    h ++ h
  | .k32 k => k

/-! ### Addresses of a word's lanes (R149, R150, R163, R165) -/

/-- addr(i) := sA + idx(i) × 2^SC + K, exactly, from the value of sA. -/
def Issuer.memAddr (x : Issuer) (base : Int) (idx : Idx) (sc : BitVec 2) (k : Int) (i : Nat) : Int :=
  base + (match idx with
    | .none => 0
    | .vec r => ((x.srcB r i).toNat : Int)
    | .scl n => (x.G.rs x.S n).toInt) * 2 ^ sc.toNat + k

/-- A load that accesses the bower is a sample of monitor event 1: its latency is a free value, and the next free value has
another number (R388). -/
def State.sampledLoad (s : State) (x : Issuer) (lv : Nat) : State :=
  if lv = 0 then ({ s with free := s.free + 1 } : State).sample x.P.core 1 (Config.freeLatency s.free) else s

/-- The scratchpad address of a lane: the base is signed. -/
def Issuer.scrAddr (x : Issuer) (m : MemRef) (i : Nat) : Int :=
  x.memAddr (x.G.rs x.S m.a).toInt m.idx m.sc m.off.value i

/-- The global address of a lane: the base is signed, as R149 reads it. -/
def Issuer.gmAddr (x : Issuer) (m : MemRef) (i : Nat) : Int :=
  x.memAddr (x.G.rs x.S m.a).toInt m.idx m.sc m.off.value i

/-- One of the checks of an address, with the cause and the reason of its trap. -/
structure AddrCheck where
  code   : Nat
  reason : Nat
  bad    : Int → Bool

/-- The active lanes of a store of `z` bytes write every byte of the 4-byte word `w` between them. -/
def storeCovers (act : Mask) (addr : Nat → Int) (z w : Nat) : Bool :=
  (List.range 4).all fun b => (List.range 96).any fun k =>
    act.getLsbD k && decide (addr k ≤ (4 * w + b : Nat)) && decide (((4 * w + b : Nat) : Int) < addr k + z)

/-- The checks of R150 that follow the grant: alignment, bounds, poison; a store passes a poisoned word that it covers. -/
def scrChecks (st : Store) (size z : Nat) (covers : Nat → Bool) : List AddrCheck :=
  [⟨0x04, 0, fun a => decide (a % z ≠ 0)⟩, ⟨0x05, 0, fun a => decide (a < 0 ∨ (size : Int) < a + z)⟩,
   ⟨0x09, 0, fun a => st.poison.any fun w => decide (4 * (w : Int) < a.toNat + z ∧ (a.toNat : Int) < 4 * w + 4 ∧
      covers w = false)⟩]

/-- The checks of R165 in their order; `refused` marks an atomic that no host window serves. -/
def gmChecks (domain : List Nat) (z : Nat) (refused : Bool) : List AddrCheck :=
  [⟨0x07, 5, fun a => decide (a < 0 ∨ 2 ^ 64 ≤ a)⟩,
   ⟨0x07, 1, fun a => decide (a.toNat / 2 ^ 56 ≠ 0)⟩,
   ⟨0x07, 2, fun a => decide (¬ (a.toNat / 2 ^ 48 % 16 < 4 ∨ a.toNat / 2 ^ 48 % 16 = 8))⟩,
   ⟨0x07, 3, fun a => decide (a.toNat / 2 ^ 52 % 16 ∉ domain)⟩,
   ⟨0x07, 4, fun a => decide (a.toNat / 2 ^ 48 % 16 = 8 ∧ 0x800200000000 ≤ a.toNat % 2 ^ 48)⟩,
   ⟨0x04, 0, fun a => decide (a.toNat % z ≠ 0)⟩,
   ⟨0x08, 0, fun a => decide (a.toNat / 2 ^ 48 % 16 = 8 ∧ (0x800000000000 ≤ a.toNat % 2 ^ 48 ∨ refused = true))⟩]

/-- No active lane fails a check. -/
def AllPass (checks : List AddrCheck) (act : Mask) (addr : Nat → Int) : Prop :=
  ∀ c ∈ checks, ∀ i < 96, act.getLsbD i = true → c.bad (addr i) = false

/-- Check `k` is the first that some active lane fails, and `i0` is the lowest lane that fails it. -/
def FirstBad (checks : List AddrCheck) (act : Mask) (addr : Nat → Int) (c : AddrCheck) (i0 : Nat) : Prop :=
  ∃ before after, checks = before ++ c :: after ∧ AllPass before act addr ∧
    i0 < 96 ∧ act.getLsbD i0 = true ∧ c.bad (addr i0) = true ∧
    ∀ j < i0, act.getLsbD j = true → c.bad (addr j) = false

/-- The trap of the first failing check (R150, R165): the failing lanes, and the address of the lowest of them. -/
def badTrap (c : AddrCheck) (act : Mask) (addr : Nat → Int) (i0 space : Nat) : TrapInfo :=
  { code := c.code, info := BitVec.ofNat 64 (space + 8 * c.reason), addr := BitVec.ofInt 64 (addr i0),
    lanes := maskOf fun i => act.getLsbD i && c.bad (addr i) }

/-- The issuer with another state of its gang, for what a word changes beside registers. -/
def Issuer.set (x : Issuer) (G : Gang) : Issuer := { x with G := G }

end Sys2Proof.Machine

namespace Sys2Proof

/-- The register of a vector index. -/
def Idx.names (i : Idx) : List Nat := (i.reg?.map (·.n.toNat)).toList
/-- A data register, or the pair of the .X64 width. -/
def Width.regs (w : Width) (d : VReg) : List Nat := if w = .x64 then [d.toNat, d.toNat + 1] else [d.toNat]

/-- The vector registers that an atomic names: single registers, or pairs in the 64-bit forms. -/
def AtOps.names (o : AtOps) (wide : Bool) (r : Option HReg) : List Nat :=
  let regs (v : VReg) : List Nat := if wide then [v.toNat, v.toNat + 1] else [v.toNat]
  regs o.c.n ++ regs o.d ++ (match r with | some r => regs r.n | none => []) ++ o.idx.names

/-- The level of a scratchpad space. -/
def AtOps.level (o : AtOps) : Nat := match o.space with | .l1 => 0 | .l2 => 1 | _ => 2

/-- The vector registers that each shape of word names. -/
def VSrc.names (b : VSrc) : List Nat := (b.reg?.map (·.n.toNat)).toList
def VBin.names (o : VBin) : List Nat := o.a.n.toNat :: (o.b.names ++ [o.d.toNat])
def VTri.names (o : VTri) : List Nat := o.a.n.toNat :: (o.b.names ++ [o.c.n.toNat, o.d.toNat])
def VUn.names (o : VUn) : List Nat := [o.a.n.toNat, o.d.toNat]
def V2.names (o : V2) : List Nat := [o.a.n.toNat, o.b.n.toNat, o.d.toNat]
def V3.names (o : V3) : List Nat := [o.a.n.toNat, o.b.n.toNat, o.c.n.toNat, o.d.toNat]
def VCmp.names (o : VCmp) : List Nat := o.a.n.toNat :: o.b.names
def VSel.names (o : VSel) : List Nat := [o.a.n.toNat, o.b.n.toNat, o.d.toNat]

end Sys2Proof

namespace Sys2Proof.Machine

/-! ### What a word of each shape does: it answers a next state, in which its slot is past it and its destination holds
the value of a function of the sources, in the lanes that its slot's mask and its guard select -/

/-- vD[i] := f(vA[i], vB[i] or the immediate). -/
def VecBinary (c : VBin → Instr) (f : Word → Word → Word) : Prop :=
  ∀ (s : State) (x : Issuer) (o : VBin), Ready s x → CanIssue s x o.names [] →
    ∃ t G', exec (c o) s = .next t ∧ WordDone s x o.b.len t G' ∧
      VecSet x o.d (x.G.active x.S o.g) (fun i => f (x.srcA o.a i) (x.srcBI o.b i)) G'

/-- vD[i] := f(vA[i]). -/
def VecUnary (c : VUn → Instr) (f : Word → Word) : Prop :=
  ∀ (s : State) (x : Issuer) (o : VUn), Ready s x → CanIssue s x o.names [] →
    ∃ t G', exec (c o) s = .next t ∧ WordDone s x 8 t G' ∧
      VecSet x o.d (x.G.active x.S o.g) (fun i => f (x.srcA o.a i)) G'

/-- vD[i] := f(vA[i], vB[i]), with no immediate form. -/
def VecTwo (c : V2 → Instr) (f : Word → Word → Word) : Prop :=
  ∀ (s : State) (x : Issuer) (o : V2), Ready s x → CanIssue s x o.names [] →
    ∃ t G', exec (c o) s = .next t ∧ WordDone s x 8 t G' ∧
      VecSet x o.d (x.G.active x.S o.g) (fun i => f (x.srcA o.a i) (x.srcB o.b i)) G'

/-- vD[i] := f(vA[i], vB[i], vC[i]), with no immediate form. -/
def VecThree (c : V3 → Instr) (f : Word → Word → Word → Word) : Prop :=
  ∀ (s : State) (x : Issuer) (o : V3), Ready s x → CanIssue s x o.names [] →
    ∃ t G', exec (c o) s = .next t ∧ WordDone s x 8 t G' ∧
      VecSet x o.d (x.G.active x.S o.g) (fun i => f (x.srcA o.a i) (x.srcB o.b i) (x.srcC o.c i)) G'

/-- vD[i] := f(vA[i], vB[i] or the immediate, vC[i]). -/
def VecTernary (c : VTri → Instr) (f : Word → Word → Word → Word) : Prop :=
  ∀ (s : State) (x : Issuer) (o : VTri), Ready s x → CanIssue s x o.names [] →
    ∃ t G', exec (c o) s = .next t ∧ WordDone s x o.b.len t G' ∧
      VecSet x o.d (x.G.active x.S o.g) (fun i => f (x.srcA o.a i) (x.srcBI o.b i) (x.srcC o.c i)) G'

/-- vD[i] := f(vA[i], vB[i] or the float immediate). -/
def FloatBinary (c : VBin → Instr) (f : Word → Word → Word) : Prop :=
  ∀ (s : State) (x : Issuer) (o : VBin), Ready s x → CanIssue s x o.names [] →
    ∃ t G', exec (c o) s = .next t ∧ WordDone s x o.b.len t G' ∧
      VecSet x o.d (x.G.active x.S o.g) (fun i => f (x.srcA o.a i) (x.srcBF o.b i)) G'

/-- vD[i] := f(vA[i], vB[i] or the packed immediate). -/
def PackedBinary (c : VBin → Instr) (f : Word → Word → Word) : Prop :=
  ∀ (s : State) (x : Issuer) (o : VBin), Ready s x → CanIssue s x o.names [] →
    ∃ t G', exec (c o) s = .next t ∧ WordDone s x o.b.len t G' ∧
      VecSet x o.d (x.G.active x.S o.g) (fun i => f (x.srcA o.a i) (x.srcBH o.b i)) G'

/-- vD[i] := f(vA[i], vB[i] or the float immediate, vC[i]). -/
def FloatTernary (c : VTri → Instr) (f : Word → Word → Word → Word) : Prop :=
  ∀ (s : State) (x : Issuer) (o : VTri), Ready s x → CanIssue s x o.names [] →
    ∃ t G', exec (c o) s = .next t ∧ WordDone s x o.b.len t G' ∧
      VecSet x o.d (x.G.active x.S o.g) (fun i => f (x.srcA o.a i) (x.srcBF o.b i) (x.srcC o.c i)) G'

/-- pD bit i := the truth of a test of vA[i] and vB[i] or the float immediate. -/
def FloatTest (c : VCmp → Instr) (t : Word → Word → Bool) : Prop :=
  ∀ (s : State) (x : Issuer) (o : VCmp), Ready s x → CanIssue s x o.names [] →
    ∃ t' G', exec (c o) s = .next t' ∧ WordDone s x o.b.len t' G' ∧
      PredSet x o.d (x.G.active x.S o.g) (fun i => t (x.srcA o.a i) (x.srcBF o.b i)) G'

/-- A word on register pairs: both halves of vD := f of the 64-bit values of the pairs. -/
def PairOp (i : Guard → VReg → Instr) (names : List Nat) (g : Guard) (d : VReg) (val : Issuer → Nat → Nat) : Prop :=
  ∀ (s : State) (x : Issuer), Ready s x → CanIssue s x names [] →
    ∃ t G', exec (i g d) s = .next t ∧ WordDone s x 8 t G' ∧
      PairSet x d (x.G.active x.S g) (fun k => BitVec.ofNat 32 (val x k)) (fun k => BitVec.ofNat 32 (val x k / 2 ^ 32)) G'

/-- A queued word enters the core's special-function queue with the values of a function of its sources, the occupancy is a
sample of monitor event 6 (R388), and its slot goes on (R143); on a full queue nothing happens and the word will issue again. -/
def Enqueues (i : Instr) (names : List Nat) (len : Nat) (d : VReg) (g : Guard) (val : Issuer → Nat → Word) : Prop :=
  ∀ (s : State) (x : Issuer), Ready s x → CanIssue s x names [] →
    if (s.core x.P.core).sfq.length < 32 then
      ∃ G' vals, exec i s = .next (((s.setCore x.P.core { s.core x.P.core with
          sfq := (s.core x.P.core).sfq ++ [⟨gangKey x.P.id x.G.idx, d, x.G.active x.S g, vals⟩] }).sample x.P.core 6
            ((s.core x.P.core).sfq.length + 1)).setGang G') ∧
        GangDone s x len G' ∧ RegsKept x G' ∧ ∀ k < 96, laneAt vals k = val x k
    else exec i s = .next s

/-- A queued word with one source. -/
def QueueUnary (c : VUn → Instr) (f : Word → Word) : Prop :=
  ∀ o : VUn, Enqueues (c o) o.names 8 o.d o.g (fun x k => f (x.srcA o.a k))

/-- A queued division, with its immediate forms. -/
def QueueBinary (c : VBin → Instr) (f : Word → Word → Word) : Prop :=
  ∀ o : VBin, Enqueues (c o) o.names o.b.len o.d o.g (fun x k => f (x.srcA o.a k) (x.srcBI o.b k))

/-- pD bit i := the truth of a test of vA[i] and vB[i] or the immediate. -/
def VecTest (c : VCmp → Instr) (t : Word → Word → Bool) : Prop :=
  ∀ (s : State) (x : Issuer) (o : VCmp), Ready s x → CanIssue s x o.names [] →
    ∃ t' G', exec (c o) s = .next t' ∧ WordDone s x o.b.len t' G' ∧
      PredSet x o.d (x.G.active x.S o.g) (fun i => t (x.srcA o.a i) (x.srcBI o.b i)) G'

/-- vD[i] := vA[j], where the source lane j is a function of i and of vB[i] or the immediate, read unsigned. -/
def Shuffles (c : VBin → Instr) (j : Nat → Nat → Nat) : Prop :=
  ∀ (s : State) (x : Issuer) (o : VBin), Ready s x → CanIssue s x o.names [] →
    ∃ t G', exec (c o) s = .next t ∧ WordDone s x o.b.len t G' ∧
      VecSet x o.d (x.G.active x.S o.g) (fun i => x.srcA o.a (j i (x.srcBI o.b i).toNat)) G'

/-- sD := f of the list of vA's values in the active lanes, ascending. -/
def Reduces (c : Guard → SReg → HReg → Instr) (f : List Word → Word64) : Prop :=
  ∀ (s : State) (x : Issuer) (g : Guard) (d : SReg) (a : HReg), Ready s x → CanIssue s x [a.n.toNat] [d.toNat] →
    ∃ t G', exec (c g d a) s = .next t ∧ WordDone s x 8 t G' ∧
      SclSet x d (f (((List.range 96).filter fun i => (x.G.active x.S g).getLsbD i).map fun i => x.srcA a i)) G'

/-- sD := f(sA, sB or the immediate). -/
def SclBinary (c : SBin → Instr) (f : Word64 → Word64 → Word64) : Prop :=
  ∀ (s : State) (x : Issuer) (o : SBin), Ready s x → CanIssue s x [] ([o.d.toNat, o.a.toNat] ++ o.b.uses) →
    ∃ t G', exec (c o) s = .next t ∧ WordDone s x o.b.len t G' ∧
      SclSet x o.d (f (x.G.rs x.S o.a) (o.b.read x.G x.S)) G'

/-- sD := f(sA). -/
def SclUnary (c : SReg → SReg → Instr) (f : Word64 → Word64) : Prop :=
  ∀ (s : State) (x : Issuer) (d a : SReg), Ready s x → CanIssue s x [] [d.toNat, a.toNat] →
    ∃ t G', exec (c d a) s = .next t ∧ WordDone s x 8 t G' ∧ SclSet x d (f (x.G.rs x.S a)) G'

/-! ### Atomics -/

/-- The address of an atomic's lane, from the value of sA. -/
def Issuer.atAddr (x : Issuer) (o : AtOps) (base : Int) (i : Nat) : Int := x.memAddr base o.idx o.sc o.k.toInt i

/-- A lane's operand: a register, or the value of a pair; 0 where the word has no such operand. -/
def Issuer.atVal (x : Issuer) (wide : Bool) (read : HReg → Nat → Word) (r : Option HReg) (i : Nat) : Nat :=
  match r with
  | none => 0
  | some r => (read r i).toNat + if wide then 2 ^ 32 * (laneAt (x.G.vreg (r.n.toNat + 1)) i).toNat else 0

/-- An atomic in a scratchpad space (R159): in ascending lane order each active lane reads the old value, writes
f(old, c, e) in its place, and its register lane, or pair, receives the old value. No other byte changes. -/
def ScratchAtomic (i : Instr) (o : AtOps) (r : Option HReg) (wide : Bool) (f : Nat → Nat → Nat → Nat) : Prop :=
  ∀ (s : State) (x : Issuer), Ready s x → o.space ≠ .gm → CanIssue s x (o.names wide r) (o.a.toNat :: o.idx.uses) →
    let act := x.G.active x.S o.g
    let z := if wide then 8 else 4
    let addr := x.atAddr o (x.G.rs x.S o.a).toInt
    (act = 0 → s.scratch x.P o.level = none → ∃ t G', exec i s = .next t ∧ WordDone s x 12 t G' ∧ RegsKept x G') ∧
    (∀ st size, s.scratch x.P o.level = some (st, size) → AllPass (scrChecks st size z fun _ => false) act addr →
      ∃ (σ : Nat → Store) (G' : Gang), exec i s = .next ((s.setScratch x.P o.level (σ 96)).setGang G') ∧
        GangDone s x 12 G' ∧ σ 0 = st ∧
        (if wide then PairSet x o.d act (fun k => BitVec.ofNat 32 ((σ k).nat (addr k).toNat z))
            (fun k => BitVec.ofNat 32 ((σ k).nat (addr k).toNat z / 2 ^ 32)) G'
          else VecSet x o.d act (fun k => BitVec.ofNat 32 ((σ k).nat (addr k).toNat z)) G') ∧
        (∀ k < 96, σ (k + 1) = if act.getLsbD k then (σ k).writeN (addr k).toNat
            (leOf z (f ((σ k).nat (addr k).toNat z) (x.atVal wide x.srcC (some o.c) k) (x.atVal wide x.srcA r k))) else σ k) ∧
        ∀ a : Nat, (∀ k < 96, act.getLsbD k = true → (a : Int) < addr k ∨ addr k + z ≤ a) → (σ 96).mem.read a = st.mem.read a)

/-- An atomic in the GM space (R160, R171, R174): it is issued with its active lanes' addresses and operands and performs
nothing yet. REL and AR begin a boundary, and so does an atomic some of whose bytes are buffered. -/
def GlobalAtomic (i : Instr) (o : AtOps) (fn : AtomFn) (r : Option HReg) (wide served : Bool) : Prop :=
  ∀ (s : State) (x : Issuer), Ready s x → o.space = .gm → x.G.fencing x.sl = false → x.G.storing = false →
    CanIssue s x (o.names wide r) (o.a.toNat :: o.idx.uses) →
    let act := x.G.active x.S o.g
    let z := if wide then 8 else 4
    let addr := x.atAddr o (x.G.rs x.S o.a).toInt
    (act = 0 → ∃ t G', exec i s = .next t ∧ WordDone s x 12 t G' ∧ RegsKept x G') ∧
    (act ≠ 0 → AllPass (gmChecks s.domain z (!served)) act addr →
      let lanes := ((List.range 96).filter fun k => act.getLsbD k).map fun k =>
        ({ lane := k, addr := (addr k).toNat, c := BitVec.ofNat 64 (x.atVal wide x.srcC (some o.c) k),
           e := BitVec.ofNat 64 (x.atVal wide x.srcA r k) } : AtomLane)
      let rel := o.ord = .rel ∨ o.ord = .ar
      let begins := x.G.pend = none ∧ x.G.sbuf ≠ [] ∧ (rel ∨ ∃ l ∈ lanes, x.G.meetsBuffer l.addr z = true)
      let op : AtomOp := ⟨x.G.seq + 1, x.G.seq + 1, x.sl, x.S.pc, decide (o.ord = .acq ∨ o.ord = .ar), fn, o.d, lanes, [], s.ticks⟩
      ∃ G' : Gang, exec i s = .next (s.setGang G') ∧
        GangDone s (x.set { x.G with
          atoms := x.G.atoms ++ [op]
          pend := if begins then some ⟨if rel then .atomic else .overlap, x.G.seq + 1⟩ else x.G.pend }) 12 G' ∧
        RegsKept x G') ∧
    (∀ ck i0, FirstBad (gmChecks s.domain z (!served)) act addr ck i0 → Traps s x i (badTrap ck act addr i0 7))

/-! ### Global accesses -/

/-- The active lanes of a word with their global addresses. -/
def Issuer.gmLanes (x : Issuer) (g : Guard) (addr : Nat → Int) : List (Nat × Nat) :=
  ((List.range 96).filter fun k => (x.G.active x.S g).getLsbD k).map fun k => (k, (addr k).toNat)

/-- A boundary that a word begins after `seq` words: one that is pending covers it, and with an empty buffer there is
nothing to wait for (R168, R171, R182). -/
def Gang.boundaryFrom (G : Gang) (k : BoundKind) (seq : Nat) : Option Boundary :=
  if G.pend = none ∧ G.sbuf ≠ [] then some ⟨k, seq⟩ else G.pend

/-- A load from global memory (R169, R178, R179): it is issued with its lanes' addresses and performs nothing yet. -/
def GlobalLoad (c : Guard → VReg → MemRef → Width → Instr) (acq : Bool) : Prop :=
  ∀ (s : State) (x : Issuer) (g : Guard) (d : VReg) (m : MemRef) (w : Width), Ready s x → x.G.fencing x.sl = false → x.G.storing = false →
    CanIssue s x (m.idx.names ++ w.regs d) (m.a.toNat :: m.idx.uses) →
    let act := x.G.active x.S g
    (act = 0 → ∃ t G', exec (c g d m w) s = .next t ∧ WordDone s x m.off.len t G' ∧ RegsKept x G') ∧
    (act ≠ 0 → AllPass (gmChecks s.domain w.bytes false) act (x.gmAddr m) →
      ∃ G', exec (c g d m w) s = .next (s.setGang G') ∧ RegsKept x G' ∧
        GangDone s (x.set { x.G with loads := x.G.loads ++ [⟨x.G.seq + 1, x.G.seq + 1, x.sl, x.S.pc, acq,
          if w = .x64 then .pair d else .vec d, w.bytes, x.gmLanes g (x.gmAddr m), [], s.ticks⟩] }) m.off.len G') ∧
    (∀ ck i0, FirstBad (gmChecks s.domain w.bytes false) act (x.gmAddr m) ck i0 →
      Traps s x (c g d m w) (badTrap ck act (x.gmAddr m) i0 3))

/-- Lanes of a running gang's access are denied: no register changes, and the gang holds the deferred trap (R327). -/
structure Defers (G G' : Gang) (d : Deferred) : Prop where
  v     : G'.v = G.v
  s     : G'.s = G.s
  p     : G'.p = G.p
  defer : G'.defer = addDefer G.defer d

/-- The data of a store's lane: a register, or a pair at the .X64 width (R155). -/
def Issuer.stVal (x : Issuer) (d : HReg) (w : Width) (k : Nat) : Nat :=
  (x.srcA d k).toNat + if w = .x64 then 2 ^ 32 * (laneAt (x.G.vreg (d.n.toNat + 1)) k).toNat else 0

/-- The lanes that a store has to buffer or perform: lane, address, value. -/
def Issuer.stLanes (x : Issuer) (g : Guard) (d : HReg) (m : MemRef) (w : Width) : List (Nat × Nat × Nat) :=
  ((List.range 96).filter fun k => (x.G.active x.S g).getLsbD k).map fun k => (k, (x.gmAddr m k).toNat, x.stVal d w k)

/-- The slot blocks in a wait, its PC and mask kept, and no register changes. -/
structure Blocks (s : State) (x : Issuer) (w : Wait) (G' : Gang) : Prop where
  only  : OnlyRegs s x G'
  kept  : RegsKept x G'
  own   : (G'.slot x.sl).map (fun S => (S.pc, S.mask, S.wait)) = some (x.S.pc, x.S.mask, w)
  other : OtherKept x G'

/-! ### Engine words and hub words -/

/-- The gang with one more operation of a class: its counter and its issue number have risen (R188, R189). -/
def Gang.withOp (G : Gang) (c : Nat) (o : EngOp) : Gang :=
  (G.setCls c { G.cls c with count := (G.cls c).count + 1, issued := (G.cls c).issued + 1 }).setEng c (G.eng c ++ [o])

/-- A word of a counted operation (R188, R194): one that takes a place waits with its counter at 63; a misaligned block and one outside the
bower trap; else it has its effect with the operation that it issues, whose block is read at issue. A poisoned block ends
the operation with POISON. -/
def EngineWordIf (takes : Issuer → Prop) (i : SReg → BitVec 10 → Instr) (c : Nat) (kind : EngKind) (unit size : Nat) (ss : List Nat)
    (effect : State → Issuer → Res → EngOp → Prop) : Prop :=
  ∀ (s : State) (x : Issuer) (a : SReg) (e : BitVec 10), Ready s x → x.G.fencing x.sl = false → x.G.storing = false → CanIssue s x [] (a.toNat :: ss) →
    let off : Int := (x.G.rs x.S a).toInt + e.toInt * unit
    let bad (code : Nat) : Prop := Traps s x (i a e) { code := code, addr := BitVec.ofInt 64 off }
    (63 ≤ (x.G.cls c).count ∧ takes x → exec (i a e) s = .next s) ∧
    (¬ (63 ≤ (x.G.cls c).count ∧ takes x) →
    if off % unit ≠ 0 then bad 0x04
    else if off < 0 ∨ (x.P.tmpl.l1s : Int) < off + size then bad 0x05
    else
      let poison := x.P.bower.poisoned off.toNat size
      effect s x (exec (i a e) s) ⟨(x.G.cls c).issued, kind, x.G.seq + 1, off.toNat, x.P.bower.readN off.toNat size,
        if poison then .finished else .start, 0, 0, [], if poison then 8 else 0, 0, 0, none, s.ticks⟩)

/-- A word that always takes a place. -/
def EngineWord (i : SReg → BitVec 10 → Instr) (c : Nat) (kind : EngKind) (unit size : Nat) (ss : List Nat)
    (effect : State → Issuer → Res → EngOp → Prop) : Prop := EngineWordIf (fun _ => True) i c kind unit size ss effect

/-- A counted word that only issues its operation. -/
def PlainOp (c : Nat) (s : State) (x : Issuer) (r : Res) (o : EngOp) : Prop :=
  ∃ G', r = .next (s.setGang G') ∧ GangDone s (x.set (x.G.withOp c o)) 8 G' ∧ RegsKept x G'

/-- The word has ended and one scalar register has taken a value. -/
def Gives (i : Instr) (s : State) (x : Issuer) (d : SReg) (v : Word64) : Prop :=
  ∃ t G', exec i s = .next t ∧ WordDone s x 8 t G' ∧ SclSet x d v G'

/-- The word has ended and has changed no register; the state has changed to `s'` beside the gang. -/
def Leaves (i : Instr) (s : State) (x : Issuer) (s' : State) : Prop :=
  ∃ G', exec i s = .next (s'.setGang G') ∧ GangDone s x 8 G' ∧ RegsKept x G'

/-- The word has ended with a value in one scalar register; the state has changed to `s'` beside the gang. -/
def LeavesWith (i : Instr) (s : State) (x : Issuer) (s' : State) (d : SReg) (v : Word64) : Prop :=
  ∃ G', exec i s = .next (s'.setGang G') ∧ GangDone s x 8 G' ∧ SclSet x d v G'

/-! ### Operations of the engines -/

/-- The operation `n` of a class of a gang, with its gates open: every boundary, chime and LD.GM.ACQ issued before it is past (R168,
R179, R308). The plot's state is on the part. -/
structure EngineAt (s : State) (p g c n : Nat) (P : Plot) (G : Gang) (o : EngOp) : Prop where
  plot  : s.plot? p = some P
  gang  : s.gang? p g = some G
  op    : G.op? c n = some o
  gates : G.pastBoundary o.seq = true ∧ G.pastChimes o.seq = true ∧ G.pastAcqLoads o.seq = true
  here  : P.away = false

/-- The elements that an operation reads or writes (R199, R214, R217): their number and size, their space (R198), the base that the
block gives, and the offset of element k from it. -/
structure Elements where
  n     : Nat
  z     : Nat
  space : Nat
  base  : Nat
  off   : Nat → Int

/-- The address of element k, or its offset in the tile space, where the base names the tile. -/
def Elements.addr (E : Elements) (k : Nat) : Int := if E.space = 4 then E.off k else E.base + E.off k

/-- A table of GATH or SCAT: element k lies at TBL + idx[k] × 2^SH; the packed elements follow each other (R214). -/
def EngOp.table (o : EngOp) : Elements :=
  ⟨o.gCount, o.gEsz, fieldOf o.gCtl 0 3, o.src, fun k => ((fieldAt o.data (4 * k) 4 * 2 ^ fieldOf o.gCtl 8 3 : Nat) : Int)⟩
def EngOp.packed (o : EngOp) : Elements := ⟨o.gCount, o.gEsz, fieldOf o.gCtl 3 3, o.dst, fun k => ((k * o.gEsz : Nat) : Int)⟩

/-- What an operation reads, in a group of `ranks` (R199, R214, R217). -/
def EngOp.Sources (o : EngOp) (ranks rank : Nat) (E : Elements) : Prop :=
  let copy : Elements := ⟨o.ext.foldl (fun a b => a * b) 1, o.esz, o.ssp, o.src, fun k => strideSum k o.ext (o.strides 52)⟩
  let coll (n : Nat) : Elements := ⟨n, o.cEsz, fieldOf o.cCtl 0 3, o.src, fun k => ((k * o.cEsz : Nat) : Int)⟩
  match o.kind with
  | .tmov => E = copy
  | .tmovV => E = copy
  | .tmovR => E = copy
  | .gath => E = o.table
  | .scat => E = o.packed
  | .collAr => E = coll o.cCount
  | .collAg => E = coll o.cCount
  | .collRs => E = coll (ranks * o.cCount)
  | .collA2a => E = coll (ranks * o.cCount)
  | .collBc => rank = o.cRoot ∧ E = coll o.cCount
  | _ => False

/-- What an operation writes (R199, R206, R208, R211, R214, R217): TMOV.V past its version word, TMOV.R into its slot, TMOV.W the
blocks of the tile. -/
def EngOp.Destinations (o : EngOp) (ranks : Nat) (E : Elements) : Prop :=
  let copy (base : Nat) : Elements := ⟨o.ext.foldl (fun a b => a * b) 1, o.esz, o.dsp, base, fun k => strideSum k o.ext (o.strides 80)⟩
  let coll (n : Nat) : Elements := ⟨n, o.cEsz, fieldOf o.cCtl 3 3, o.dst, fun k => ((k * o.cEsz : Nat) : Int)⟩
  match o.kind with
  | .tmov => E = copy o.dst
  | .tmovZ => E = copy o.dst
  | .tmovV => E = copy (o.dst + 8)
  | .tmovR => E = copy (o.aux % 2 ^ 32)
  | .tmovW =>
    let cols := fieldAt o.data 7 1
    E = ⟨fieldAt o.data 6 1 * cols, 64, o.dsp, o.dst,
      fun k => (k / cols : Nat) * signed 32 (fieldAt o.desc 80 4) + ((64 * (k % cols) : Nat) : Int)⟩
  | .gath => E = o.packed
  | .scat => E = o.table
  | .collAr => E = coll o.cCount
  | .collRs => E = coll o.cCount
  | .collBc => E = coll o.cCount
  | .collAg => E = coll (ranks * o.cCount)
  | .collA2a => E = coll (ranks * o.cCount)
  | _ => False

/-- An access of an element fails with a CODE and a SUB (R195, R199): NOGRANT, the misalignment and the bounds of a scratchpad, the
first failing check of an address, the bounds of a tile. -/
def ElementBad (s : State) (P : Plot) (E : Elements) (k code sub : Nat) : Prop :=
  let a := E.addr k
  (E.space = 0 ∧ ∃ j ck, (gmChecks s.domain E.z false)[j]? = some ck ∧ ck.bad a = true ∧
    (∀ i < j, ∀ c, (gmChecks s.domain E.z false)[i]? = some c → c.bad a = false) ∧
    code = (if j = 6 then 7 else 4) ∧ sub = (if j = 6 then 0 else j + 1)) ∨
  (∃ lv < 3, E.space = lv + 1 ∧ match s.scratch P lv with
    | none => code = 6 ∧ sub = 0
    | some (_, size) => if a % E.z ≠ 0 then code = 4 ∧ sub = 6 else (a < 0 ∨ (size : Int) < a + E.z) ∧ code = 5 ∧ sub = 0) ∨
  (E.space = 4 ∧ (P.tiles.length ≤ E.base ∨ a < 0 ∨ 16384 < a + E.z) ∧ code = 5 ∧ sub = 0)

/-! ### Save records -/

/-- A command of the supervisor interface, which one of some masters may write (R357, R380, R383): nothing answers before the firmware
runs; else it is refused, or has its effect and is answered. -/
def Supervised (i : Instr) (s : State) (ms : List Master) (t : State) : Prop :=
  let may : Prop := ∃ m ∈ ms, s.tableAllows targetSupervisor m .store = true
  (s.fw.boot ≠ .running → exec i s = .next s) ∧
  (s.fw.boot = .running → ¬ may → exec i s = .next { s with fw := { s.fw with answer := .denied } }) ∧
  (s.fw.boot = .running → may → exec i s = .next { t with fw := { t.fw with answer := .ok } })

/-- A stored range: canonical memory that is 0 from its size on. -/
def Memory.Within (m : Memory) (n : Nat) : Prop := m.wf = true ∧ ∀ a, n ≤ a → m.read a = 0

/-! ### Mapped automata -/

/-- The first transition out of a candidate's state that matches an event (R288). -/
def Automaton.taken (a : Automaton) (o : Offer) (c : Cand) : Option Trans := (a.exits c.state).find? fun t => t.matchesCand c o

/-- R288's loop over the candidates, oldest first: those that stay, those that accept, and whether the event is consumed. A share
transition lets the event pass on; a candidate takes at most one transition. -/
def Automaton.offers (a : Automaton) (o : Offer) : List Cand → List Cand × List Cand × Bool
  | [] => ([], [], false)
  | c :: cs =>
    let r := a.offers o cs
    match a.taken o c with
    | none => (c :: r.1, r.2.1, r.2.2)
    | some t =>
      let d := t.apply c o
      let after := if t.consume then (cs, [], true) else r
      if a.act t.dest = 0 then (d :: after.1, after.2) else (after.1, d :: after.2.1, after.2.2)

/-- The model's own tags tell the candidates apart. -/
def Automaton.TagsOk (a : Automaton) : Prop := (a.cands.map (·.uid)).Nodup ∧ ∀ c ∈ a.cands, c.uid < a.nextUid

/-- Candidates have been accepted in this order at an instant (R289, R408): each takes the next accept number; a launch action leaves
its launch with its bind slots and key, a post action its post. -/
structure Accepts (a : Automaton) (cs : List Cand) (t : Nat) (a' : Automaton) : Prop where
  count    : a'.accepts = if cs = [] then a.accepts else (a.accepts + cs.length) % 2 ^ 64
  launches : ∃ l, a'.launches = a.launches ++ l ∧ l.map (fun x => (x.aseq % 2 ^ 64, x.at_, x.rid, x.binds, x.key)) =
    (cs.zipIdx.filter fun q => a.act q.1.state = 1).map fun q => ((a.accepts + q.2) % 2 ^ 64, t, a.rid, q.1.binds, q.1.key)
  posts    : ∃ l, a'.posts = a.posts ++ l ∧ l.map (fun x => (x.aseq % 2 ^ 64, x.held)) =
    (cs.zipIdx.filter fun q => a.act q.1.state = 3).map fun q => ((a.accepts + q.2) % 2 ^ 64, false)

/-- One candidate more than in a list, behind every one that is as old. -/
def Inserted (cs : List Cand) (c : Cand) (cs' : List Cand) : Prop :=
  ∃ older younger, cs = older ++ younger ∧ cs' = older ++ c :: younger ∧ (∀ q ∈ older, q.birth ≤ c.birth) ∧
    ∀ q ∈ younger.head?, c.birth < q.birth

/-! ### Sequencer words -/

/-- The cursor names the stream of this plot, and it runs. -/
structure OnStream (s : State) (P : Plot) : Prop where
  cur  : s.cur = .stream P.id
  plot : s.plot? P.id = some P
  run  : P.stream.state = .run

/-- The stream stops at its word with nothing of it performed, and records the fault (R230). -/
def Stops (i : Instr) (s : State) (P : Plot) (cause reason : Nat) (addr : Word64) : Prop :=
  exec i s = .next (s.setPlot { P with stream := { P.stream with
    state := .fault, cause := BitVec.ofNat 8 cause, reason := BitVec.ofNat 8 reason, faddr := addr, seen := false, mat := none, word := none } })

/-- The word has its effect on the plot, and the stream is at the next word. -/
def Passes (i : Instr) (s : State) (P P' : Plot) : Prop :=
  exec i s = .next (s.setPlot { P' with stream := { P'.stream with pc := P.stream.pc + 8 } })

/-- The first member of a list that is bad. -/
def FirstOf {α : Type} (l : List α) (bad : α → Prop) (t : α) : Prop :=
  ∃ before after, l = before ++ t :: after ∧ bad t ∧ ∀ q ∈ before, ¬ bad q

/-- The shape of a tile of the plot. -/
def Plot.shapeAt (P : Plot) (t : Nat) : Word := ((P.tiles[t]?).map (·.shape)).getD 0

/-- The locator of a tile (R230). -/
def tileWhere (t off : Nat) : Word64 := BitVec.ofNat 64 (2 ^ 63 + 65536 * t + off)

/-- The tile checks of R226 over the tiles of a word, kind by kind and tile by tile; `fs` lists the formats that a tile may
have, none for any. -/
def TileStops (i : Instr) (s : State) (P : Plot) (ts : List (TReg × List Nat)) : Prop :=
  let absent (t : TReg × List Nat) : Prop := P.tiles.length ≤ t.1.toNat
  let unset (t : TReg × List Nat) : Prop := P.shapeAt t.1.toNat = 0
  let other (t : TReg × List Nat) : Prop := t.2 ≠ [] ∧ (P.shapeAt t.1.toNat).toNat % 16 ∉ t.2
  (∀ t, FirstOf ts absent t → Stops i s P 0x11 1 (tileWhere t.1.toNat 0)) ∧
  ((∀ t ∈ ts, ¬ absent t) → ∀ t, FirstOf ts unset t → Stops i s P 0x11 2 (tileWhere t.1.toNat 0)) ∧
  ((∀ t ∈ ts, ¬ absent t ∧ ¬ unset t) → ∀ t, FirstOf ts other t → Stops i s P 0x11 4 (tileWhere t.1.toNat 0))

/-- The tile checks of R226 pass. -/
def TilesPass (P : Plot) (ts : List (TReg × List Nat)) : Prop :=
  ∀ t ∈ ts, t.1.toNat < P.tiles.length ∧ P.shapeAt t.1.toNat ≠ 0 ∧ (t.2 = [] ∨ (P.shapeAt t.1.toNat).toNat % 16 ∈ t.2)

/-- One accumulator after one granule (R125): the exact sum of the products is added with one rounding, a NaN sum gives the
canonical NaN, and a sum of zero or no product leaves the accumulator as it is. -/
def AddsGranule (c : Nat) (products : List FVal) (c' : Nat) : Prop :=
  let S := sumExact .rn products
  (S = .nan → c' = 0x7FC00000) ∧ (products = [] → c' = c) ∧ (∀ neg e, S = .fin neg 0 e → c' = c) ∧
    (S ≠ .nan → products ≠ [] → (∀ neg e, S ≠ .fin neg 0 e) → c' = f32.sum .rn [f32.unpack c, S])

/-- The element (i, j) of an FP32 tile of `cols` columns. -/
def Memory.elem (m : Memory) (cols i j : Nat) : Nat := natOf (m.readN (4 * (i * cols + j)) 4)

/-- One granule of a matrix word (R240, R242, R246): every accumulator of the group's rows takes the granule's products, the
tile's other bytes are kept, and the stream goes to the next granule, the next group or the next word. -/
def GranuleStep (i : Instr) (s : State) (P : Plot) (r : MatRun) (lo n : Nat) (b : Tile) (rest : List (Nat × Nat × Tile)) : Prop :=
  let cols := shCols r.cshape
  let T := P.tiles.getD r.td Tile.fresh
  ∃ (m : Memory) (P' : Plot), exec i s = .next (s.setPlot P') ∧ m.wf = true ∧
    P' = { P with tiles := P.tiles.set r.td { T with mem := m }, stream := P'.stream } ∧
    (∀ k < n, ∀ j < cols, AddsGranule (if r.z = true ∧ r.gran = 0 then 0 else T.mem.elem cols (lo + k) j)
      (products (rowGran r.a (lo + k) r.gran) (rowGran b j r.gran)) (m.elem cols (lo + k) j)) ∧
    (∀ a, (a < 4 * (cols * lo) ∨ 4 * (cols * (lo + n)) ≤ a) → m.read a = T.mem.read a) ∧
    P'.stream = (if r.gran + 1 < granules r.a.shape then { P.stream with mat := some { r with gran := r.gran + 1 } }
      else if rest = [] then { P.stream with mat := none, word := none, pc := P.stream.pc + 8 }
      else { P.stream with mat := some { r with groups := rest, gran := 0 } })

/-! ### Points of a dial's ring -/

/-- The value of an FP32 pattern that is finite. -/
def f32Rat (w : Word) : Rat :=
  let f : Nat := w.toNat % 2 ^ 23
  let e : Nat := w.toNat / 2 ^ 23 % 256
  let mag : Rat := if e = 0 then (f : Rat) / ((2 ^ 149 : Nat) : Rat) else (((2 ^ 23 + f) * 2 ^ e : Nat) : Rat) / ((2 ^ 150 : Nat) : Rat)
  if w.getLsbD 31 then -mag else mag

/-- Seven rising marks, each finite, normal and positive (R249). -/
def ValidDial (m : Marks) : Prop :=
  m.length = 7 ∧ (∀ w ∈ m, 0x00800000 ≤ w.toNat ∧ w.toNat < 0x7F800000) ∧ ∀ k < 6, (m.getD k 0).toNat < (m.getD (k + 1) 0).toNat

/-- The value of mark k, with m0 = 0. -/
def Marks.value (m : Marks) (k : Nat) : Rat := if k = 0 then 0 else f32Rat (m.getD (k - 1) 0)

/-- Piece k of the ring holds a point (R249); `none` is the point ∞. -/
def Marks.Holds (m : Marks) (k : Nat) (p : Option Rat) : Prop :=
  let pos (k : Nat) (x : Rat) : Prop :=
    if k % 2 = 0 then x = m.value (k / 2) else m.value (k / 2) < x ∧ (k = 15 ∨ x < m.value (k / 2 + 1))
  match p with
  | none => k = 16
  | some x => (k < 16 ∧ pos k x) ∨ (16 < k ∧ pos (32 - k) (-x))

end Sys2Proof.Machine
end

