-- ==== Sys2Proof/Certificates/Slice0/Obligations.lean ====
section
/-! DEFINITION. Certificates/Slice0/Obligations.lean: the statements for the provers, from the numbered rules of the spec. -/

open Sys2Proof Sys2Proof.Machine
/-! ### Vector integer words (R102 to R106) -/

/-- R102: the two-source integer words, in the register form and in both immediate forms. -/
def Claim.VectorIntegerTwoSource : Prop :=
  VecBinary .vadd (fun a b => BitVec.ofNat 32 (a.toNat + b.toNat)) ∧
  VecBinary .vsub (fun a b => BitVec.ofInt 32 ((a.toNat : Int) - b.toNat)) ∧
  VecBinary .vaddc (fun a b => if 2 ^ 32 ≤ a.toNat + b.toNat then 1 else 0) ∧
  VecBinary .vaddsI32 (fun a b => BitVec.ofInt 32 (max (-2 ^ 31) (min (2 ^ 31 - 1) (a.toInt + b.toInt)))) ∧
  VecBinary .vsubsI32 (fun a b => BitVec.ofInt 32 (max (-2 ^ 31) (min (2 ^ 31 - 1) (a.toInt - b.toInt)))) ∧
  VecBinary .vmul (fun a b => BitVec.ofNat 32 (a.toNat * b.toNat)) ∧
  VecBinary .vmulhI32 (fun a b => BitVec.ofInt 32 (a.toInt * b.toInt / 2 ^ 32)) ∧
  VecBinary .vmulhN32 (fun a b => BitVec.ofNat 32 (a.toNat * b.toNat / 2 ^ 32)) ∧
  VecBinary .vminI32 (fun a b => BitVec.ofInt 32 (min a.toInt b.toInt)) ∧
  VecBinary .vmaxI32 (fun a b => BitVec.ofInt 32 (max a.toInt b.toInt)) ∧
  VecBinary .vminN32 (fun a b => BitVec.ofNat 32 (min a.toNat b.toNat)) ∧
  VecBinary .vmaxN32 (fun a b => BitVec.ofNat 32 (max a.toNat b.toNat)) ∧
  VecBinary .vand (fun a b => a &&& b) ∧ VecBinary .vor (fun a b => a ||| b) ∧ VecBinary .vxor (fun a b => a ^^^ b) ∧
  VecBinary .vshl (fun a b => BitVec.ofNat 32 (a.toNat * 2 ^ (b.toNat % 32))) ∧
  VecBinary .vshr (fun a b => BitVec.ofNat 32 (a.toNat / 2 ^ (b.toNat % 32))) ∧
  VecBinary .vsra (fun a b => BitVec.ofInt 32 (a.toInt / 2 ^ (b.toNat % 32))) ∧
  VecBinary .vrot (fun a b => a <<< (b.toNat % 32) ||| a >>> (32 - b.toNat % 32)) ∧
  VecBinary .vaddI16x2 (fun a b => (a.extractLsb' 16 16 + b.extractLsb' 16 16) ++ (a.extractLsb' 0 16 + b.extractLsb' 0 16)) ∧
  VecBinary .vsubI16x2 (fun a b => (a.extractLsb' 16 16 - b.extractLsb' 16 16) ++ (a.extractLsb' 0 16 - b.extractLsb' 0 16)) ∧
  VecBinary .vmulI16x2 (fun a b => (a.extractLsb' 16 16 * b.extractLsb' 16 16) ++ (a.extractLsb' 0 16 * b.extractLsb' 0 16))

/-- R102: the words with one or three sources, the moves, and VMULW.I32, whose two result words are written after both
sources have been read. -/
def Claim.VectorIntegerOtherShapes : Prop :=
  VecUnary .vabs (fun a => BitVec.ofInt 32 a.toInt.natAbs) ∧
  VecUnary .vneg (fun a => BitVec.ofInt 32 (-a.toInt)) ∧
  VecUnary .vnot (fun a => a ^^^ 0xFFFFFFFF) ∧
  VecUnary .vpopc (fun a => BitVec.ofNat 32 ((List.range 32).countP fun k => a.getLsbD k)) ∧
  VecUnary .vclz (fun a => BitVec.ofNat 32 (32 - ((List.range 32).foldl (fun n k => if a.getLsbD k then k + 1 else n) 0))) ∧
  VecUnary .vbrev (fun a => a.reverse) ∧
  VecUnary .vmov (fun a => a) ∧
  VecTernary .vmad (fun a b c => BitVec.ofNat 32 (a.toNat * b.toNat + c.toNat)) ∧
  VecThree .vdot4I8 (fun a b c => c +
    ((a.extractLsb' 0 8).signExtend 32 * (b.extractLsb' 0 8).signExtend 32 + (a.extractLsb' 8 8).signExtend 32 * (b.extractLsb' 8 8).signExtend 32 +
      (a.extractLsb' 16 8).signExtend 32 * (b.extractLsb' 16 8).signExtend 32 + (a.extractLsb' 24 8).signExtend 32 * (b.extractLsb' 24 8).signExtend 32)) ∧
  VecThree .vdot4N8 (fun a b c => c +
    ((a.extractLsb' 0 8).setWidth 32 * (b.extractLsb' 0 8).setWidth 32 + (a.extractLsb' 8 8).setWidth 32 * (b.extractLsb' 8 8).setWidth 32 +
      (a.extractLsb' 16 8).setWidth 32 * (b.extractLsb' 16 8).setWidth 32 + (a.extractLsb' 24 8).setWidth 32 * (b.extractLsb' 24 8).setWidth 32)) ∧
  (∀ (s : State) (x : Issuer) (o : VBin), Ready s x → CanIssue s x (o.names ++ [o.d.toNat + 1]) [] →
    ∃ t G', exec (.vmulwI32 o) s = .next t ∧ WordDone s x o.b.len t G' ∧
      PairSet x o.d (x.G.active x.S o.g) (fun i => BitVec.ofInt 32 ((x.srcA o.a i).toInt * (x.srcBI o.b i).toInt))
        (fun i => BitVec.ofInt 32 ((x.srcA o.a i).toInt * (x.srcBI o.b i).toInt / 2 ^ 32)) G') ∧
  (∀ (s : State) (x : Issuer) (g : Guard) (d : VReg), Ready s x → CanIssue s x [d.toNat] [] →
    (∀ k : BitVec 26, ∃ t G', exec (.vmovi g d (.i26 k)) s = .next t ∧ WordDone s x 8 t G' ∧
      VecSet x d (x.G.active x.S g) (fun _ => k.signExtend 32) G') ∧
    (∀ k : BitVec 32, ∃ t G', exec (.vmovi g d (.k32 k)) s = .next t ∧ WordDone s x 12 t G' ∧
      VecSet x d (x.G.active x.S g) (fun _ => k) G') ∧
    (∃ t G', exec (.vlane g d) s = .next t ∧ WordDone s x 8 t G' ∧
      VecSet x d (x.G.active x.S g) (fun i => BitVec.ofNat 32 i) G') ∧
    (∀ a : SReg, CanIssue s x [d.toNat] [a.toNat] → ∃ t G', exec (.vbcast g d a) s = .next t ∧ WordDone s x 8 t G' ∧
      VecSet x d (x.G.active x.S g) (fun _ => (x.G.rs x.S a).extractLsb' 0 32) G'))

/-- R103: the comparisons set the active bits of the predicate and leave the others, a write to p0 is discarded, and VSEL
selects by predicate. -/
def Claim.VectorComparisonAndSelection : Prop :=
  VecTest .vcmpEq (fun a b => decide (a = b)) ∧ VecTest .vcmpNe (fun a b => decide (a ≠ b)) ∧
  VecTest .vcmpLtI32 (fun a b => decide (a.toInt < b.toInt)) ∧ VecTest .vcmpLeI32 (fun a b => decide (a.toInt ≤ b.toInt)) ∧
  VecTest .vcmpLtN32 (fun a b => decide (a.toNat < b.toNat)) ∧ VecTest .vcmpLeN32 (fun a b => decide (a.toNat ≤ b.toNat)) ∧
  (∀ (s : State) (x : Issuer) (o : VSel), Ready s x → CanIssue s x o.names [] →
    ∃ t G', exec (.vsel o) s = .next t ∧ WordDone s x 8 t G' ∧
      VecSet x o.d (x.G.active x.S o.g) (fun i => if (x.G.rp o.c).getLsbD i then x.srcA o.a i else x.srcB o.b i) G')

/-- R104: the shuffles read every source lane, active or not, before any lane is written. -/
def Claim.ShuffleSourceLanes : Prop :=
  Shuffles .vshflIdx (fun _ b => b % 96) ∧
  Shuffles .vshflXor (fun i b => if 96 ≤ i ^^^ (b % 128) then i else i ^^^ (b % 128)) ∧
  Shuffles .vshflUp (fun i b => if i < b then i else i - b) ∧
  Shuffles .vshflDn (fun i b => if 95 < i + b then i else i + b) ∧
  Shuffles .vshflRot (fun i b => (i + b) % 96)

/-- R105, R106: the reductions over the active lanes, with the identity where no lane is active, and the moves of a single
lane, which ignore the masks. -/
def Claim.ReductionsAndSingleLanes : Prop :=
  Reduces .vredAdd (fun l => BitVec.ofNat 64 ((l.map BitVec.toNat).sum % 2 ^ 32)) ∧
  Reduces .vredMinI32 (fun l => BitVec.ofInt 64 ((l.map BitVec.toInt).foldl min (2 ^ 31 - 1))) ∧
  Reduces .vredMaxI32 (fun l => BitVec.ofInt 64 ((l.map BitVec.toInt).foldl max (-2 ^ 31))) ∧
  Reduces .vredAnd (fun l => (l.foldl (fun a b => a &&& b) (0xFFFFFFFF : Word)).setWidth 64) ∧
  Reduces .vredOr (fun l => (l.foldl (fun a b => a ||| b) (0 : Word)).setWidth 64) ∧
  (∀ (s : State) (x : Issuer) (d b : SReg) (a : HReg), Ready s x → CanIssue s x [a.n.toNat] [d.toNat, b.toNat] →
    ∃ t G', exec (.vext d a b) s = .next t ∧ WordDone s x 8 t G' ∧
      SclSet x d (if (x.G.rs x.S b).toNat < 96 then (x.srcA a (x.G.rs x.S b).toNat).setWidth 64 else 0) G') ∧
  (∀ (s : State) (x : Issuer) (d : VReg) (a b : SReg), Ready s x → CanIssue s x [d.toNat] [a.toNat, b.toNat] →
    ∃ t G', exec (.vins d a b) s = .next t ∧ WordDone s x 8 t G' ∧
      (if (x.G.rs x.S b).toNat < 96 then
        VecSet x d (1 <<< (x.G.rs x.S b).toNat) (fun _ => (x.G.rs x.S a).extractLsb' 0 32) G'
      else RegsKept x G'))

/-- R90, R102, R103: the vector integer words of every shape, their comparisons and selections. -/
def Obligations.VectorIntegerWords : Prop := Claim.VectorIntegerTwoSource ∧ Claim.VectorIntegerOtherShapes ∧ Claim.VectorComparisonAndSelection

/-- R104 to R106: shuffles, reductions and the words on single lanes. -/
def Obligations.ShufflesAndReductions : Prop := Claim.ShuffleSourceLanes ∧ Claim.ReductionsAndSingleLanes

/-! ### Scalar, predicate and special-register words (R91, R92, R110, R111), the pool (R107, R108) -/

/-- R110: the two-source scalar words, with the immediates sign-extended to 64 bits. -/
def Claim.ScalarTwoSource : Prop :=
  SclBinary .sadd (fun a b => BitVec.ofNat 64 (a.toNat + b.toNat)) ∧
  SclBinary .ssub (fun a b => BitVec.ofInt 64 ((a.toNat : Int) - b.toNat)) ∧
  SclBinary .smul (fun a b => BitVec.ofNat 64 (a.toNat * b.toNat)) ∧
  SclBinary .smulhI64 (fun a b => BitVec.ofInt 64 (a.toInt * b.toInt / 2 ^ 64)) ∧
  SclBinary .smulhN64 (fun a b => BitVec.ofNat 64 (a.toNat * b.toNat / 2 ^ 64)) ∧
  SclBinary .sdivI64 (fun a b => if b = 0 then -1 else BitVec.ofInt 64 (a.toInt.tdiv b.toInt)) ∧
  SclBinary .sremI64 (fun a b => if b = 0 then a else BitVec.ofInt 64 (a.toInt.tmod b.toInt)) ∧
  SclBinary .sdivN64 (fun a b => if b = 0 then 0xFFFFFFFFFFFFFFFF else BitVec.ofNat 64 (a.toNat / b.toNat)) ∧
  SclBinary .sremN64 (fun a b => if b = 0 then a else BitVec.ofNat 64 (a.toNat % b.toNat)) ∧
  SclBinary .sand (fun a b => a &&& b) ∧ SclBinary .sor (fun a b => a ||| b) ∧ SclBinary .sxor (fun a b => a ^^^ b) ∧
  SclBinary .sshl (fun a b => BitVec.ofNat 64 (a.toNat * 2 ^ (b.toNat % 64))) ∧
  SclBinary .sshr (fun a b => BitVec.ofNat 64 (a.toNat / 2 ^ (b.toNat % 64))) ∧
  SclBinary .ssra (fun a b => BitVec.ofInt 64 (a.toInt / 2 ^ (b.toNat % 64))) ∧
  SclBinary .srot (fun a b => a <<< (b.toNat % 64) ||| a >>> (64 - b.toNat % 64)) ∧
  SclBinary .sminI64 (fun a b => BitVec.ofInt 64 (min a.toInt b.toInt)) ∧
  SclBinary .smaxI64 (fun a b => BitVec.ofInt 64 (max a.toInt b.toInt)) ∧
  SclBinary .sminN64 (fun a b => BitVec.ofNat 64 (min a.toNat b.toNat)) ∧
  SclBinary .smaxN64 (fun a b => BitVec.ofNat 64 (max a.toNat b.toNat)) ∧
  SclBinary .scmpEq (fun a b => if a = b then 1 else 0) ∧ SclBinary .scmpNe (fun a b => if a ≠ b then 1 else 0) ∧
  SclBinary .scmpLtI64 (fun a b => if a.toInt < b.toInt then 1 else 0) ∧
  SclBinary .scmpLeI64 (fun a b => if a.toInt ≤ b.toInt then 1 else 0) ∧
  SclBinary .scmpLtN64 (fun a b => if a.toNat < b.toNat then 1 else 0) ∧
  SclBinary .scmpLeN64 (fun a b => if a.toNat ≤ b.toNat then 1 else 0) ∧
  (∀ sh : BitVec 2, SclBinary (fun o => .slea o sh) (fun a b => BitVec.ofNat 64 (a.toNat + b.toNat * 2 ^ sh.toNat)))

/-- R110: the scalar words with one, three or four sources, and SMOVI in its three formats. -/
def Claim.ScalarOtherShapes : Prop :=
  SclUnary .snot (fun a => a ^^^ 0xFFFFFFFFFFFFFFFF) ∧ SclUnary .smov (fun a => a) ∧
  SclUnary .spopc (fun a => BitVec.ofNat 64 ((List.range 64).countP fun k => a.getLsbD k)) ∧
  SclUnary .sclz (fun a => BitVec.ofNat 64 (64 - ((List.range 64).foldl (fun n k => if a.getLsbD k then k + 1 else n) 0))) ∧
  (∀ (s : State) (x : Issuer) (d a b c : SReg), Ready s x → CanIssue s x [] [d.toNat, a.toNat, b.toNat, c.toNat] →
    let lo := (x.G.rs x.S b).toNat % 64
    let w := min ((x.G.rs x.S c).toNat % 128) (64 - lo)
    (∃ t G', exec (.sbfe d a b c) s = .next t ∧ WordDone s x 8 t G' ∧
      SclSet x d (BitVec.ofNat 64 ((x.G.rs x.S a).toNat / 2 ^ lo % 2 ^ w)) G') ∧
    (∃ t G' v, exec (.sbfi d a b c) s = .next t ∧ WordDone s x 8 t G' ∧ SclSet x d v G' ∧
      ∀ k < 64, v.getLsbD k =
        if lo ≤ k ∧ k < lo + w then (x.G.rs x.S a).getLsbD (k - lo) else (x.G.rs x.S d).getLsbD k) ∧
    (∃ t G', exec (.ssel d a b c) s = .next t ∧ WordDone s x 8 t G' ∧
      SclSet x d (if x.G.rs x.S c ≠ 0 then x.G.rs x.S a else x.G.rs x.S b) G')) ∧
  (∀ (s : State) (x : Issuer) (d : SReg), Ready s x → CanIssue s x [] [d.toNat] →
    (∀ k : BitVec 26, ∃ t G', exec (.smovi d (.i26 k)) s = .next t ∧ WordDone s x 8 t G' ∧ SclSet x d (k.signExtend 64) G') ∧
    (∀ k : BitVec 58, ∃ t G', exec (.smovi d (.i58 k)) s = .next t ∧ WordDone s x 12 t G' ∧ SclSet x d (k.signExtend 64) G') ∧
    (∀ k : BitVec 64, ∃ t G', exec (.smovi d (.q64 k)) s = .next t ∧ WordDone s x 16 t G' ∧ SclSet x d k G'))

/-- R111: the predicate words. PAND, POR, PXOR and PNOT write the active bits; the moves and PPOPC ignore the masks. -/
def Claim.PredicateWords : Prop :=
  (∀ (s : State) (x : Issuer) (g : Guard) (d a b : PReg), Ready s x → CanIssue s x [] [] →
    (∃ t G', exec (.pand g d a b) s = .next t ∧ WordDone s x 8 t G' ∧
      PredSet x d (x.G.active x.S g) (fun i => (x.G.rp a).getLsbD i && (x.G.rp b).getLsbD i) G') ∧
    (∃ t G', exec (.por g d a b) s = .next t ∧ WordDone s x 8 t G' ∧
      PredSet x d (x.G.active x.S g) (fun i => (x.G.rp a).getLsbD i || (x.G.rp b).getLsbD i) G') ∧
    (∃ t G', exec (.pxor g d a b) s = .next t ∧ WordDone s x 8 t G' ∧
      PredSet x d (x.G.active x.S g) (fun i => (x.G.rp a).getLsbD i ^^ (x.G.rp b).getLsbD i) G') ∧
    (∃ t G', exec (.pnot g d a) s = .next t ∧ WordDone s x 8 t G' ∧
      PredSet x d (x.G.active x.S g) (fun i => !(x.G.rp a).getLsbD i) G')) ∧
  (∀ (s : State) (x : Issuer) (d : SReg) (a : PReg), Ready s x → CanIssue s x [] [d.toNat] →
    (∀ e : BitVec 2, ∃ t G', exec (.pmovSp d a e) s = .next t ∧ WordDone s x 8 t G' ∧
      SclSet x d (((x.G.rp a).extractLsb' (32 * e.toNat) 32).setWidth 64) G') ∧
    (∃ t G', exec (.ppopc d a) s = .next t ∧ WordDone s x 8 t G' ∧
      SclSet x d (BitVec.ofNat 64 ((List.range 96).countP fun i => (x.G.rp a).getLsbD i)) G')) ∧
  (∀ (s : State) (x : Issuer) (d : PReg) (a : SReg) (e : BitVec 2), Ready s x → CanIssue s x [] [a.toNat] → e ≠ 3 →
    ∃ t G', exec (.pmovPs d a e) s = .next t ∧ WordDone s x 8 t G' ∧
      PredSet x d (BitVec.allOnes 96)
        (fun i => if 32 * e.toNat ≤ i ∧ i < 32 * e.toNat + 32 then (x.G.rs x.S a).getLsbD (i - 32 * e.toNat)
                  else (x.G.rp d).getLsbD i) G')

/-- R91, R92: MOVSR writes the value of the selected special register at issue; MOVRS writes TENTRY or CHENTRY, and a
value with bits [5:0] non-zero raises BRANCH_ALIGN and leaves the register. -/
def Claim.SpecialRegisters : Prop :=
  (∀ (s : State) (x : Issuer) (d : SReg), Ready s x → CanIssue s x [] [d.toNat] →
    let Reads (sel : BitVec 10) (v : Word64) : Prop :=
      ∃ t G', exec (.movsr d sel) s = .next t ∧ WordDone s x 8 t G' ∧ SclSet x d v G'
    Reads 0x000 s.time ∧ Reads 0x001 (BitVec.ofNat 64 s.ticks) ∧ Reads 0x002 (BitVec.ofNat 64 x.G.idx) ∧
    Reads 0x003 (BitVec.ofNat 64 x.P.tmpl.gangs) ∧ Reads 0x004 (BitVec.ofNat 64 x.P.lid) ∧
    Reads 0x005 (BitVec.ofNat 64 (x.P.core % 12)) ∧ Reads 0x006 (BitVec.ofNat 64 (x.P.core / 12 % 8)) ∧
    Reads 0x007 (BitVec.ofNat 64 (x.P.core / 96)) ∧ Reads 0x008 (BitVec.ofNat 64 s.partno) ∧
    Reads 0x009 (BitVec.ofNat 64 x.P.ctx) ∧ Reads 0x00A (BitVec.ofNat 64 x.P.tmpl.prio) ∧
    Reads 0x010 x.G.tentry ∧ Reads 0x011 x.G.tcause ∧ Reads 0x012 x.G.tpca ∧ Reads 0x013 x.G.tpcb ∧
    Reads 0x014 x.G.tinfo ∧ Reads 0x015 x.G.taddr ∧ Reads 0x016 x.G.tlane0 ∧ Reads 0x017 x.G.tlane1 ∧
    Reads 0x020 x.G.chentry ∧
    Reads 0x021 (match x.P.target with
      | some k => if x.P.handler = x.G.idx then BitVec.ofNat 64 k else 0xFFFFFFFFFFFFFFFF
      | none => 0xFFFFFFFFFFFFFFFF) ∧
    Reads 0x022 x.G.chpca ∧ Reads 0x023 x.G.chpcb ∧ Reads 0x030 (BitVec.ofNat 64 x.G.cp.count) ∧
    Reads 0x031 (BitVec.ofNat 64 x.G.gs.count) ∧ Reads 0x032 (BitVec.ofNat 64 x.G.cl.count) ∧
    Reads 0x033 (BitVec.ofNat 64 x.G.ev.count)) ∧
  (∀ (s : State) (x : Issuer) (a : SReg), Ready s x → CanIssue s x [] [a.toNat] →
    if (x.G.rs x.S a).toNat % 64 = 0 then
      (∃ G', exec (.movrs a 0x010) s = .next (s.setGang { G' with tentry := x.G.rs x.S a }) ∧ GangDone s x 8 G' ∧ RegsKept x G') ∧
      (∃ G', exec (.movrs a 0x020) s = .next (s.setGang { G' with chentry := x.G.rs x.S a }) ∧ GangDone s x 8 G' ∧ RegsKept x G')
    else ∀ sel, Traps s x (.movrs a sel) { code := 0x02, addr := x.G.rs x.S a })

/-- R107, R108: VREL, VCLAIM and VCLAIM.NB move registers between the gang's window and the plot's reserve, after which
the claim queue is served; VQUERY reports the accounting. A count beyond the window or past 192 raises REG_BOUNDS. -/
def Obligations.PoolWords : Prop :=
  (∀ (s : State) (x : Issuer) (n : BitVec 10), Ready s x → CanIssue s x [] [] →
    (if x.G.nv < n.toNat + 8 then
      Traps s x (.vrel n) { code := 0x03, info := BitVec.ofNat 64 (0xFF + 256 * x.G.nv + 65536 * n.toNat) }
    else (∀ k < n.toNat, s.busyV x.P.core x.G (x.G.nv - n.toNat + k) = false) →
      ∃ G', exec (.vrel n) s =
          .next (((s.setPlot { x.P with reserve := x.P.reserve + n.toNat }).setGang G').settled x.P.id) ∧
        GangDone s x 8 G' ∧ G'.v = x.G.v.take (x.G.nv - n.toNat) ∧ G'.s = x.G.s ∧ G'.p = x.G.p ∧
        G'.latchA = none ∧ G'.latchB = none ∧ G'.latchC = none) ∧
    (x.S.wait ≠ .vclaim →
      if 192 < x.G.nv + n.toNat then
        Traps s x (.vclaim n) { code := 0x03, info := BitVec.ofNat 64 (0xFF + 256 * x.G.nv + 65536 * n.toNat) }
      else ∃ G', exec (.vclaim n) s =
          .next (((s.setPlot { x.P with claims := x.P.claims ++ [⟨x.G.idx, x.sl, n.toNat⟩] }).setGang G').settled x.P.id) ∧
        OnlyRegs s x G' ∧ OtherKept x G' ∧ RegsKept x G' ∧
        (G'.slot x.sl).map (fun S => (S.pc, S.mask, S.wait)) = some (x.S.pc, x.S.mask, .vclaim))) ∧
  (∀ (s : State) (x : Issuer) (d : SReg) (n : BitVec 10), Ready s x → CanIssue s x [] [d.toNat] →
    (if 192 < x.G.nv + n.toNat then
      Traps s x (.vclaimNb d n) { code := 0x03, info := BitVec.ofNat 64 (0xFF + 256 * x.G.nv + 65536 * n.toNat) }
    else if x.P.claims = [] ∧ n.toNat ≤ x.P.reserve then
      ∃ G', exec (.vclaimNb d n) s =
          .next ((s.setPlot { x.P with reserve := x.P.reserve - n.toNat }).setGang G') ∧ GangDone s x 8 G' ∧
        G'.v = x.G.v ++ List.replicate n.toNat (Vector.replicate 96 0) ∧
        G'.latchA = none ∧ G'.latchB = none ∧ G'.latchC = none ∧
        (∀ k, G'.rs x.S k = if k = d ∧ d ≠ 0 ∧ d.toNat < 61 then 0 else x.G.rs x.S k) ∧ G'.p = x.G.p
    else ∃ t G', exec (.vclaimNb d n) s = .next t ∧ WordDone s x 8 t G' ∧ SclSet x d 1 G') ∧
    (∃ t G', exec (.vquery d) s = .next t ∧ WordDone s x 8 t G' ∧
      SclSet x d (BitVec.ofNat 64
        (x.P.claims.length * 2 ^ 48 + x.P.budget * 2 ^ 32 + x.P.reserve * 2 ^ 16 + x.G.nv)) G'))

/-- R110: the scalar words. -/
def Obligations.ScalarWords : Prop := Claim.ScalarTwoSource ∧ Claim.ScalarOtherShapes

/-- R91, R92, R111: the predicate words, and the moves from and to special registers. -/
def Obligations.PredicatesAndSpecialRegisters : Prop := Claim.PredicateWords ∧ Claim.SpecialRegisters

/-! ### Floating point, conversions and the special-function queue (R112 to R114, R129 to R143) -/

/-- R113: reading a finite or infinite pattern exactly and rounding it back, in any mode, gives the pattern: a value that
the format holds is never rounded. A NaN gives the canonical NaN. -/
def Obligations.FloatPatternsRoundTrip : Prop :=
  ∀ F ∈ [f32, f64, f16, bf16], ∀ (rm : RM) (w : Nat), w < 2 ^ (1 + F.eb + F.fb) →
    F.pack rm (F.unpack w) =
      if w / 2 ^ F.fb % 2 ^ F.eb = 2 ^ F.eb - 1 ∧ w % 2 ^ F.fb ≠ 0 then (2 ^ F.eb - 1) * 2 ^ F.fb + 2 ^ (F.fb - 1) else w

/-- R131, R134: the FP32 arithmetic rounds the exact result once in the word's mode; FSCALE scales by a power of two. -/
def Claim.SinglePrecisionArithmetic : Prop :=
  ∀ rm : RM,
  FloatBinary (fun o => .faddF32 o rm) (fun a b => w32 (f32.pack rm (sumExact rm [f32.unpack a.toNat, f32.unpack b.toNat]))) ∧
  FloatBinary (fun o => .fsubF32 o rm) (fun a b => w32 (f32.pack rm (sumExact rm [f32.unpack a.toNat, (f32.unpack b.toNat).neg]))) ∧
  FloatBinary (fun o => .fmulF32 o rm) (fun a b => w32 (f32.pack rm ((f32.unpack a.toNat).mul (f32.unpack b.toNat)))) ∧
  FloatTernary (fun o => .fmaF32 o rm) (fun a b c =>
    w32 (f32.pack rm (sumExact rm [(f32.unpack a.toNat).mul (f32.unpack b.toNat), f32.unpack c.toNat]))) ∧
  FloatTernary (fun o => .fnmaF32 o rm) (fun a b c =>
    w32 (f32.pack rm (sumExact rm [((f32.unpack a.toNat).mul (f32.unpack b.toNat)).neg, f32.unpack c.toNat]))) ∧
  VecUnary (fun o => .frnd o rm) (fun a => match f32.unpack a.toNat with
    | .nan => 0x7FC00000
    | .inf _ => a
    | .fin neg m e => if 0 ≤ e then a else w32 (f32.pack rm (.fin neg (roundTo rm neg m e 0) 0))) ∧
  VecBinary (fun o => .fscale o rm) (fun a b => w32 (f32.pack rm (match f32.unpack a.toNat with
    | .fin neg m e => .fin neg m (e + b.toInt)
    | v => v)))

/-- R131 to R133: the FP32 words that round nothing, on patterns: minimum and maximum with -0 below +0 and a NaN giving
way, sign words, saturation, comparisons that are false on a NaN, and the class bit. -/
def Claim.SinglePrecisionSelections : Prop :=
  FloatBinary .fminF32 (fun a b =>
    if nanBits a then (if nanBits b then 0x7FC00000 else b) else if nanBits b then a else if ordBits a ≤ ordBits b then a else b) ∧
  FloatBinary .fmaxF32 (fun a b =>
    if nanBits a then (if nanBits b then 0x7FC00000 else b) else if nanBits b then a else if ordBits a ≤ ordBits b then b else a) ∧
  VecUnary .fabsF32 (fun a => if nanBits a then 0x7FC00000 else BitVec.ofNat 32 (a.toNat % 2 ^ 31)) ∧
  VecUnary .fnegF32 (fun a => if nanBits a then 0x7FC00000 else a + 0x80000000) ∧
  VecUnary .fsatF32 (fun a => if nanBits a ∨ keyBits a ≤ 0 then 0 else if 0x3F800000 < keyBits a then 0x3F800000 else a) ∧
  FloatTest .fcmpEq (fun a b => decide (¬ nanBits a ∧ ¬ nanBits b ∧ keyBits a = keyBits b)) ∧
  FloatTest .fcmpLt (fun a b => decide (¬ nanBits a ∧ ¬ nanBits b ∧ keyBits a < keyBits b)) ∧
  FloatTest .fcmpLe (fun a b => decide (¬ nanBits a ∧ ¬ nanBits b ∧ keyBits a ≤ keyBits b)) ∧
  FloatTest .fcmpUn (fun a b => decide (nanBits a ∨ nanBits b)) ∧
  VecUnary .fclass (fun a =>
    let m := a.toNat % 2 ^ 31
    let neg := 2 ^ 31 ≤ a.toNat
    if 0x7F800000 < m then (if m / 2 ^ 22 % 2 = 1 then 512 else 256)
    else if m = 0x7F800000 then (if neg then 1 else 128)
    else if m = 0 then (if neg then 8 else 16)
    else if m < 0x00800000 then (if neg then 4 else 32)
    else if neg then 2 else 64)

/-- R130, R135, R137: the FP64 words read and write register pairs, every source before any half is written. -/
def Claim.DoublePrecisionPairs : Prop :=
  ∀ (rm : RM) (g : Guard) (d a b c : VReg),
  let pairs (l : List VReg) : List Nat := l.flatMap fun r => [r.toNat, r.toNat + 1]
  let va (x : Issuer) (k : Nat) : FVal := f64.unpack (x.pairLane x.srcA a k)
  let vb (x : Issuer) (k : Nat) : FVal := f64.unpack (x.pairLane x.srcB b k)
  let vc (x : Issuer) (k : Nat) : FVal := f64.unpack (x.pairLane x.srcC c k)
  PairOp (fun g d => .faddF64 g d a b rm) (pairs [d, a, b]) g d (fun x k => f64.pack rm (sumExact rm [va x k, vb x k])) ∧
  PairOp (fun g d => .fmulF64 g d a b rm) (pairs [d, a, b]) g d (fun x k => f64.pack rm ((va x k).mul (vb x k))) ∧
  PairOp (fun g d => .fmaF64 g d a b c rm) (pairs [d, a, b, c]) g d
    (fun x k => f64.pack rm (sumExact rm [(va x k).mul (vb x k), vc x k])) ∧
  (∀ h : Bool, PairOp (fun g d => .cvtF64F32 ⟨g, d, ⟨a, h⟩⟩) (a.toNat :: pairs [d]) g d
    (fun x k => f64.pack .rn (f32.unpack (x.srcA ⟨a, h⟩ k).toNat))) ∧
  (∀ (s : State) (x : Issuer), Ready s x → CanIssue s x (d.toNat :: pairs [a]) [] →
    ∃ t G', exec (.cvtF32F64 g d a rm) s = .next t ∧ WordDone s x 8 t G' ∧
      VecSet x d (x.G.active x.S g) (fun k => w32 (f32.pack rm (va x k))) G')

/-- R136 to R138: packed halves and dot products with one rounding, integer and format conversions, and the tapered
conversions with their scale from a scalar. -/
def Claim.PackedWordsAndConversions : Prop :=
  let h (a : Word) (k : Nat) : Nat := (a.extractLsb' (16 * k) 16).toNat
  let join (f : Nat → Nat) : Word := BitVec.ofNat 16 (f 1) ++ BitVec.ofNat 16 (f 0)
  (∀ rm : RM,
    PackedBinary (fun o => .faddF16x2 o rm) (fun a b => join fun k => f16.pack rm (sumExact rm [f16.unpack (h a k), f16.unpack (h b k)])) ∧
    PackedBinary (fun o => .fmulF16x2 o rm) (fun a b => join fun k => f16.pack rm ((f16.unpack (h a k)).mul (f16.unpack (h b k)))) ∧
    VecThree (fun o => .fmaF16x2 o rm) (fun a b c => join fun k =>
      f16.pack rm (sumExact rm [(f16.unpack (h a k)).mul (f16.unpack (h b k)), f16.unpack (h c k)])) ∧
    VecThree (fun o => .fmaBf16x2 o rm) (fun a b c => join fun k =>
      bf16.pack rm (sumExact rm [(bf16.unpack (h a k)).mul (bf16.unpack (h b k)), bf16.unpack (h c k)])) ∧
    VecThree (fun o => .fdot2F16 o rm) (fun a b c => w32 (f32.pack rm (sumExact rm
      [(f16.unpack (h a 0)).mul (f16.unpack (h b 0)), (f16.unpack (h a 1)).mul (f16.unpack (h b 1)), f32.unpack c.toNat]))) ∧
    VecThree (fun o => .fdot2Bf16 o rm) (fun a b c => w32 (f32.pack rm (sumExact rm
      [(bf16.unpack (h a 0)).mul (bf16.unpack (h b 0)), (bf16.unpack (h a 1)).mul (bf16.unpack (h b 1)), f32.unpack c.toNat]))) ∧
    VecUnary (fun o => .cvtF32I32 o rm) (fun a => w32 (f32.pack rm (.fin (decide (a.toInt < 0)) a.toInt.natAbs 0))) ∧
    VecUnary (fun o => .cvtF32N32 o rm) (fun a => w32 (f32.pack rm (.fin false a.toNat 0))) ∧
    VecUnary (fun o => .cvtI32F32 o rm) (fun a => match f32.unpack a.toNat with
      | .nan => 0
      | .inf neg => if neg then 0x80000000 else 0x7FFFFFFF
      | .fin neg m e => BitVec.ofInt 32 (max (-2 ^ 31) (min (2 ^ 31 - 1) (if neg then -(roundTo rm neg m e 0 : Int) else roundTo rm neg m e 0)))) ∧
    VecUnary (fun o => .cvtN32F32 o rm) (fun a => match f32.unpack a.toNat with
      | .nan => 0
      | .inf neg => if neg then 0 else 0xFFFFFFFF
      | .fin neg m e => if neg then 0 else BitVec.ofNat 32 (min (2 ^ 32 - 1) (roundTo rm neg m e 0))) ∧
    VecTwo (fun o => .cvtF16x2F32 o rm) (fun a b => join fun k => f16.pack rm (f32.unpack (if k = 0 then a else b).toNat)) ∧
    VecTwo (fun o => .cvtBf16x2F32 o rm) (fun a b => join fun k => bf16.pack rm (f32.unpack (if k = 0 then a else b).toNat))) ∧
  (∀ e : Bool,
    VecUnary (fun o => .cvtF32F16 o e) (fun a => w32 (f32.pack .rn (f16.unpack (h a e.toNat)))) ∧
    VecUnary (fun o => .cvtF32Bf16 o e) (fun a => w32 (f32.pack .rn (bf16.unpack (h a e.toNat))))) ∧
  (∀ (s : State) (x : Issuer) (o : VScl) (rm : RM), Ready s x → CanIssue s x [o.a.n.toNat, o.d.toNat] [o.b.toNat] →
    let q : Int := ((x.G.rs x.S o.b).extractLsb' 0 8).toInt
    (∃ t G', exec (.cvtT8F32 o) s = .next t ∧ WordDone s x 8 t G' ∧ VecSet x o.d (x.G.active x.S o.g)
      (fun k => w32 (t8.encode (f32.unpack (x.srcA o.a k).toNat) q)) G') ∧
    (∃ t G', exec (.cvtT6F32 o) s = .next t ∧ WordDone s x 8 t G' ∧ VecSet x o.d (x.G.active x.S o.g)
      (fun k => w32 (t6.encode (f32.unpack (x.srcA o.a k).toNat) q)) G') ∧
    (∃ t G', exec (.cvtF32T8 o rm) s = .next t ∧ WordDone s x 8 t G' ∧ VecSet x o.d (x.G.active x.S o.g)
      (fun k => w32 (f32.pack rm ((t8.decode (x.srcA o.a k).toNat).scale q))) G') ∧
    (∃ t G', exec (.cvtF32T6 o rm) s = .next t ∧ WordDone s x 8 t G' ∧ VecSet x o.d (x.G.active x.S o.g)
      (fun k => w32 (f32.pack rm ((t6.decode (x.srcA o.a k).toNat).scale q))) G'))

/-- R141 to R143: a special-function or division word reads its sources, enters the core's queue with its result and its
active lanes, its occupancy is a sample of monitor event 6 (R388), and its slot goes on; a full queue holds it back. The head entry's completion writes the recorded lanes. -/
def Claim.SpecialFunctionQueue : Prop :=
  QueueUnary .frcp fnRcp ∧ QueueUnary .frsq fnRsq ∧ QueueUnary .fsqrt fnSqrt ∧ QueueUnary .fexp2 fnExp2 ∧ QueueUnary .flog2 fnLog2 ∧ QueueUnary .fsin fnSin ∧
  QueueUnary .fcos fnCos ∧ QueueUnary .ftanh fnTanh ∧ QueueUnary .fsigm fnSigm ∧
  (∀ o : V2, Enqueues (.fdiv o) o.names 8 o.d o.g (fun x k => fnDiv (x.srcA o.a k) (x.srcB o.b k))) ∧
  QueueBinary .idivI32 (fun a b => if b = 0 then 0xFFFFFFFF else BitVec.ofInt 32 (a.toInt.tdiv b.toInt)) ∧
  QueueBinary .iremI32 (fun a b => if b = 0 then a else BitVec.ofInt 32 (a.toInt.tmod b.toInt)) ∧
  QueueBinary .idivN32 (fun a b => if b = 0 then 0xFFFFFFFF else BitVec.ofNat 32 (a.toNat / b.toNat)) ∧
  QueueBinary .iremN32 (fun a b => if b = 0 then a else BitVec.ofNat 32 (a.toNat % b.toNat)) ∧
  (∀ (s : State) (core : Nat) (e : SfqEntry) (es : List SfqEntry) (G : Gang), (s.core core).sfq = e :: es →
    s.gangs.find e.gang = some G → e.dest.toNat < G.nv →
    ∃ G', exec (.sfqEntryComplete core) s = .next ((s.setCore core { s.core core with sfq := es }).setGang G') ∧
      G'.aside = G.aside ∧ (∀ sl, (G'.slot sl).map (fun S => (S.pc, S.mask, S.wait)) = (G.slot sl).map fun S => (S.pc, S.mask, S.wait)) ∧
      G'.seq = G.seq ∧ G'.lastIssue = G.lastIssue ∧ G'.s = G.s ∧ G'.p = G.p ∧ (∀ n, n ≠ e.dest.toNat → G'.vreg n = G.vreg n) ∧
      ∀ k < 96, laneAt (G'.vreg e.dest.toNat) k = if e.mask.getLsbD k then laneAt e.val k else laneAt (G.vreg e.dest.toNat) k)

/-- R141: the special cases of the functions, and the canonical NaN for every NaN input. -/
def Claim.SpecialFunctionCases : Prop :=
  (fnRcp 0 = 0x7F800000 ∧ fnRcp 0x80000000 = 0xFF800000 ∧ fnRcp 0x7F800000 = 0 ∧ fnRcp 0xFF800000 = 0x80000000) ∧
  (fnRsq 0 = 0x7F800000 ∧ fnRsq 0x80000000 = 0xFF800000 ∧ fnRsq 0x7F800000 = 0) ∧
  (fnSqrt 0x80000000 = 0x80000000 ∧ fnSqrt 0x7F800000 = 0x7F800000) ∧
  (fnExp2 0xFF800000 = 0 ∧ fnExp2 0x7F800000 = 0x7F800000) ∧
  (fnLog2 0 = 0xFF800000 ∧ fnLog2 0x80000000 = 0xFF800000 ∧ fnLog2 0x7F800000 = 0x7F800000 ∧ fnLog2 0x3F800000 = 0) ∧
  (fnSin 0x7F800000 = 0x7FC00000 ∧ fnSin 0xFF800000 = 0x7FC00000 ∧ fnSin 0 = 0 ∧ fnSin 0x80000000 = 0x80000000) ∧
  (fnCos 0x7F800000 = 0x7FC00000 ∧ fnCos 0xFF800000 = 0x7FC00000) ∧
  (fnTanh 0x7F800000 = 0x3F800000 ∧ fnTanh 0xFF800000 = 0xBF800000 ∧ fnTanh 0 = 0 ∧ fnTanh 0x80000000 = 0x80000000) ∧
  (fnSigm 0xFF800000 = 0 ∧ fnSigm 0x7F800000 = 0x3F800000 ∧ fnSigm 0 = 0x3F000000 ∧ fnSigm 0x80000000 = 0x3F000000) ∧
  (∀ a : Word, 2 ^ 31 < a.toNat → fnRsq a = 0x7FC00000 ∧ fnSqrt a = 0x7FC00000 ∧ fnLog2 a = 0x7FC00000) ∧
  (∀ a : Word, 0x7F800000 < a.toNat % 2 ^ 31 → ∀ b : Word,
    (∀ f ∈ [fnRcp, fnRsq, fnSqrt, fnExp2, fnLog2, fnSin, fnCos, fnTanh, fnSigm], f a = 0x7FC00000) ∧
    fnDiv a b = 0x7FC00000 ∧ fnDiv b a = 0x7FC00000) ∧
  (∀ (a : Word) (neg : Bool), a.toNat % 2 ^ 31 ≠ 0 → a.toNat % 2 ^ 31 ≤ 0x7F800000 →
    fnDiv a (if neg then 0x80000000 else 0) = if neg = decide (2 ^ 31 ≤ a.toNat) then 0x7F800000 else 0xFF800000)

/-- R131 to R134: the FP32 words. -/
def Obligations.SinglePrecisionWords : Prop := Claim.SinglePrecisionArithmetic ∧ Claim.SinglePrecisionSelections

/-- R130, R135 to R138: the FP64 words on pairs, the packed words and the conversions. -/
def Obligations.PairsPackedAndConversions : Prop := Claim.DoublePrecisionPairs ∧ Claim.PackedWordsAndConversions

/-- R141 to R143: the special-function queue and the cases that its functions fix. -/
def Obligations.SpecialFunctions : Prop := Claim.SpecialFunctionQueue ∧ Claim.SpecialFunctionCases

/-! ### PAIR, blocks and scratchpads (R47 to R50, R139, R140, R146 to R161) -/

/-- R50: both halves of a PAIR read their sources before either writes, and each half does in its own active lanes what
its mini-opcode says. A queued half takes an entry of the special-function queue instead of writing. -/
def Claim.PairReadsThenWrites : Prop :=
  ∀ (s : State) (x : Issuer) (h0 h1 : Half), Ready s x → h0.wf = true → h1.wf = true → halvesOk h0 h1 = true →
    CanIssue s x (halfUses h0 ++ halfUses h1) [] →
    let res (h : Half) (k : Nat) : Word :=
      let r := halfRegs h
      miniFn h.mini.toNat (m2Mode h.m2) (laneAt (x.G.operand x.G.latchA r.1) k) (laneAt (x.G.operand x.G.latchB r.2.1) k)
        (laneAt (x.G.operand x.G.latchC r.2.2) k)
    let one (a b : Half) : Prop :=
      queued a = true → queued b = false → (s.core x.P.core).sfq.length < 32 →
        ∃ G' vals, exec (.pair h0 h1) s = .next (((s.setCore x.P.core { s.core x.P.core with
            sfq := (s.core x.P.core).sfq ++ [⟨gangKey x.P.id x.G.idx, a.d, x.G.active x.S a.g, vals⟩] }).sample x.P.core 6
              ((s.core x.P.core).sfq.length + 1)).setGang G') ∧
          GangDone s x 16 G' ∧ VecSet x b.d (x.G.active x.S b.g) (res b) G' ∧ ∀ k < 96, laneAt vals k = res a k
    (queued h0 = false → queued h1 = false → ∃ t G', exec (.pair h0 h1) s = .next t ∧ WordDone s x 16 t G' ∧
      G'.nv = x.G.nv ∧ G'.s = x.G.s ∧ G'.p = x.G.p ∧
      (∀ k < 96, laneAt (G'.vreg h0.d.toNat) k =
        if (x.G.active x.S h0.g).getLsbD k then res h0 k else laneAt (x.G.vreg h0.d.toNat) k) ∧
      (∀ k < 96, laneAt (G'.vreg h1.d.toNat) k =
        if (x.G.active x.S h1.g).getLsbD k then res h1 k else laneAt (x.G.vreg h1.d.toNat) k) ∧
      ∀ n, n ≠ h0.d.toNat → n ≠ h1.d.toNat → G'.vreg n = x.G.vreg n) ∧
    one h0 h1 ∧ one h1 h0 ∧
    ((queued h0 = true ∨ queued h1 = true) → 32 ≤ (s.core x.P.core).sfq.length → exec (.pair h0 h1) s = .next s)

/-- R48, R102, R131 to R138, R141: what each mini-opcode computes from the sources at positions a, b and c: the lane function of the
word that R48 names for it, with the rounding mode of M2. -/
def Claim.MiniOpcodes : Prop :=
  ∀ (rm : RM) (a b c : Word),
  let is (m : Nat) (v : Word) : Prop := miniFn m rm a b c = v
  let h (a : Word) (k : Nat) : Nat := (a.extractLsb' (16 * k) 16).toNat
  let join (f : Nat → Nat) : Word := BitVec.ofNat 16 (f 1) ++ BitVec.ofNat 16 (f 0)
  let byte (a : Word) (k : Nat) : BitVec 8 := a.extractLsb' (8 * k) 8
  let half (a : Word) (k : Nat) : BitVec 16 := a.extractLsb' (16 * k) 16
  let f (a : Word) : FVal := f32.unpack a.toNat
  (is 0x01 (BitVec.ofNat 32 (a.toNat + b.toNat)) ∧ is 0x02 (BitVec.ofInt 32 ((a.toNat : Int) - b.toNat)) ∧
    is 0x03 (BitVec.ofNat 32 (a.toNat * b.toNat)) ∧ is 0x04 (BitVec.ofNat 32 (a.toNat * b.toNat + c.toNat)) ∧
    is 0x05 (BitVec.ofInt 32 (min a.toInt b.toInt)) ∧ is 0x06 (BitVec.ofNat 32 (min a.toNat b.toNat)) ∧
    is 0x07 (BitVec.ofInt 32 (max a.toInt b.toInt)) ∧ is 0x08 (BitVec.ofNat 32 (max a.toNat b.toNat)) ∧
    is 0x09 (BitVec.ofInt 32 a.toInt.natAbs) ∧ is 0x0A (BitVec.ofInt 32 (-a.toInt)) ∧ is 0x0B (a &&& b) ∧
    is 0x0C (a ||| b) ∧ is 0x0D (a ^^^ b) ∧ is 0x0E (a ^^^ 0xFFFFFFFF) ∧
    is 0x0F (BitVec.ofNat 32 (a.toNat * 2 ^ (b.toNat % 32))) ∧ is 0x10 (BitVec.ofNat 32 (a.toNat / 2 ^ (b.toNat % 32))) ∧
    is 0x11 (BitVec.ofInt 32 (a.toInt / 2 ^ (b.toNat % 32))) ∧ is 0x12 (a <<< (b.toNat % 32) ||| a >>> (32 - b.toNat % 32)) ∧
    is 0x13 (BitVec.ofNat 32 ((List.range 32).countP fun k => a.getLsbD k)) ∧
    is 0x14 (BitVec.ofNat 32 (32 - ((List.range 32).foldl (fun n k => if a.getLsbD k then k + 1 else n) 0))) ∧ is 0x15 a ∧
    is 0x16 ((half a 1 + half b 1) ++ (half a 0 + half b 0)) ∧ is 0x17 ((half a 1 - half b 1) ++ (half a 0 - half b 0)) ∧
    is 0x18 ((half a 1 * half b 1) ++ (half a 0 * half b 0)) ∧
    is 0x19 (c + ((byte a 0).signExtend 32 * (byte b 0).signExtend 32 + (byte a 1).signExtend 32 * (byte b 1).signExtend 32 +
      (byte a 2).signExtend 32 * (byte b 2).signExtend 32 + (byte a 3).signExtend 32 * (byte b 3).signExtend 32)) ∧
    is 0x1A (c + ((byte a 0).setWidth 32 * (byte b 0).setWidth 32 + (byte a 1).setWidth 32 * (byte b 1).setWidth 32 +
      (byte a 2).setWidth 32 * (byte b 2).setWidth 32 + (byte a 3).setWidth 32 * (byte b 3).setWidth 32))) ∧
  (is 0x20 (w32 (f32.pack rm (sumExact rm [f a, f b]))) ∧ is 0x21 (w32 (f32.pack rm (sumExact rm [f a, (f b).neg]))) ∧
    is 0x22 (w32 (f32.pack rm ((f a).mul (f b)))) ∧ is 0x23 (w32 (f32.pack rm (sumExact rm [(f a).mul (f b), f c]))) ∧
    is 0x24 (w32 (f32.pack rm (sumExact rm [((f a).mul (f b)).neg, f c]))) ∧
    is 0x25 (if nanBits a then (if nanBits b then 0x7FC00000 else b) else if nanBits b then a else if ordBits a ≤ ordBits b then a else b) ∧
    is 0x26 (if nanBits a then (if nanBits b then 0x7FC00000 else b) else if nanBits b then a else if ordBits a ≤ ordBits b then b else a) ∧
    is 0x27 (if nanBits a then 0x7FC00000 else BitVec.ofNat 32 (a.toNat % 2 ^ 31)) ∧
    is 0x28 (if nanBits a then 0x7FC00000 else a + 0x80000000) ∧
    is 0x29 (if nanBits a ∨ keyBits a ≤ 0 then 0 else if 0x3F800000 < keyBits a then 0x3F800000 else a) ∧
    is 0x2A (join fun k => f16.pack rm (sumExact rm [f16.unpack (h a k), f16.unpack (h b k)])) ∧
    is 0x2B (join fun k => f16.pack rm ((f16.unpack (h a k)).mul (f16.unpack (h b k)))) ∧
    is 0x2C (join fun k => f16.pack rm (sumExact rm [(f16.unpack (h a k)).mul (f16.unpack (h b k)), f16.unpack (h c k)])) ∧
    is 0x2D (join fun k => bf16.pack rm (sumExact rm [(bf16.unpack (h a k)).mul (bf16.unpack (h b k)), bf16.unpack (h c k)])) ∧
    is 0x2E (w32 (f32.pack rm (sumExact rm
      [(f16.unpack (h a 0)).mul (f16.unpack (h b 0)), (f16.unpack (h a 1)).mul (f16.unpack (h b 1)), f c]))) ∧
    is 0x2F (w32 (f32.pack rm (sumExact rm
      [(bf16.unpack (h a 0)).mul (bf16.unpack (h b 0)), (bf16.unpack (h a 1)).mul (bf16.unpack (h b 1)), f c])))) ∧
  (is 0x40 (w32 (f32.pack rm (.fin (decide (a.toInt < 0)) a.toInt.natAbs 0))) ∧
    is 0x41 (match f a with
      | .nan => 0
      | .inf neg => if neg then 0x80000000 else 0x7FFFFFFF
      | .fin neg m e => BitVec.ofInt 32 (max (-2 ^ 31) (min (2 ^ 31 - 1) (if neg then -(roundTo rm neg m e 0 : Int) else roundTo rm neg m e 0)))) ∧
    is 0x42 (w32 (f32.pack rm (.fin false a.toNat 0))) ∧
    is 0x43 (match f a with
      | .nan => 0
      | .inf neg => if neg then 0 else 0xFFFFFFFF
      | .fin neg m e => if neg then 0 else BitVec.ofNat 32 (min (2 ^ 32 - 1) (roundTo rm neg m e 0))) ∧
    is 0x44 (join fun k => f16.pack rm (f (if k = 0 then a else b))) ∧ is 0x45 (w32 (f32.pack .rn (f16.unpack (h a 0)))) ∧
    is 0x46 (join fun k => bf16.pack rm (f (if k = 0 then a else b))) ∧ is 0x47 (w32 (f32.pack .rn (bf16.unpack (h a 0))))) ∧
  (is 0x50 (fnRcp a) ∧ is 0x51 (fnRsq a) ∧ is 0x52 (fnSqrt a) ∧ is 0x53 (fnExp2 a) ∧ is 0x54 (fnLog2 a) ∧ is 0x55 (fnSin a) ∧
    is 0x56 (fnCos a) ∧ is 0x57 (fnTanh a) ∧ is 0x58 (fnSigm a))

/-- R48, R50: both halves of a PAIR, and what each mini-opcode computes. -/
def Obligations.PairHalves : Prop := Claim.PairReadsThenWrites ∧ Claim.MiniOpcodes

/-- R139, R140: BLKPACK writes one dense block of its active lanes' codes into the bower and touches no other byte;
BLKUNPK reads a sound block of the bower into its active lanes. With no active lane neither touches the bower. A bad offset
raises MISALIGNED, then SCRATCH_BOUNDS, and a poisoned block DATA_POISON. -/
def Obligations.BlockWords : Prop :=
  let off (x : Issuer) (a : SReg) (e : BitVec 10) : Int := (x.G.rs x.S a).toInt + e.toInt * 64
  let inside (x : Issuer) (o : Int) : Prop := o % 64 = 0 ∧ 0 ≤ o ∧ o + 64 ≤ x.P.tmpl.l1s
  let badOff (s : State) (x : Issuer) (i : Instr) (o : Int) (m : Mask) (st : Nat) : Prop :=
    (o % 64 ≠ 0 → Traps s x i { code := 0x04, info := BitVec.ofNat 64 st, addr := BitVec.ofInt 64 o, lanes := m }) ∧
    (o % 64 = 0 → (o < 0 ∨ (x.P.tmpl.l1s : Int) < o + 64) →
      Traps s x i { code := 0x05, info := BitVec.ofNat 64 st, addr := BitVec.ofInt 64 o, lanes := m })
  let Packs (T : TFmt) (n : Nat) (c : Guard → SReg → BitVec 10 → HReg → SReg → Instr) : Prop :=
    ∀ (s : State) (x : Issuer) (g : Guard) (a cc : SReg) (e : BitVec 10) (b : HReg), Ready s x →
      CanIssue s x [b.n.toNat] [a.toNat, cc.toNat] →
      let m := x.G.active x.S g
      let q : Int := ((x.G.rs x.S cc).extractLsb' 0 8).toInt
      let codes := (List.range n).map fun j => if m.getLsbD j then T.encode (f32.unpack (x.srcB b j).toNat) q else 0
      (m = 0 → ∃ t G', exec (c g a e b cc) s = .next t ∧ WordDone s x 8 t G' ∧ RegsKept x G') ∧
      (m ≠ 0 → inside x (off x a e) → ∃ G' st', exec (c g a e b cc) s = .next ((s.setPlot { x.P with bower := st' }).setGang G') ∧
        GangDone s x 8 G' ∧ RegsKept x G' ∧ st'.readN (off x a e).toNat 64 = denseBlock T codes q ∧
        (∀ k, k ∈ st'.poison ↔ k ∈ x.P.bower.poison ∧ (4 * (k : Int) < off x a e ∨ off x a e + 64 ≤ 4 * k)) ∧
        ∀ k : Nat, (k : Int) < off x a e ∨ off x a e + 64 ≤ k → st'.mem.read k = x.P.bower.mem.read k) ∧
      (m ≠ 0 → badOff s x (c g a e b cc) (off x a e) m 4)
  Packs t8 62 .blkpackT8 ∧ Packs t6 82 .blkpackT6 ∧
  (∀ (s : State) (x : Issuer) (g : Guard) (d : VReg) (a : SReg) (e : BitVec 10) (rm : RM), Ready s x →
    CanIssue s x [d.toNat] [a.toNat] →
    let m := x.G.active x.S g
    let bs := x.P.bower.readN (off x a e).toNat 64
    (m = 0 → ∃ t G', exec (.blkunpk g d a e rm) s = .next t ∧ WordDone s x 8 t G' ∧ RegsKept x G') ∧
    let hurt : Prop := ∃ k ∈ x.P.bower.poison, off x a e ≤ 4 * (k : Int) ∧ 4 * (k : Int) < off x a e + 64
    (m ≠ 0 → inside x (off x a e) → hurt → Traps s x (.blkunpk g d a e rm)
      { code := 0x09, addr := BitVec.ofInt 64 (off x a e), lanes := m }) ∧
    (m ≠ 0 → inside x (off x a e) → ¬ hurt → blkCheck bs anyFmt = none →
      ∃ t G', exec (.blkunpk g d a e rm) s = .next t ∧ WordDone s x 8 t G' ∧
        VecSet x d m (fun i => if blkCap (blkFmt bs) ≤ i then 0
          else if 0x10 ≤ blkFmt bs then BitVec.ofNat 32 (blkRaw bs i) else w32 (f32.pack rm (blkVal bs i))) G') ∧
    (m ≠ 0 → inside x (off x a e) → ¬ hurt → ∀ r, blkCheck bs anyFmt = some r →
      Traps s x (.blkunpk g d a e rm) { code := 0x0A, info := BitVec.ofNat 64 r, addr := BitVec.ofInt 64 (off x a e) }) ∧
    (m ≠ 0 → badOff s x (.blkunpk g d a e rm) (off x a e) m 0))

/-- R150, R155, R156: a scratchpad load whose active lanes pass the checks writes them the little-endian values at their
addresses and changes no memory; a store writes its active lanes in ascending order and changes no other byte, and a poisoned
word that its lanes cover between them becomes sound; with no active lane nothing is checked. Each level has its own storage.
A load from the bower is a sample of monitor event 1, whose latency is a free value (R388, log entry 4). -/
def Claim.ScratchLoadsAndStores : Prop :=
  let Loads (lv : Nat) (c : Guard → VReg → MemRef → Width → Instr) : Prop :=
    ∀ (s : State) (x : Issuer) (g : Guard) (d : VReg) (m : MemRef) (w : Width), Ready s x →
      CanIssue s x (m.idx.names ++ w.regs d) (m.a.toNat :: m.idx.uses) →
      let act := x.G.active x.S g
      (act = 0 → ∃ t G', exec (c g d m w) s = .next t ∧ WordDone s x m.off.len t G' ∧ RegsKept x G') ∧
      (act ≠ 0 → ∀ st size, s.scratch x.P lv = some (st, size) →
        AllPass (scrChecks st size w.bytes fun _ => false) act (x.scrAddr m) →
        let val (i : Nat) : Nat := st.nat (x.scrAddr m i).toNat w.bytes
        ∃ t G', exec (c g d m w) s = .next t ∧ t = (s.sampledLoad x lv).setGang G' ∧ SameMemory s t ∧
          GangDone s x m.off.len G' ∧
          if w = .x64 then PairSet x d act (fun i => BitVec.ofNat 32 (val i)) (fun i => BitVec.ofNat 32 (val i / 2 ^ 32)) G'
          else VecSet x d act (fun i => BitVec.ofNat 32 (val i)) G')
  let Stores (lv : Nat) (c : Guard → HReg → MemRef → Width → Instr) : Prop :=
    ∀ (s : State) (x : Issuer) (g : Guard) (d : HReg) (m : MemRef) (w : Width), Ready s x →
      CanIssue s x (m.idx.names ++ d.n.toNat :: w.regs d.n) (m.a.toNat :: m.idx.uses) →
      let act := x.G.active x.S g
      (act = 0 → s.scratch x.P lv = none →
        ∃ t G', exec (c g d m w) s = .next t ∧ WordDone s x m.off.len t G' ∧ RegsKept x G') ∧
      (∀ st size, s.scratch x.P lv = some (st, size) → AllPass (scrChecks st size w.bytes (storeCovers act (x.scrAddr m) w.bytes)) act (x.scrAddr m) →
        let val (i : Nat) : Nat := (x.srcA d i).toNat + if w = .x64 then 2 ^ 32 * (laneAt (x.G.vreg (d.n.toNat + 1)) i).toNat else 0
        let sound (σ : Store) : Store :=
          { σ with poison := σ.poison.filter fun k => !storeCovers act (x.scrAddr m) w.bytes k }
        ∃ (σ : Nat → Store) (G' : Gang), exec (c g d m w) s = .next ((s.setScratch x.P lv (sound (σ 96))).setGang G') ∧
          GangDone s x m.off.len G' ∧ RegsKept x G' ∧ σ 0 = st ∧
          (∀ i < 96, σ (i + 1) =
            if act.getLsbD i then (σ i).writeN (x.scrAddr m i).toNat (leOf w.bytes (val i)) else σ i) ∧
          ∀ a : Nat, (∀ i < 96, act.getLsbD i = true → (a : Int) < x.scrAddr m i ∨ x.scrAddr m i + w.bytes ≤ a) →
            (σ 96).mem.read a = st.mem.read a)
  Loads 0 .ldL1 ∧ Loads 1 .ldL2 ∧ Loads 2 .ldL3 ∧ Stores 0 .stL1 ∧ Stores 1 .stL2 ∧ Stores 2 .stL3

/-- R157: a uniform load reads one address, whatever the masks, and zero-extends it into a scalar register. SPINFO reports
what the plot holds at a level (R161). -/
def Claim.UniformLoadsAndSpinfo : Prop :=
  let Uniform (lv : Nat) (c : SReg → MemRef → Width → Instr) : Prop :=
    ∀ (s : State) (x : Issuer) (d : SReg) (m : MemRef) (w : Width), Ready s x → m.idx.uniform = true →
      CanIssue s x [] (d.toNat :: m.a.toNat :: m.idx.uses) →
      (∀ st size, s.scratch x.P lv = some (st, size) → AllPass (scrChecks st size w.bytes fun _ => false) 1 (x.scrAddr m) →
        ∃ t G', exec (c d m w) s = .next t ∧ t = (s.sampledLoad x lv).setGang G' ∧ SameMemory s t ∧ GangDone s x m.off.len G' ∧
          SclSet x d (BitVec.ofNat 64 (st.nat (x.scrAddr m 0).toNat w.bytes)) G') ∧
      (∀ st size ck, s.scratch x.P lv = some (st, size) → FirstBad (scrChecks st size w.bytes fun _ => false) 1 (x.scrAddr m) ck 0 →
        Traps s x (c d m w) { badTrap ck 1 (x.scrAddr m) 0 lv with lanes := 0 }) ∧
      (s.scratch x.P lv = none →
        Traps s x (c d m w) { code := 0x06, info := BitVec.ofNat 64 lv, addr := BitVec.ofInt 64 (x.scrAddr m 0) })
  Uniform 0 .lduL1 ∧ Uniform 1 .lduL2 ∧ Uniform 2 .lduL3 ∧
  (∀ (s : State) (x : Issuer) (d : SReg), Ready s x → CanIssue s x [] [d.toNat] →
    let word (size span : Nat) : Word64 := BitVec.ofNat 64 (size % 2 ^ 32 + 2 ^ 32 + 2 ^ 33 * span)
    let Reads (n : BitVec 2) (v : Word64) : Prop :=
      ∃ t G', exec (.spinfo d n) s = .next t ∧ WordDone s x 8 t G' ∧ SclSet x d v G'
    Reads 0 (word x.P.tmpl.l1s x.P.tmpl.span) ∧
    (∀ gr, x.P.pav = some gr → (s.pads.find gr.pad).isSome = true → Reads 1 (word gr.size gr.span)) ∧
    (x.P.pav = none → Reads 1 0) ∧
    (∀ gr, x.P.cons = some gr → (s.pads.find gr.pad).isSome = true → Reads 2 (word gr.size 0)) ∧
    (x.P.cons = none → Reads 2 0))

/-- R150: the checks of a scratchpad load, store or atomic in their order, and what each trap reports: the lanes that fail the
first failing check, the address of the lowest of them, the level, and whether the access writes. The lanes of a store cover a
poisoned word between them. AT.XCHG64 and AT.CAS64 access 8 bytes, the other twelve 4. -/
def Obligations.ScratchpadTraps : Prop :=
  let Checked (i : Instr) (s : State) (x : Issuer) (g : Guard) (addr : Nat → Int) (lv z : Nat) (kind : Nat) : Prop :=
    let act := x.G.active x.S g
    let space := lv + if kind = 0 then 0 else 4
    (∀ i0 < 96, act.getLsbD i0 = true → (∀ j < i0, act.getLsbD j = false) → s.scratch x.P lv = none →
      Traps s x i { code := 0x06, info := BitVec.ofNat 64 space, addr := BitVec.ofInt 64 (addr i0), lanes := act }) ∧
    (∀ st size ck i0, s.scratch x.P lv = some (st, size) → FirstBad (scrChecks st size z fun k => kind == 1 && storeCovers act addr z k) act addr ck i0 →
      Traps s x i (badTrap ck act addr i0 space))
  (∀ (s : State) (x : Issuer) (g : Guard) (d : VReg) (m : MemRef) (w : Width), Ready s x →
    CanIssue s x (m.idx.names ++ w.regs d) (m.a.toNat :: m.idx.uses) →
    Checked (.ldL1 g d m w) s x g (x.scrAddr m) 0 w.bytes 0 ∧ Checked (.ldL2 g d m w) s x g (x.scrAddr m) 1 w.bytes 0 ∧
    Checked (.ldL3 g d m w) s x g (x.scrAddr m) 2 w.bytes 0) ∧
  (∀ (s : State) (x : Issuer) (g : Guard) (d : HReg) (m : MemRef) (w : Width), Ready s x →
    CanIssue s x (m.idx.names ++ d.n.toNat :: w.regs d.n) (m.a.toNat :: m.idx.uses) →
    Checked (.stL1 g d m w) s x g (x.scrAddr m) 0 w.bytes 1 ∧ Checked (.stL2 g d m w) s x g (x.scrAddr m) 1 w.bytes 1 ∧
    Checked (.stL3 g d m w) s x g (x.scrAddr m) 2 w.bytes 1) ∧
  (∀ o : AtOps, o.space ≠ .gm →
    let Atomic (i : Instr) (r : Option HReg) (wide : Bool) : Prop :=
      ∀ (s : State) (x : Issuer), Ready s x → CanIssue s x (o.names wide r) (o.a.toNat :: o.idx.uses) →
        Checked i s x o.g (x.atAddr o (x.G.rs x.S o.a).toInt) o.level (if wide then 8 else 4) 2
    (∀ c ∈ [Instr.atAdd, .atMinI32, .atMaxI32, .atMinN32, .atMaxN32, .atAnd, .atOr, .atXor, .atXchg, .atFadd, .atAmaxx],
      Atomic (c o) none false) ∧
    Atomic (.atXchg64 o) none true ∧ ∀ r, Atomic (.atCas o r) (some r) false ∧ Atomic (.atCas64 o r) (some r) true)

/-- R149 to R156: scratchpad loads and stores, uniform loads and SPINFO. -/
def Obligations.ScratchLoadsStoresAndUniform : Prop := Claim.ScratchLoadsAndStores ∧ Claim.UniformLoadsAndSpinfo

/-! ### Atomics (R158 to R160, R174) -/

/-- R159: the atomics in the scratchpads, with the value that each writes. -/
def Obligations.ScratchAtomics : Prop :=
  ∀ o : AtOps,
  let on (f : Word → Word → Word) (old c _ : Nat) : Nat := (f (BitVec.ofNat 32 old) (BitVec.ofNat 32 c)).toNat
  ScratchAtomic (.atAdd o) o none false (fun old c _ => (old + c) % 2 ^ 32) ∧
  ScratchAtomic (.atMinI32 o) o none false (on fun old c => BitVec.ofInt 32 (min old.toInt c.toInt)) ∧
  ScratchAtomic (.atMaxI32 o) o none false (on fun old c => BitVec.ofInt 32 (max old.toInt c.toInt)) ∧
  ScratchAtomic (.atMinN32 o) o none false (fun old c _ => min old c) ∧
  ScratchAtomic (.atMaxN32 o) o none false (fun old c _ => max old c) ∧
  ScratchAtomic (.atAnd o) o none false (on fun old c => old &&& c) ∧
  ScratchAtomic (.atOr o) o none false (on fun old c => old ||| c) ∧
  ScratchAtomic (.atXor o) o none false (on fun old c => old ^^^ c) ∧
  ScratchAtomic (.atXchg o) o none false (fun _ c _ => c) ∧
  ScratchAtomic (.atXchg64 o) o none true (fun _ c _ => c) ∧
  (∀ r, ScratchAtomic (.atCas o r) o (some r) false (fun old c e => if old = e then c else old)) ∧
  (∀ r, ScratchAtomic (.atCas64 o r) o (some r) true (fun old c e => if old = e then c else old)) ∧
  ScratchAtomic (.atFadd o) o none false
    (on fun old c => w32 (f32.pack .rn (sumExact .rn [f32.unpack old.toNat, f32.unpack c.toNat]))) ∧
  ScratchAtomic (.atAmaxx o) o none false (on fun old c =>
    if nanBits old ∨ nanBits c then 0x7FC00000 else BitVec.ofNat 32 (max (old.toNat % 2 ^ 31) (c.toNat % 2 ^ 31)))

/-- R160, R165, R166, R171: the atomics in global memory at issue, and their address checks. The host windows serve AT.ADD,
AT.XCHG, AT.XCHG64, AT.CAS and AT.CAS64 alone. -/
def Obligations.GlobalAtomicsIssue : Prop :=
  ∀ o : AtOps,
  GlobalAtomic (.atAdd o) o .add none false true ∧ GlobalAtomic (.atMinI32 o) o .minI none false false ∧
  GlobalAtomic (.atMaxI32 o) o .maxI none false false ∧ GlobalAtomic (.atMinN32 o) o .minN none false false ∧
  GlobalAtomic (.atMaxN32 o) o .maxN none false false ∧ GlobalAtomic (.atAnd o) o .and none false false ∧
  GlobalAtomic (.atOr o) o .or none false false ∧ GlobalAtomic (.atXor o) o .xor none false false ∧
  GlobalAtomic (.atXchg o) o .xchg none false true ∧ GlobalAtomic (.atXchg64 o) o .xchg64 none true true ∧
  (∀ r, GlobalAtomic (.atCas o r) o .cas (some r) false true) ∧
  (∀ r, GlobalAtomic (.atCas64 o r) o .cas64 (some r) true true) ∧
  GlobalAtomic (.atFadd o) o .fadd none false false ∧ GlobalAtomic (.atAmaxx o) o .amaxx none false false

/-- R159, R168, R174, R327: a lane of the oldest atomic of a gang, its gates open and its address translated to a sound place, is
one read-modify-write there: the register lane receives the old value, the place the operation's value, and nothing else in
memory changes; watches of swapped plots at the place fire (R391). The lane leaves the atomic and the others stay. A lane whose
place is poisoned, and the lanes of a page that the owner refuses, change no memory and no register: they leave the atomic, and
their trap is deferred. That a poisoned lane's DATA_POISON is deferred for that lane alone, with log entry number 7, is the model's
reading (log 50). -/
def Obligations.GlobalAtomicPerform : Prop :=
  ∀ (s s1 : State) (p g : Nat) (P : Plot) (G : Gang) (o : AtomOp) (os : List AtomOp) (l : AtomLane) (ls : List AtomLane)
    (loc : Loc) (pte : Nat),
    s.plot? p = some P → s.gang? p g = some G → P.away = false → G.atoms = o :: os → o.lanes = l :: ls → o.fids = [] →
    l.lane < 96 → G.gates o.seq l.addr o.fn.size = true →
    let s2 := s1.countAccess P.ctx l.addr (.die (P.core / 96))
    let old := natOf (s2.readLoc loc o.fn.size)
    let page := o.lanes.filter fun e => e.addr / 65536 == l.addr / 65536
    let leaves (G' : Gang) (gone : AtomLane → Prop) : Prop :=
      (∀ o' ∈ G'.atoms, o'.id = o.id → ∀ e ∈ o'.lanes, e ∈ o.lanes ∧ ¬ gone e) ∧
      (∀ e ∈ o.lanes, ¬ gone e → ∃ o' ∈ G'.atoms, o'.id = o.id ∧ e ∈ o'.lanes) ∧ ∀ o' ∈ G.atoms, o'.id ≠ o.id → o' ∈ G'.atoms
    let denied (t : State) (code entry : Nat) (gone : AtomLane → Prop) (addr : Nat) (m : Mask) : Prop :=
      G.life = .running → ∃ G', exec (.gmAtomicPerform p g) s = .next (t.setGang G') ∧ leaves G' gone ∧
        Defers G G' ⟨code, o.id, entry, 0, BitVec.ofNat 64 addr, m, o.slot, o.pc, true⟩
    let onPage (code : Nat) : Prop :=
      (∀ e ∈ o.lanes, e.lane < 96) → (o.lanes.map (·.lane)).Nodup →
      denied s1 code (G.entryOf o.id) (fun e => e.addr / 65536 = l.addr / 65536) ((page.map (·.addr)).headD 0)
        (maskOf fun k => page.any fun e => e.lane == k)
    (s.lookup P.ctx l.addr .atomic .cores = (.absent, s1) → onPage 0x07) ∧
    (s.lookup P.ctx l.addr .atomic .cores = (.refuse, s1) → onPage 0x08) ∧
    (s.lookup P.ctx l.addr .atomic .cores = (.ok loc pte, s1) → s2.poisonedLoc loc o.fn.size = true →
      denied s2 0x09 7 (fun e => e.lane = l.lane) l.addr (1 <<< l.lane)) ∧
    (s.lookup P.ctx l.addr .atomic .cores = (.ok loc pte, s1) → s2.poisonedLoc loc o.fn.size = false →
      o.dest.toNat < G.nv → (o.fn.wide = true → o.dest.toNat + 1 < G.nv) →
    ∃ G', exec (.gmAtomicPerform p g) s = .next (((s2.writeLoc loc
        (leOf o.fn.size (o.fn.apply (BitVec.ofNat 64 old) l.c l.e).toNat)).setGang G').fire loc o.fn.size) ∧
      leaves G' (fun e => e.lane = l.lane) ∧
      laneAt (G'.vreg o.dest.toNat) l.lane = BitVec.ofNat 32 old ∧
      (o.fn.wide = true → laneAt (G'.vreg (o.dest.toNat + 1)) l.lane = BitVec.ofNat 32 (old / 2 ^ 32)) ∧
      (∀ n, n ≠ o.dest.toNat → (o.fn.wide = true → n ≠ o.dest.toNat + 1) → G'.vreg n = G.vreg n) ∧
      (∀ k < 96, k ≠ l.lane → laneAt (G'.vreg o.dest.toNat) k = laneAt (G.vreg o.dest.toNat) k) ∧
      G'.s = G.s ∧ G'.p = G.p)

/-! ### Global memory: the phase machine (R163 to R184) -/

/-- R165, R178, R179: the global loads at issue, with the checks of their addresses. A uniform load has one address. -/
def Claim.GlobalLoadsIssue : Prop :=
  GlobalLoad .ldGm false ∧ GlobalLoad .ldGmAcq true ∧
  (∀ (s : State) (x : Issuer) (d : SReg) (m : MemRef) (w : Width), Ready s x → x.G.fencing x.sl = false → x.G.storing = false →
    m.idx.uniform = true → CanIssue s x [] (d.toNat :: m.a.toNat :: m.idx.uses) →
    (AllPass (gmChecks s.domain w.bytes false) 1 (x.gmAddr m) →
      ∃ G', exec (.lduGm d m w) s = .next (s.setGang G') ∧ RegsKept x G' ∧
        GangDone s (x.set { x.G with loads := x.G.loads ++ [⟨x.G.seq + 1, x.G.seq + 1, x.sl, x.S.pc, false, .scl d, w.bytes,
          [(0, (x.gmAddr m 0).toNat)], [], s.ticks⟩] }) m.off.len G') ∧
    (∀ ck, FirstBad (gmChecks s.domain w.bytes false) 1 (x.gmAddr m) ck 0 →
      Traps s x (.lduGm d m w) { badTrap ck 1 (x.gmAddr m) 0 3 with lanes := 0 }))

/-- R168, R169, R178: a lane of an issued load whose gates are open takes its bytes from the gang's own buffer where they
are valid there, and else from memory at its address; nothing in memory changes. A 64-bit load gives both words of a pair. A
scalar load whose register's copies have been exchanged writes the copy that it issued for (R89, R96). The load ends with its
last lane. A lane that takes a byte from a poisoned word of memory, and the lanes of a page that the owner refuses and whose bytes
the buffer does not hold whole, change no register: they leave the load, and their trap is deferred (R327). That the poisoned
lane's DATA_POISON is deferred, alone and with log entry number 7, is the model's reading (log entry 50). -/
def Obligations.GlobalLoadPerform : Prop :=
  ∀ (s s1 : State) (p g n lane addr : Nat) (P : Plot) (G : Gang) (l : LoadOp) (loc : Loc) (pte : Nat),
    s.plot? p = some P → s.gang? p g = some G → P.away = false → G.loads.find? (fun l => l.id == n) = some l →
    assoc l.lanes lane = some addr → lane < 96 → G.gates l.seq addr l.size = true → l.fids = [] →
    G.allBuffered addr l.size = false →
    let s2 := s1.countAccess P.ctx addr (.die (P.core / 96))
    let page := l.lanes.filter fun e => e.2 / 65536 == addr / 65536 && !G.allBuffered e.2 l.size
    let denied (t : State) (code entry : Nat) (gone : Nat × Nat → Prop) (addr : Nat) (m : Mask) : Prop :=
      G.life = .running → ∃ G' : Gang, exec (.globalLoadPerform p g n lane) s = .next (t.setGang G') ∧
        Defers G G' ⟨code, n, entry, 0, BitVec.ofNat 64 addr, m, l.slot, l.pc, false⟩ ∧
        (∀ l' ∈ G'.loads, l'.id = n → ∀ e ∈ l'.lanes, e ∈ l.lanes ∧ ¬ gone e) ∧
        (∀ e ∈ l.lanes, ¬ gone e → ∃ l' ∈ G'.loads, l'.id = n ∧ e ∈ l'.lanes) ∧ ∀ l' ∈ G.loads, l'.id ≠ n → l' ∈ G'.loads
    let onPage (code : Nat) : Prop :=
      (∀ e ∈ l.lanes, e.1 < 96) → (l.lanes.map (·.1)).Nodup →
      denied s1 code (G.entryOf n) (fun e => e.2 / 65536 = addr / 65536 ∧ G.allBuffered e.2 l.size = false) ((page.map (·.2)).headD 0)
        (maskOf fun k => page.any fun e => e.1 == k)
    (s.lookup P.ctx addr .load .cores = (.absent, s1) → onPage 0x07) ∧
    (s.lookup P.ctx addr .load .cores = (.refuse, s1) → onPage 0x08) ∧
    (s.lookup P.ctx addr .load .cores = (.ok loc pte, s1) → s2.poisonedRead G loc addr l.size = true →
      denied s2 0x09 7 (fun e => e.1 = lane) addr (1 <<< lane)) ∧
    (s.lookup P.ctx addr .load .cores = (.ok loc pte, s1) → s2.poisonedRead G loc addr l.size = false →
    let bytes := (List.range l.size).map fun k => (G.buffered (addr + k)).getD ((s2.readLoc loc l.size).getD k 0)
    let left := l.lanes.filter fun e => e.1 != lane
    ∃ G' : Gang, exec (.globalLoadPerform p g n lane) s =
        .next (if left = [] then (s2.setGang G').sample P.core 2 (s2.ticks - l.at_) else s2.setGang G') ∧
      G'.sbuf = G.sbuf ∧ G'.pend = G.pend ∧ G'.atoms = G.atoms ∧
      (∀ l' ∈ G'.loads, l'.id = n → assoc l'.lanes lane = none) ∧ (∀ l' ∈ G.loads, l'.id ≠ n → l' ∈ G'.loads) ∧
      (∀ d, l.dest = .vec d → d.toNat < G.nv → G'.s = G.s ∧ (∀ k, k ≠ d.toNat → G'.vreg k = G.vreg k) ∧
        ∀ k < 96, laneAt (G'.vreg d.toNat) k = if k = lane then BitVec.ofNat 32 (natOf bytes) else laneAt (G.vreg d.toNat) k) ∧
      (∀ d S, l.dest = .scl d → G'.v = G.v ∧ (∀ k, k ≠ d → G'.rs S k = G.rs S k) ∧
        (d ≠ 0 → d.toNat < 61 → G'.rs S d = BitVec.ofNat 64 (natOf bytes))) ∧
      (∀ d, l.dest = .pair d → d.toNat + 1 < G.nv → G'.s = G.s ∧ (∀ k, k ≠ d.toNat → k ≠ d.toNat + 1 → G'.vreg k = G.vreg k) ∧
        ∀ k < 96,
          laneAt (G'.vreg d.toNat) k = (if k = lane then BitVec.ofNat 32 (natOf bytes) else laneAt (G.vreg d.toNat) k) ∧
          laneAt (G'.vreg (d.toNat + 1)) k =
            if k = lane then BitVec.ofNat 32 (natOf bytes / 2 ^ 32) else laneAt (G.vreg (d.toNat + 1)) k) ∧
      (∀ d, l.dest = .sclSh d → 56 ≤ d.toNat → d.toNat ≤ 60 → G'.v = G.v ∧ G'.s = G.s ∧
        ∀ k < 5, G'.shadow.toList.getD k 0 =
          if k = d.toNat - 56 then BitVec.ofNat 64 (natOf bytes) else G.shadow.toList.getD k 0))

/-- R165, R168, R170, R179 to R181: a global store buffers its lanes' bytes, changes no memory, and waits where a boundary is
pending, an LD.GM.ACQ is outstanding or the buffer has no room; the release store begins a boundary and keeps its lanes. -/
def Claim.GlobalStoresIssue : Prop :=
  ∀ (s : State) (x : Issuer) (g : Guard) (d : HReg) (m : MemRef) (w : Width), Ready s x → x.G.fencing x.sl = false →
    x.G.storing = false → CanIssue s x (m.idx.names ++ d.n.toNat :: w.regs d.n) (m.a.toNat :: m.idx.uses) →
    let act := x.G.active x.S g
    let lanes := x.stLanes g d m w
    let held : Prop := ∃ l ∈ x.G.loads, l.acq = true
    (act = 0 → (∃ t G', exec (.stGm g d m w) s = .next t ∧ WordDone s x m.off.len t G' ∧ RegsKept x G') ∧
      (∃ t G', exec (.stGmRel g d m w) s = .next t ∧ WordDone s x m.off.len t G' ∧ RegsKept x G')) ∧
    (act ≠ 0 → AllPass (gmChecks s.domain w.bytes false) act (x.gmAddr m) →
      (x.G.pend = none → ¬ held → (x.G.newLines lanes).length + x.G.sbuf.length ≤ 64 →
        ∃ G' : Gang, exec (.stGm g d m w) s = .next (s.setGang G') ∧ RegsKept x G' ∧
          GangDone s (x.set { x.G with sbuf := G'.sbuf }) m.off.len G' ∧
          (∀ a : Nat, (∀ k < 96, act.getLsbD k = true → (a : Int) < x.gmAddr m k ∨ x.gmAddr m k + w.bytes ≤ a) →
            G'.buffered a = x.G.buffered a) ∧
          (∀ k < 96, act.getLsbD k = true → ∀ j < w.bytes,
            (∀ k' < 96, k < k' → act.getLsbD k' = true →
              x.gmAddr m k + j < x.gmAddr m k' ∨ x.gmAddr m k' + w.bytes ≤ x.gmAddr m k + j) →
            G'.buffered ((x.gmAddr m k).toNat + j) = some (BitVec.ofNat 8 (x.stVal d w k / 256 ^ j)))) ∧
      (x.G.pend ≠ none ∨ held → ∃ G', exec (.stGm g d m w) s = .next (s.setGang G') ∧
        Blocks s x (.store false w.bytes m.off.len lanes) G') ∧
      (x.G.pend = none → ¬ held → 64 < (x.G.newLines lanes).length + x.G.sbuf.length → x.G.sbuf ≠ [] →
        ∃ G', exec (.stGm g d m w) s = .next ((s.sample x.P.core 8 1).setGang G') ∧
          Blocks s (x.set { x.G with pend := some ⟨.implicit, x.G.seq + 1⟩ }) (.store false w.bytes m.off.len lanes) G') ∧
      (∃ G', exec (.stGmRel g d m w) s = .next (s.setGang G') ∧
        Blocks s (x.set { x.G with pend := x.G.boundaryFrom .rel (x.G.seq + 1) }) (.store true w.bytes m.off.len lanes) G')) ∧
    (∀ ck i0, FirstBad (gmChecks s.domain w.bytes false) act (x.gmAddr m) ck i0 →
      Traps s x (.stGm g d m w) (badTrap ck act (x.gmAddr m) i0 7) ∧
      Traps s x (.stGmRel g d m w) (badTrap ck act (x.gmAddr m) i0 7))

/-- R168, R181: a drain writes exactly the valid bytes of one buffered line at its translated place, and the line leaves
the buffer; a release store's next lane is written whole at its place, and its slot goes on after the last. Watches of swapped
plots at the bytes written fire (R391). -/
def Obligations.BufferDrain : Prop :=
  ∀ (s s1 : State) (p g line : Nat) (P : Plot) (G : Gang) (pte a : Nat),
    s.plot? p = some P → s.gang? p g = some G → P.away = false →
    (∀ (b : Boundary) (l : BufLine), G.pend = some b → G.pastChimes b.seq = true →
      G.sbuf.find? (fun l => l.line == line) = some l → l.fid = none →
      s.lookup P.ctx (64 * line) .store .cores = (.ok (.hbm a) pte, s1) →
      ∃ st' : Store, exec (.bufferDrain p g line) s =
          .next (({ s1.countAccess P.ctx (64 * line) (.die (P.core / 96)) with hbm := st' }.setGang
            { G with sbuf := G.sbuf.filter fun l => l.line != line }).fireSome (.hbm a) l.bytes) ∧
        (∀ k, (∀ e ∈ l.bytes, k ≠ a + e.1) →
          st'.mem.read k = (s1.countAccess P.ctx (64 * line) (.die (P.core / 96))).hbm.mem.read k) ∧
        (∀ e ∈ l.bytes, (∀ e' ∈ l.bytes, e'.1 = e.1 → e' = e) → st'.mem.read (a + e.1) = e.2)) ∧
    (∀ (sl : SlotId) (S : PcSlot) (size len lane addr v : Nat) (rest : List (Nat × Nat × Nat)), G.pend = none →
      (∀ c ∈ G.chimes, c.rings = false) → (∀ l ∈ G.loads, l.acq = false) → G.slot sl = some S → S.wait = .store true size len ((lane, addr, v) :: rest) →
      (∀ S', G.slot (otherSlot sl) = some S' → ∀ z n ls, S'.wait ≠ .store true z n ls) → S.fid = none → addr / 64 = line →
      s.lookup P.ctx addr .store .cores = (.ok (.hbm a) pte, s1) →
      let s2 := s1.countAccess P.ctx addr (.die (P.core / 96))
      exec (.bufferDrain p g line) s = .next (({ s2 with hbm := s2.hbm.writeN a (leOf size v) }.setGang
        (G.setSlot sl (some (if rest = [] then S.skip len else { S with wait := .store true size len rest })))).fire (.hbm a) size))

/-- R171, R182, R183: PHASE begins a boundary after every earlier buffered store and goes on; with an empty buffer nothing
waits. FENCE.O only goes on. An acknowledgement ends the pending boundary once the buffer is empty. -/
def Claim.PhaseAndAcknowledge : Prop :=
  (∀ (s : State) (x : Issuer), Ready s x → CanIssue s x [] [] →
    (x.G.fencing x.sl = false → x.G.storing = false → ∃ G', exec .phase s = .next (s.setGang G') ∧ RegsKept x G' ∧
      GangDone s (x.set { x.G with pend := x.G.boundaryFrom .phase (x.G.seq + 1) }) 8 G') ∧
    (∃ t G', exec .fenceO s = .next t ∧ WordDone s x 8 t G' ∧ RegsKept x G')) ∧
  (∀ (s : State) (p g : Nat) (P : Plot) (G : Gang) (b : Boundary), s.plot? p = some P → s.gang? p g = some G →
    G.pend = some b →
    (G.sbuf ≠ [] → exec (.boundaryAcknowledge p g) s = .next s) ∧
    (G.sbuf = [] → b.kind ≠ .forced →
      (∀ sl S, G.slot sl = some S → (∀ r z n ls, S.wait ≠ .store r z n ls) ∧ ∀ n o ts, S.wait ≠ .fence n o ts) →
      exec (.boundaryAcknowledge p g) s = .next (s.setGang { G with pend := none })))

/-- R184: FENCE.R with no other gang to force and nothing buffered writes 0 and goes on; else its slot waits with its
targets; once its own boundary and every target's are acknowledged it writes their number and goes on. A target that has
nothing to publish and no load outstanding acknowledges at its forced point at once; another begins a forced boundary, which
holds the words that issue after it. A target inside a store is at no instruction boundary, and its forced point comes later. -/
def Claim.ReleaseFence : Prop :=
  (∀ (s : State) (x : Issuer) (d : SReg) (m : FenceSel), Ready s x → x.G.fencing x.sl = false → x.G.storing = false →
    CanIssue s x [] (d.toNat :: selUses m) →
    let T := s.fenceSet x m
    ((∀ n o ts, x.S.wait ≠ .fence n o ts) → x.G.pend = none → x.G.sbuf = [] → T = [] →
      ∃ t G', exec (.fenceR d m) s = .next t ∧ WordDone s x 8 t G' ∧ SclSet x d 0 G') ∧
    ((∀ n o ts, x.S.wait ≠ .fence n o ts) → (x.G.pend ≠ none ∨ x.G.sbuf ≠ [] ∨ T ≠ []) →
      let b := x.G.boundaryFrom .fenceOwn (x.G.seq + 1)
      ∃ G', exec (.fenceR d m) s = .next (s.setGang G') ∧
        Blocks s (x.set { x.G with pend := b }) (.fence T.length b.isSome (T.map fun k => (k, 0))) G') ∧
    (∀ n ts, x.S.wait = .fence n false ts → (∀ q ∈ ts, q.2 = 2) →
      ∃ t G', exec (.fenceR d m) s = .next t ∧ WordDone s x 8 t G' ∧ SclSet x d (BitVec.ofNat 64 n) G')) ∧
  (∀ (s : State) (p g : Nat) (G : Gang), s.gang? p g = some G → G.pend = none →
    s.forceDue (gangKey p g) = true →
    (G.storing = true → exec (.fenceRForcedPoint p g) s = .next s) ∧
    (G.storing = false → G.sbuf = [] → (∀ l ∈ G.loads, G.seq < l.seq) →
      exec (.fenceRForcedPoint p g) s = .next (s.fenceTargets (gangKey p g) 0 2)) ∧
    (G.storing = false → (G.sbuf ≠ [] ∨ ∃ l ∈ G.loads, l.seq ≤ G.seq) → exec (.fenceRForcedPoint p g) s =
      .next ((s.setGang { G with pend := some ⟨.forced, G.seq + 1⟩ }).fenceTargets (gangKey p g) 0 1)))

/-- R82: WAITC checks its address and waits; a recheck whose read meets the condition writes the value read and the slot
goes on past its word, and one whose read does not leaves it waiting. That the base is read unsigned is the model's choice
(log entry 44), and so is that the 12-byte form goes on at PC + 12, where R82's pseudocode has PC + 8 (log entry 45). -/
def Obligations.ConditionalWait : Prop :=
  let Waits (c : WaitcOps → Instr) (k : WaitCond) : Prop :=
    ∀ (s : State) (x : Issuer) (o : WaitcOps), Ready s x → x.G.fencing x.sl = false → x.G.storing = false →
      CanIssue s x [] [o.d.toNat, o.a.toNat, o.b.toNat] →
      let off : Int := match o.off with | .e10 e => e.toInt * 8 | .k32 k => k.toInt
      let len := match o.off with | .e10 _ => 8 | .k32 _ => 12
      let addr : Int := (x.G.rs x.S o.a).toNat + off
      (AllPass (gmChecks s.domain 8 false) 1 (fun _ => addr) →
        ∃ G', exec (c o) s = .next ((s.setGang G').settled x.P.id) ∧
          Blocks s x (.waitc s.ticks addr.toNat k (x.G.rs x.S o.b) o.d (x.G.seq + 1) len) G') ∧
      (∀ ck, FirstBad (gmChecks s.domain 8 false) 1 (fun _ => addr) ck 0 →
        Traps s x (c o) { badTrap ck 1 (fun _ => addr) 0 3 with lanes := 0 })
  Waits .waitcEq .eq ∧ Waits .waitcNe .ne ∧ Waits .waitcGe .ge ∧
  (∀ (s s1 : State) (p g : Nat) (sl : SlotId) (P : Plot) (G : Gang) (S : PcSlot) (since addr : Nat) (c : WaitCond) (v : Word64)
    (d : SReg) (seq len : Nat) (loc : Loc) (pte : Nat),
    s.plot? p = some P → s.gang? p g = some G → P.place = .resident → G.slot sl = some S →
    S.wait = .waitc since addr c v d seq len → S.fid = none → G.gates seq addr 8 = true → G.allBuffered addr 8 = false →
    s.lookup P.ctx addr .waitc .cores = (.ok loc pte, s1) →
    let s2 := s1.countAccess P.ctx addr (.die (P.core / 96))
    s2.poisonedLoc loc 8 = false →
    let w : Word64 := BitVec.ofNat 64 (natOf ((List.range 8).map fun k => (G.buffered (addr + k)).getD ((s2.readLoc loc 8).getD k 0)))
    let met : Prop := match c with | .eq => w = v | .ne => w ≠ v | .ge => v.toNat ≤ w.toNat
    ∃ G', exec (.waitcRecheck p g sl) s = .next (s2.setGang G') ∧ G'.v = G.v ∧ G'.p = G.p ∧
      (met → (∀ k, k ≠ d → G'.rs S k = G.rs S k) ∧ (d ≠ 0 → d.toNat < 61 → G'.rs S d = w) ∧
        (G'.slot sl).map (fun S => (S.pc, S.mask, S.wait)) = some (S.pc + BitVec.ofNat 64 len, S.mask, .none)) ∧
      (¬ met → G'.s = G.s ∧ (G'.slot sl).map (fun S => (S.pc, S.mask, S.wait)) = some (S.pc, S.mask, S.wait)))

/-- R163 to R170, R181: what the issue of a global load and of a global store does. -/
def Obligations.GlobalAccessesIssue : Prop := Claim.GlobalLoadsIssue ∧ Claim.GlobalStoresIssue

/-- R171, R182 to R184: PHASE, FENCE.O, FENCE.R and the acknowledgement of a boundary. -/
def Obligations.PhasesAndFences : Prop := Claim.PhaseAndAcknowledge ∧ Claim.ReleaseFence

/-! ### Range A: branches, moves, JOIN, barriers, exits (R64 to R87) -/

/-- R65, R77: the branch family keeps, moves, splits or pushes, with the taken lanes of each variant; a bad target and a
full stack trap before anything changes. -/
def Obligations.BranchWords : Prop :=
  let Branches (i : BitVec 26 → Instr) (ss : List Nat) (taken : Issuer → Mask) : Prop :=
    ∀ (s : State) (x : Issuer) (k : BitVec 26), Ready s x → CanIssue s x [] ss →
      let tgt := x.S.pc + BitVec.ofInt 64 (4 * k.toInt)
      let T := taken x
      let N := x.S.mask &&& ~~~ T
      let rel : Int := ((tgt.toNat : Int) - x.P.entry.toNat) / 4
      let fits := -2 ^ 31 ≤ rel ∧ rel ≤ 2 ^ 31 - 1
      if tgt.toNat % 64 ≠ 0 then BadTarget s x (i k) tgt
      else if T = 0 then Moves (i k) s x (some (x.S.pc + 8, x.S.mask, .none)) x.other
      else if N = 0 then Moves (i k) s x (some (tgt, x.S.mask, x.S.wait)) x.other
      else if x.G.slot (otherSlot x.sl) = none then
        Moves (i k) s x (some (x.S.pc + 8, N, .none)) (some (tgt, T, .none))
      else if 64 ≤ x.G.depth then Traps s x (i k) { code := 0x0D }
      else if ¬ fits then Traps s x (i k) { code := 0x0D, info := 1 }
      else ∃ (st' : Store) (G' : Gang), exec (i k) s = .next ((s.setPlot { x.P with bower := st' }).setGang G') ∧
        SlotsEnd s (x.set { x.G with depth := x.G.depth + 1 }) (some (x.S.pc + 8, N, .none)) x.other G' ∧
        let at_ := x.P.tmpl.l1s - 1024 * (x.G.idx + 1) + 16 * x.G.depth
        st'.nat at_ 12 = T.toNat ∧ signed 32 (st'.nat (at_ + 12) 4) = rel ∧
        ∀ a, a < at_ ∨ at_ + 16 ≤ a → st'.mem.read a = x.P.bower.mem.read a
  let whole (x : Issuer) (b : Bool) : Mask := if b then x.S.mask else 0
  Branches .bra [] (fun x => x.S.mask) ∧
  (∀ g, Branches (.brc g) [] (fun x => x.G.active x.S g) ∧
    Branches (.brcAny g) [] (fun x => whole x (decide (x.G.active x.S g ≠ 0))) ∧
    Branches (.brcAll g) [] (fun x => whole x (decide (x.G.active x.S g = x.S.mask)))) ∧
  (∀ a, Branches (.brsZ a) [a.toNat] (fun x => whole x (decide (x.G.rs x.S a = 0))) ∧
    Branches (.brsNz a) [a.toNat] (fun x => whole x (decide (x.G.rs x.S a ≠ 0))))

/-- R76, R78, R81, R87: NOP only advances; BRX, CALL, CALLX and RET move the whole slot, with the link written after the
target is read; SLEEP waits until its cycle, and 0 cycles cost the issue; YIELD changes only the gang's age. -/
def Obligations.SlotMoves : Prop :=
  (∀ (s : State) (x : Issuer) (len : Len) (g : Guard), Ready s x → CanIssue s x [] [] →
    Moves (.nop len g) s x (some (x.S.pc + BitVec.ofNat 64 len.bytes, x.S.mask, .none)) x.other) ∧
  (∀ (s : State) (x : Issuer) (a : SReg), Ready s x → CanIssue s x [] [a.toNat] →
    let tgt := x.G.rs x.S a
    (if tgt.toNat % 64 = 0 then Moves (.brx a) s x (some (tgt, x.S.mask, x.S.wait)) x.other
      else BadTarget s x (.brx a) tgt) ∧
    (if tgt.toNat % 4 = 0 then Moves (.ret a) s x (some (tgt, x.S.mask, x.S.wait)) x.other
      else BadTarget s x (.ret a) tgt)) ∧
  (let Links (i : Instr) (s : State) (x : Issuer) (d : SReg) (tgt : Word64) : Prop :=
    if tgt.toNat % 64 = 0 then ∃ G', exec i s = .next (s.setGang G') ∧ OnlyRegs s x G' ∧ SclSet x d (x.S.pc + 8) G' ∧
      slotView (G'.slot x.sl) = some (tgt, x.S.mask, x.S.wait) ∧ slotView (G'.slot (otherSlot x.sl)) = x.other
    else BadTarget s x i tgt
  (∀ (s : State) (x : Issuer) (d : SReg) (k : BitVec 26), Ready s x → CanIssue s x [] [d.toNat] →
    Links (.call d k) s x d (x.S.pc + BitVec.ofInt 64 (4 * k.toInt))) ∧
  (∀ (s : State) (x : Issuer) (d a : SReg), Ready s x → CanIssue s x [] [d.toNat, a.toNat] →
    Links (.callx d a) s x d (x.G.rs x.S a))) ∧
  (∀ (s : State) (x : Issuer) (k : BitVec 26), Ready s x → CanIssue s x [] [] →
    (k = 0 → Moves (.sleep k) s x (some (x.S.pc + 8, x.S.mask, .none)) x.other) ∧
    (k ≠ 0 → ∃ G', exec (.sleep k) s = .next ((s.setGang G').settled x.P.id) ∧
      SlotsEnd s x (some (x.S.pc, x.S.mask, .sleep (s.ticks + k.toNat))) x.other G')) ∧
  (∀ (s : State) (x : Issuer), Ready s x → CanIssue s x [] [] → ∃ G', exec .yield s = .next (s.setGang G') ∧
    G'.lastIssue = some (s.ticks + 1) ∧
    SlotsEnd s x (some (x.S.pc + 8, x.S.mask, .none)) x.other { G' with lastIssue := some s.ticks }) ∧
  (∀ (s : State) (p g : Nat) (sl : SlotId) (P : Plot) (G : Gang) (S : PcSlot) (t : Nat), s.plot? p = some P →
    s.gang? p g = some G → P.place = .resident → G.slot sl = some S → S.wait = .sleep t →
    exec (.sleepExpire p g sl) s =
      .next (if t ≤ s.ticks then s.setGang (G.setSlot sl (some { S with pc := S.pc + 8, wait := .none, swap := false, fid := none }))
        else s))

/-- R64, R66, R67, R79: JOIN goes on with the other slot free, and else waits; two slots at one JOIN merge into the one
that came later, and the other pops; at different JOINs the earlier one changes places with the top entry, and pops again where that
entry has no lane left, or goes on at the base. That a JOIN address out of PCREL's reach is written modulo 2^32 is log 102's choice. -/
def Obligations.JoinRules : Prop :=
  (∀ (s : State) (x : Issuer), Ready s x → CanIssue s x [] [] →
    if x.G.slot (otherSlot x.sl) = none then Moves .join s x (some (x.S.pc + 8, x.S.mask, .none)) x.other
    else Moves .join s x (some (x.S.pc, x.S.mask, .join (x.G.seq + 1))) x.other) ∧
  (∀ (s : State) (p g : Nat) (P : Plot) (G : Gang) (sl : SlotId) (S : PcSlot) (n : Nat), s.plot? p = some P →
    s.gang? p g = some G → P.place = .resident → P.id = p → G.plot = p → G.idx = g → G.slot sl = some S → S.wait = .join n →
    (G.slot (otherSlot sl) = none → ∃ G', exec (.joinResolve p g) s = .next (((s.setPlot P).setGang G').settled p) ∧
      slotView (G'.slot sl) = some (S.pc + 8, S.mask, .none) ∧ G'.slot (otherSlot sl) = none ∧ G'.depth = G.depth) ∧
    (∀ (S' : PcSlot) (n' : Nat), G.slot (otherSlot sl) = some S' → S'.wait = .join n' → n < n' →
      let at_ := P.tmpl.l1s - 1024 * (g + 1) + 16 * (G.depth - 1)
      let top : Word64 × Mask := (P.entry + BitVec.ofInt 64 (4 * signed 32 (P.bower.nat (at_ + 12) 4)),
        BitVec.ofNat 96 (P.bower.nat at_ 12) &&& ~~~ G.exited)
      (S.pc = S'.pc → G.depth ≤ 64 → ∀ own d, Pops P g G.exited G.base G.depth own d →
        ∃ G', exec (.joinResolve p g) s = .next (((s.setPlot P).setGang G').settled p) ∧
          slotView (G'.slot (otherSlot sl)) = some (S.pc + 8, S.mask ||| S'.mask, .none) ∧
          slotView (G'.slot sl) = own ∧ G'.depth = d) ∧
      (S.pc ≠ S'.pc → G.base < G.depth → G.depth ≤ 64 → ∃ (st' : Store) (G' : Gang),
        exec (.joinResolve p g) s = .next (((s.setPlot { P with bower := st' }).setGang G').settled p) ∧
        st'.nat at_ 12 = S.mask.toNat ∧
        st'.nat (at_ + 12) 4 = (BitVec.ofInt 32 (((S.pc.toNat : Int) - P.entry.toNat) / 4)).toNat ∧
        (∀ a, a < at_ ∨ at_ + 16 ≤ a → st'.mem.read a = P.bower.mem.read a) ∧
        slotView (G'.slot (otherSlot sl)) = some (S'.pc, S'.mask, S'.wait) ∧
        (top.2 ≠ 0 → slotView (G'.slot sl) = some (top.1, top.2, .none) ∧ G'.depth = G.depth) ∧
        (top.2 = 0 → Pops { P with bower := st' } g G.exited G.base G.depth (slotView (G'.slot sl)) G'.depth)) ∧
      (S.pc ≠ S'.pc → G.depth ≤ G.base → ∃ G', exec (.joinResolve p g) s = .next (((s.setPlot P).setGang G').settled p) ∧
        slotView (G'.slot sl) = some (S.pc + 8, S.mask, .none) ∧
        slotView (G'.slot (otherSlot sl)) = some (S'.pc, S'.mask, S'.wait) ∧ G'.depth = G.depth)))

/-- R83 to R86: the barrier words make their checks in order; an arrival that others still miss waits (BARARR goes on with
an open arrival); the last arrival ends the generation, and every member goes on with its result. -/
def Obligations.BarrierWords : Prop :=
  let pays (gen : List Arrival) (n : Nat) : List Word64 :=
    (List.range n).filterMap fun g => (gen.find? fun a => a.gang == g).map (·.payload)
  let fold (l : List Word64) : Word64 :=
    match l with
    | [] => 0
    | v :: vs =>
      let start : Word := if nanBits (v.setWidth 32) then 0x7FC00000 else v.setWidth 32
      (vs.foldl (fun (acc : Word) w =>
        w32 (f32.pack .rn (sumExact .rn [f32.unpack acc.toNat, f32.unpack (w.toNat % 2 ^ 32)]))) start).setWidth 64
  let sum (l : List Word64) : Word64 := BitVec.ofNat 64 ((l.map (·.toNat)).sum)
  -- what a member's sD receives, from all the payloads and those of lower gangs
  let Res (op : Nat) (all below : List Word64) (v : Word64) : Prop :=
    (op = 0x17 → v = sum all) ∧ (op = 0x18 → v ∈ all ∧ ∀ w ∈ all, v.toInt ≤ w.toInt) ∧
    (op = 0x19 → v ∈ all ∧ ∀ w ∈ all, w.toInt ≤ v.toInt) ∧
    (op = 0x1A → ∀ k < 64, v.getLsbD k = all.all fun w => w.getLsbD k) ∧
    (op = 0x1B → ∀ k < 64, v.getLsbD k = all.any fun w => w.getLsbD k) ∧
    (op = 0x1C → v = fold all) ∧ (op = 0x1D → v = sum below) ∧ (op = 0x1E → v = fold below)
  -- what completion leaves of a member that stood at the barrier
  let Goes (c : Nat) (gen : List Arrival) (a : Arrival) (G G' : Gang) : Prop :=
    ∃ v, Res a.op (pays gen 16) (pays gen a.gang) v ∧ G'.v = G.v ∧ G'.p = G.p ∧
      (∀ S k, some k ≠ a.dest → G'.rs S k = G.rs S k) ∧
      (∀ S d, a.dest = some d → d ≠ 0 → d.toNat < 61 → G'.rs S d = v) ∧
      (a.blocks = true → ∀ sl S, G.slot sl = some S → S.wait = .bar c →
        slotView (G'.slot sl) = some (S.pc + 8, S.mask, .none)) ∧
      (a.blocks = false → (c, false) ∈ G.open_ → (∀ sl S, G.slot sl = some S → S.wait ≠ .bar c) →
        (c, true) ∈ G'.open_)
  let Arrives (i : BitVec 6 → Instr) (op : Nat) (pay : Option (SReg × SReg)) (uses : List Nat) : Prop :=
    ∀ (s : State) (x : Issuer) (c : BitVec 6), Ready s x → CanIssue s x [] uses → x.P.id = x.G.plot → x.G.idx < 16 →
      let bad (n : Nat) : Prop := Traps s x (i c) { code := 0x16, info := BitVec.ofNat 64 n }
      match x.P.circle? c.toNat with
      | none => bad 1
      | some C =>
        if C.members.getLsbD x.G.idx = false then bad 1
        else if x.G.slot (otherSlot x.sl) ≠ none ∨ x.G.base < x.G.depth then bad 2
        else if c.toNat ∈ x.G.open_.map (·.1) then bad 3
        else if (C.gen.head?.map (·.op)).getD op ≠ op then bad 4
        else
          let mine : Arrival := ⟨x.G.idx, op, (pay.map fun q => x.G.rs x.S q.2).getD 0, pay.map (·.1), decide (op ≠ 0x15)⟩
          let circles (gen : List Arrival) := x.P.circles.map fun y => if y.id = c.toNat then { y with gen := gen } else y
          let all := C.gen ++ [mine]
          -- the arriving gang itself
          let Own (G' : Gang) : Prop :=
            if op = 0x15 then SlotsEnd s (x.set { x.G with open_ := x.G.open_ ++ [(c.toNat, false)] })
              (some (x.S.pc + 8, x.S.mask, .none)) none G'
            else SlotsEnd s x (some (x.S.pc, x.S.mask, .bar c.toNat)) none G'
          ((∃ g < 16, C.members.getLsbD g = true ∧ ∀ a ∈ all, a.gang ≠ g) → (∀ y ∈ x.P.circles, y.id = c.toNat → y = C) →
            ∃ G', exec (i c) s = .next (((s.setPlot { x.P with circles := circles all }).setGang G').settled x.P.id) ∧ Own G') ∧
          ((∀ g < 16, C.members.getLsbD g = true → ∃ a ∈ all, a.gang = g) → (all.map (·.gang)).Nodup →
            (∀ a ∈ all, a.gang < 16) → (∀ y ∈ x.P.circles, y.id = c.toNat → y = C) →
            (∀ a ∈ all, ∀ G, s.gang? x.P.id a.gang = some G → G.plot = x.P.id ∧ G.idx = a.gang) →
            ∃ t : State, exec (i c) s = .next (t.settled x.P.id) ∧ t.plot? x.P.id = some { x.P with circles := circles [] } ∧
              (∃ G' Gt, Own G' ∧ t.gang? x.P.id x.G.idx = some Gt ∧ Goes c.toNat all mine G' Gt) ∧
              ∀ a ∈ C.gen, ∀ G, s.gang? x.P.id a.gang = some G →
                ∃ Gt, t.gang? x.P.id a.gang = some Gt ∧ Goes c.toNat all a G Gt)
  Arrives .bar 0x13 none [] ∧ Arrives .bararr 0x15 none [] ∧
  (∀ d a : SReg, let F (i : SReg → SReg → BitVec 6 → Instr) (op : Nat) := Arrives (i d a) op (some (d, a)) [d.toNat, a.toNat]
    F .barredAdd 0x17 ∧ F .barredMin 0x18 ∧ F .barredMax 0x19 ∧ F .barredAnd 0x1A ∧ F .barredOr 0x1B ∧ F .barredFadd 0x1C ∧
    F .barscanAdd 0x1D ∧ F .barscanFadd 0x1E)

/-- R83, R84: BAR.PH waits for its boundary and then arrives, or traps, against the generation of that moment, and the last
member's arrival lets every member go on; BARWAIT closes a completed arrival, waits for an open one, and is misused without one.
That BARWAIT makes checks 1 to 3 only is log entry 42. -/
def Obligations.PhaseBarrierAndWait : Prop :=
  (∀ (s : State) (x : Issuer) (c : BitVec 6) (C : Machine.Circle), Ready s x → CanIssue s x [] [] → x.P.circle? c.toNat = some C →
    C.members.getLsbD x.G.idx = true → x.G.slot (otherSlot x.sl) = none → x.G.depth ≤ x.G.base →
    Moves (.barPh c) s (x.set { x.G with pend := x.G.boundaryFrom .barPh (x.G.seq + 1) })
      (some (x.S.pc, x.S.mask, .barPh c.toNat)) none ∧
    ((∀ b, (c.toNat, b) ∉ x.G.open_) → Traps s x (.barwait c) { code := 0x16, info := 3 }) ∧
    (x.G.open_.find? (fun o => o.1 == c.toNat) = some (c.toNat, true) →
      Moves (.barwait c) s (x.set { x.G with open_ := x.G.open_.filter fun o => o.1 != c.toNat })
        (some (x.S.pc + 8, x.S.mask, .none)) none) ∧
    (x.G.open_.find? (fun o => o.1 == c.toNat) = some (c.toNat, false) → ∀ a rest, C.gen = a :: rest →
      (a.op ≠ 0x15 → Traps s x (.barwait c) { code := 0x16, info := 4 }) ∧
      (a.op = 0x15 → ∃ G', exec (.barwait c) s = .next ((s.setGang G').settled x.P.id) ∧
        SlotsEnd s x (some (x.S.pc, x.S.mask, .bar c.toNat)) none G'))) ∧
  (∀ (s : State) (x : Issuer) (c : BitVec 6), Ready s x → CanIssue s x [] [] →
    let bad (n : Nat) : Prop := Traps s x (.barPh c) { code := 0x16, info := BitVec.ofNat 64 n } ∧
      Traps s x (.barwait c) { code := 0x16, info := BitVec.ofNat 64 n }
    (x.P.circle? c.toNat = none → bad 1) ∧
    ∀ C, x.P.circle? c.toNat = some C →
      (C.members.getLsbD x.G.idx = false → bad 1) ∧
      (C.members.getLsbD x.G.idx = true → (x.G.slot (otherSlot x.sl) ≠ none ∨ x.G.base < x.G.depth) → bad 2)) ∧
  (∀ (s : State) (p g : Nat) (P : Plot) (G : Gang) (S : PcSlot) (c : Nat) (C : Machine.Circle), s.plot? p = some P →
    s.gang? p g = some G → P.place = .resident → P.id = p → G.plot = p → G.idx = g → G.a = some S → G.b = none →
    S.wait = .barPh c → P.circle? c = some C → (∀ y ∈ P.circles, y.id = c → y = C) →
    (G.pend ≠ none → exec (.barPhArrival p g) s = .next s) ∧
    (G.pend = none → (∃ b, (c, b) ∈ G.open_) →
      exec (.barPhArrival p g) s = .next (s.trap P G .A S { code := 0x16, info := 3 })) ∧
    (G.pend = none → (∀ b, (c, b) ∉ G.open_) → ∀ a rest, C.gen = a :: rest → a.op ≠ 0x14 →
      exec (.barPhArrival p g) s = .next (s.trap P G .A S { code := 0x16, info := 4 })) ∧
    (G.pend = none → (∀ b, (c, b) ∉ G.open_) → (∀ a rest, C.gen = a :: rest → a.op = 0x14) →
      (∃ m < 16, C.members.getLsbD m = true ∧ m ≠ g ∧ ∀ a ∈ C.gen, a.gang ≠ m) →
      exec (.barPhArrival p g) s = .next (((s.setPlot { P with circles := P.circles.map fun y =>
        if y.id = c then { y with gen := C.gen ++ [⟨g, 0x14, 0, none, true⟩] } else y }).setGang
        { G with a := some { S with wait := .bar c } }).settled p)) ∧
    (G.pend = none → (∀ b, (c, b) ∉ G.open_) → C.members.getLsbD g = true →
      (∀ a ∈ C.gen, a.op = 0x14 ∧ a.dest = none ∧ a.blocks = true ∧ a.gang ≠ g) →
      (∀ m < 16, C.members.getLsbD m = true → m ≠ g → ∃ a ∈ C.gen, a.gang = m) → g < 16 →
      (∀ m < 16, ∀ Gm, s.gang? p m = some Gm → Gm.plot = p ∧ Gm.idx = m) →
      ∃ t : State, exec (.barPhArrival p g) s = .next (t.settled p) ∧
        t.plot? p = some { P with circles := P.circles.map fun y => if y.id = c then { y with gen := [] } else y } ∧
        ∀ m < 16, C.members.getLsbD m = true → ∀ Gm Sm, s.gang? p m = some Gm → Gm.a = some Sm → Gm.b = none →
          m = g ∨ Sm.wait = .bar c → ∃ G', t.gang? p m = some G' ∧ G'.v = Gm.v ∧ G'.s = Gm.s ∧ G'.p = Gm.p ∧
            slotView G'.a = some (Sm.pc + 8, Sm.mask, .none) ∧ G'.b = none))

/-! ### Exits, retirement, traps and returns, and the steps of waiting slots (R68 to R74, R80, R99, R337, R342 to R351) -/

/-- R64, R67, R68, R70, R72, R80: an exit ends its active lanes; a slot without lanes becomes free and pops; the gang's last exit
starts its drain and leaves its circles. EXIT.D and EXIT.H make their checks first and arm only when a lane exits. That EXIT.D
reads its base as unsigned is log entry 44. -/
def Obligations.ExitWords : Prop :=
  let Exits (i : Instr) (s : State) (x : Issuer) (g : Guard) (arm : Gang → Gang) : Prop :=
    let act := x.G.active x.S g
    let m := x.S.mask &&& ~~~ act
    let G1 : Gang := { (if act = 0 then x.G else arm x.G) with exited := x.G.exited ||| act }
    let Pops (own : Option (Word64 × Mask × Wait)) (d : Nat) : Prop := Pops x.P x.G.idx G1.exited x.G.base x.G.depth own d
    let Ends (G : Gang) (own : Option (Word64 × Mask × Wait)) : Prop :=
      ∃ G', exec i s = .next ((s.setGang G').settled x.P.id) ∧ SlotsEnd s (x.set G) own x.other G'
    (m ≠ 0 → Ends G1 (some (x.S.pc + 8, m, .none))) ∧
    (m = 0 → act ≠ 0 → x.G.depth ≤ 64 → ∀ own d, Pops own d → (own ≠ none ∨ x.other ≠ none) → Ends { G1 with depth := d } own) ∧
    (m = 0 → act ≠ 0 → x.G.depth ≤ 64 → Pops none 0 → x.other = none → x.P.id = x.G.plot →
      ∃ (t : State) (G' : Gang), exec i s = .next (t.settled x.P.id) ∧ t.gang? x.G.plot x.G.idx = some G' ∧
        G'.life = .draining ∧ G'.a = none ∧ G'.b = none ∧ G'.frames = [] ∧ G'.exited = G1.exited ∧
        G'.armed = G1.armed ∧ G'.handoff = G1.handoff ∧ G'.v = x.G.v ∧ G'.pend = x.G.boundaryFrom .exit (x.G.seq + 1) ∧
        ∀ P', t.plot? x.P.id = some P' → (∀ C ∈ P'.circles, C.members.getLsbD x.G.idx = false ∨ 16 ≤ x.G.idx) ∧
          (x.P.handler = x.G.idx → P'.target = none))
  (∀ (s : State) (x : Issuer) (g : Guard), Ready s x → CanIssue s x [] [] → Exits (.exit g) s x g id) ∧
  (∀ (s : State) (x : Issuer) (g : Guard) (a : SReg) (e : BitVec 10), Ready s x → CanIssue s x [] [a.toNat] →
    let addr : Int := (x.G.rs x.S a).toNat + e.toInt * 8
    (AllPass (gmChecks s.domain 8 false) 1 (fun _ => addr) →
      Exits (.exitD g a e) s x g fun G => { G with armed := some (BitVec.ofInt 64 addr), decPc := x.S.pc, decSlot := x.sl }) ∧
    (∀ ck, FirstBad (gmChecks s.domain 8 false) 1 (fun _ => addr) ck 0 →
      Traps s x (.exitD g a e) { badTrap ck 1 (fun _ => addr) 0 7 with lanes := 0 })) ∧
  (∀ (s : State) (x : Issuer) (g : Guard) (a : SReg), Ready s x → CanIssue s x [] [a.toNat] →
    let e := x.G.rs x.S a
    if x.P.tmpl.handoff = false then Traps s x (.exitH g a) { code := 0x15, info := 0x00E }
    else if e.toNat % 64 ≠ 0 then BadTarget s x (.exitH g a) e
    else Exits (.exitH g a) s x g fun G => { G with handoff := some e })

/-- R69 to R72: a gang that has drained performs its armed decrement and then returns its registers; with the last gang the
plot retires, or restarts at the successor entry with what it holds kept in place. -/
def Obligations.DrainAndRetirement : Prop :=
  ∀ (s : State) (p g : Nat) (P : Plot) (G : Gang), s.plot? p = some P → s.gang? p g = some G → P.place = .resident →
    P.id = p → G.plot = p → G.idx = g → g < 16 →
    let quiet : Prop := G.engCp = [] ∧ G.engGs = [] ∧ G.engCl = [] ∧ G.engEv = [] ∧ G.loads = [] ∧ G.atoms = [] ∧
      G.sbuf = [] ∧ G.pend = none ∧ G.chimes = [] ∧ ∀ e ∈ (s.core P.core).sfq, e.gang ≠ gangKey p g
    let Others (s : State) (l : Life → Prop) : Prop := ∀ k < 16, ∀ G', k ≠ g → s.gang? p k = some G' → l G'.life
    let P1 : Plot := if P.tmpl.handoff then { P with reserve := P.reserve + G.nv } else { P with budget := P.budget - G.nv }
    (G.life = .draining → ¬ quiet → exec (.gangDrainComplete p g) s = .next s) ∧
    (G.life = .draining → quiet → G.armed ≠ none →
      exec (.gangDrainComplete p g) s = .next (s.setGang { G with life := .drained, defer := [] })) ∧
    (G.life = .draining → quiet → G.armed = none → ¬ Others s (· = .returned) →
      exec (.gangDrainComplete p g) s = .next (((s.setPlot P1).setGang
        { G with v := [], life := .returned, defer := [], latchA := none, latchB := none, latchC := none }).settled p)) ∧
    (G.life = .draining → quiet → G.armed = none → Others s (· = .returned) → G.handoff = none →
      (∀ k < 16, ∀ G', s.gang? p k = some G' → G'.plot = p ∧ G'.handoff = none) → (s.plots.map (·.1)).Nodup → (s.gangs.map (·.1)).Nodup →
      ∃ t, exec (.gangDrainComplete p g) s = .next t ∧ t.plot? p = none ∧ ∀ k < 16, t.gang? p k = none) ∧
    (∀ e, G.life = .draining → quiet → G.armed = none → Others s (· = .returned) → P.tmpl.gangs ≤ 16 →
      ((List.range 16).filterMap fun k => (s.gang? p k).bind (·.handoff)).head? = some e →
      ∃ t P', exec (.gangDrainComplete p g) s = .next t ∧ t.plot? p = some P' ∧ P'.entry = e ∧ P'.bower = P.bower ∧
        P'.tiles = P.tiles ∧ P'.pav = P.pav ∧ P'.cons = P.cons ∧ P'.budget = P1.budget ∧ P'.lid = P.lid ∧
        P'.reserve = P1.budget - P.tmpl.gangs * P.tmpl.vregs ∧ P'.target = none ∧ P'.claims = [] ∧
        P'.stream = SeqStream.idle ∧
        ∀ k < P.tmpl.gangs, ∃ G', t.gang? p k = some G' ∧ slotView G'.a = some (e, BitVec.allOnes 96, .none) ∧
          G'.b = none ∧ G'.depth = 0 ∧ G'.exited = 0 ∧ G'.life = .running ∧ G'.p = Vector.replicate 8 0 ∧
          G'.v = List.replicate P.tmpl.vregs (Vector.replicate 96 0) ∧ G'.rs (PcSlot.fresh e 0) 1 = BitVec.ofNat 64 k ∧
          G'.rs (PcSlot.fresh e 0) 2 = BitVec.ofNat 64 P.tmpl.gangs ∧ G'.rs (PcSlot.fresh e 0) 3 = BitVec.ofNat 64 P.tmpl.l1s ∧
          G'.rs (PcSlot.fresh e 0) 4 = BitVec.ofNat 64 P.lid ∧ G'.rs (PcSlot.fresh e 0) 5 = P.ats) ∧
    (∀ (w : Word64) (s1 : State) (a pte : Nat), G.life = .drained → G.armed = some w → G.decFid = none →
      s.lookup P.ctx w.toNat .decrement .cores = (.ok (.hbm a) pte, s1) →
      let s2 := s1.countAccess P.ctx w.toNat (.die (P.core / 96))
      s2.poisonedLoc (.hbm a) 8 = false → ¬ Others s2 (· = .returned) →
      ∃ log, exec (.armedDecrement p g) s = .next ((((({ s2 with
          hbm := s2.hbm.writeN a (leOf 8 (s2.hbm.nat a 8 + (2 ^ 64 - 1))) } : State).setPlot P1).setGang
        { G with armed := none, v := [], life := .returned, latchA := none, latchB := none, latchC := none,
                 oplog := log }).settled p).fire (.hbm a) 8))

/-- R74, R89, R96, R343 to R347, R350, R407: a trap saves both slots, writes the trap state, exchanges s56 to s60 and runs the handler;
a slot that waits is saved at its word, a sleep is over, a JOIN waits on. A result that is outstanding goes to the copy that it was
issued for. A trap without a handler entry, or inside a trap handler, suspends the plot. TRAP resumes past its word. -/
def Obligations.TrapEntry : Prop :=
  (∀ (s : State) (x : Issuer) (k : BitVec 26), Ready s x → CanIssue s x [] [] →
    Traps s x (.trap k) { code := 0x14, info := BitVec.ofNat 64 k.toNat }) ∧
  (∀ (s : State) (P : Plot) (G : Gang) (sl : SlotId) (S : PcSlot) (t : TrapInfo), G.slot sl = some S → S.wait = .none →
    let past := t.code = 0x14 ∨ t.code = 0x0F
    let cause : Nat := t.code + 256 * (if sl = .B then 1 else 0) + (if t.half then 512 else 0) +
      (if ∃ f ∈ G.frames, f.kind = .chime then 1024 else 0) + (if past then 2048 else 0)
    let saved (k : SlotId) : Option (Word64 × Mask × Wait) := (G.slot k).map fun S =>
      if k = sl then (if past then S.pc + 8 else S.pc, S.mask, .none)
      else match S.wait with
        | .join n => (S.pc, S.mask, .join n)
        | .sleep _ => (S.pc + 8, S.mask, .none)
        | _ => (S.pc, S.mask, .none)
    let pcOf (k : SlotId) : Word64 := ((saved k).map (·.1)).getD 0
    let Recorded (G' : Gang) : Prop := G'.tcause = BitVec.ofNat 64 cause ∧ G'.tinfo = t.info ∧ G'.taddr = t.addr ∧
      G'.tlane0 = t.lanes.extractLsb' 0 64 ∧ G'.tlane1 = (t.lanes.extractLsb' 64 32).setWidth 64
    if (∃ f ∈ G.frames, f.kind = .trap) ∨ G.tentry = 0 then
      ∃ G' P', s.trap P G sl S t = (s.setPlot P').setGang G' ∧ Recorded G' ∧ G'.a = G.a ∧ G'.b = G.b ∧ G'.s = G.s ∧
        G'.v = G.v ∧ G'.p = G.p ∧ P'.suspended = true ∧ P'.runnable = false ∧
        P'.trapper = (if P.suspended = true ∧ P.trapper ≠ none then P.trapper
          else some (G.idx, decide (∃ f ∈ G.frames, f.kind = .trap))) ∧
        (P.place = .resident → P'.place = .halted) ∧ P'.bower = P.bower
    else
      ∃ G', s.trap P G sl S t =
          ((s.setPlot { P with claims := P.claims.filter fun c => c.gang != G.idx }).setGang G').settled P.id ∧
        Recorded G' ∧ G'.tpca = pcOf .A ∧ G'.tpcb = pcOf .B ∧
        slotView G'.a = some (G.tentry, ~~~ G.exited, .none) ∧ G'.b = none ∧ G'.base = G.depth ∧ G'.depth = G.depth ∧
        (∃ f, G'.frames = f :: G.frames ∧ f.kind = .trap ∧ f.base = G.base ∧
          slotView f.a = saved .A ∧ slotView f.b = saved .B) ∧
        G'.s = ((((G.s.set 56 (BitVec.ofNat 64 cause)).set 57 t.info).set 58 t.addr).set 59 S.pc).set 60 G.shadow[4] ∧
        G'.shadow = #v[G.s[56], G.s[57], G.s[58], G.s[59], G.s[60]] ∧ G'.v = G.v ∧ G'.p = G.p ∧
        (∀ l ∈ G.loads, ∀ r, l.dest = .scl r → 56 ≤ r.toNat → r.toNat ≤ 60 → { l with dest := .sclSh r } ∈ G'.loads) ∧
        G'.latchA = none ∧ G'.latchB = none ∧ G'.latchC = none ∧ G'.pend = G.boundaryFrom .trap (G.seq + 1))

/-- R74, R316, R351: TRET and CHRET return from the innermost handler of their kind: the saved base, slots and masks come
back with the saved-PC registers, and s56 to s60 are exchanged again. Elsewhere they are illegal. -/
def Obligations.HandlerReturns : Prop :=
  let Returns (i : Instr) (kind : Handler) (pca pcb : Gang → Word64) : Prop :=
    ∀ (s : State) (x : Issuer), Ready s x → CanIssue s x [] [] →
      ((∀ f rest, x.G.frames = f :: rest → f.kind ≠ kind) → Traps s x i { code := 0x01, info := 1, addr := x.S.pc }) ∧
      ∀ f rest, x.G.frames = f :: rest → f.kind = kind →
        let live (o : Option PcSlot) : Prop := ∀ S, o = some S → S.mask &&& ~~~ x.G.exited ≠ 0
        live f.a → live f.b → ∃ G', exec i s = .next ((s.setGang G').settled x.P.id) ∧ G'.frames = rest ∧
          G'.depth = x.G.base ∧ G'.base = f.base ∧
          slotView G'.a = f.a.map (fun S => (pca x.G, S.mask &&& ~~~ x.G.exited, S.wait)) ∧
          slotView G'.b = f.b.map (fun S => (pcb x.G, S.mask &&& ~~~ x.G.exited, S.wait)) ∧
          G'.s = ((((x.G.s.set 56 x.G.shadow[0]).set 57 x.G.shadow[1]).set 58 x.G.shadow[2]).set 59 x.G.shadow[3]).set 60
            x.G.shadow[4] ∧
          G'.shadow = #v[x.G.s[56], x.G.s[57], x.G.s[58], x.G.s[59], x.G.s[60]] ∧ G'.v = x.G.v ∧ G'.p = x.G.p ∧
          G'.latchA = none ∧ G'.latchB = none ∧ G'.latchC = none
  Returns .tret .trap (·.tpca) (·.tpcb) ∧ Returns .chret .chime (·.chpca) (·.chpcb)

/-- R99, R337, R342: the head claim is granted when the reserve covers it, and traps as a deadlock when nothing else can
run; spin demotion begins at 32 turns and ends after 4,096 cycles; a long wait makes its slot swap-eligible. -/
def Obligations.WaitingSlots : Prop :=
  (∀ (s : State) (p g : Nat) (P : Plot) (G : Gang) (sl : SlotId) (S : PcSlot) (n : Nat), s.plot? p = some P →
    s.gang? p g = some G → P.id = p → G.plot = p → G.idx = g → G.slot sl = some S → P.claims = [⟨g, sl, n⟩] →
    (n ≤ P.reserve → G.nv + n ≤ 192 → ∃ G', exec (.claimGrant p) s =
        .next ((s.setPlot { P with claims := [], reserve := P.reserve - n }).setGang G') ∧
      G'.v = G.v ++ List.replicate n (Vector.replicate 96 0) ∧ G'.s = G.s ∧ G'.p = G.p ∧
      G'.latchA = none ∧ G'.latchB = none ∧ G'.latchC = none ∧ slotView (G'.slot sl) = some (S.pc + 8, S.mask, .none) ∧
      slotView (G'.slot (otherSlot sl)) = slotView (G.slot (otherSlot sl))) ∧
    (P.reserve < n → s.gangsOf p = [G] → G.life = .running → S.wait = .vclaim → G.slot (otherSlot sl) = none →
      G.tentry ≠ 0 → (∀ f ∈ G.frames, f.kind ≠ .trap) → ∃ G', exec (.claimGrant p) s =
        .next ((s.setPlot { P with claims := [] }).setGang G') ∧
      G'.tcause.toNat % 256 = 0x0E ∧ G'.tinfo = BitVec.ofNat 64 (n / 8 + 65536 * P.reserve) ∧
      slotView G'.a = some (G.tentry, ~~~ G.exited, .none) ∧ G'.v = G.v)) ∧
  (∀ (s : State) (p g : Nat) (P : Plot) (G : Gang) (sl : SlotId) (S : PcSlot), s.plot? p = some P → s.gang? p g = some G →
    P.place = .resident → G.slot sl = some S →
    exec (.spinDemote p g sl) s = .next (if 32 ≤ S.spin ∧ S.demoted = none
      then s.setGang (G.setSlot sl (some { S with demoted := some s.ticks })) else s) ∧
    (∀ t, S.demoted = some t → exec (.spinDemotionTimeout p g sl) s = .next (if t + 4096 ≤ s.ticks
      then s.setGang (G.setSlot sl (some { S with demoted := none, spin := 0 })) else s)) ∧
    (∀ t, ((∃ a c v d q n, S.wait = .waitc t a c v d q n) ∨ S.wait = .chwait t) →
      exec (.swapEligible p g sl) s = .next (if t + 2000 ≤ s.ticks
        then s.setGang (G.setSlot sl (some { S with swap := true })) else s)))

/-! ### The engine classes (R187 to R221) -/

/-- R188, R194, R202, R216, R297, R298: every counted word issues its operation with its block as it stands, and goes on;
the copies give a promise, whose due time is the part's own (log entry 5); a collective takes its place in its group, also with a
poisoned block; a post takes an entry of the gang's queue, or blocks, or gives 1 in the NB form, also with its counter at 63. -/
def Obligations.EngineWords : Prop :=
  let Copy (c : SReg → SReg → BitVec 10 → Instr) (kind : EngKind) : Prop :=
    ∀ d, EngineWord (c d) 0 kind 128 128 [d.toNat] fun s x r o =>
      ∃ G', r = .next (({ s with free := s.free + 1 } : State).setGang G') ∧ GangDone s (x.set (x.G.withOp 0 o)) 8 G' ∧
        SclSet x d (BitVec.ofNat 64 (x.G.cp.issued.toNat % 2 ^ 16 * 2 ^ 48 + (Config.freeDue s.free).toNat)) G'
  let Coll (c : SReg → BitVec 10 → Instr) (kind : EngKind) : Prop :=
    EngineWord c 2 kind 64 64 [] fun s x r o =>
      (∀ q ∈ x.G.engCl, q.num ≠ x.G.cl.issued) →
      match s.groups.find? fun g => g.handle == BitVec.ofNat 32 (fieldAt o.desc 20 4) with
      | none => PlainOp 2 s x r o
      | some g =>
        match g.rankOf s.partno x.P with
        | none => PlainOp 2 s x r o
        | some k =>
          ∃ G', r = .next (({ s with groups := s.groups.map fun y =>
              if y.handle = g.handle then { g with issued := g.issued.set k (g.issued.getD k 0 + 1) } else y } : State).setGang G') ∧
            GangDone s (x.set (x.G.withOp 2 { o with
              ring := g.issued.getD k 0, phase := if o.phase = .finished then .wait else o.phase })) 8 G' ∧ RegsKept x G'
  let turn (x : Issuer) : Prop := x.G.postq < 4 ∧ ∀ S n q, x.G.slot (otherSlot x.sl) = some S → S.wait = .evpost n q →
    ∃ m r, x.S.wait = .evpost m r ∧ m < n
  Copy .tmov .tmov ∧ Copy .tmovV .tmovV ∧ Copy .tmovW .tmovW ∧ Copy .tmovR .tmovR ∧ Copy .tmovZ .tmovZ ∧
  EngineWord .gath 1 .gath 64 64 [] (PlainOp 1) ∧ EngineWord .scat 1 .scat 64 64 [] (PlainOp 1) ∧
  EngineWord .cpydec 0 .cpydec 64 64 [] (PlainOp 0) ∧ EngineWord .cpyenc 0 .cpyenc 64 64 [] (PlainOp 0) ∧
  EngineWord .automap 3 .automap 64 64 [] (PlainOp 3) ∧ EngineWord .autounmap 3 .autounmap 64 64 [] (PlainOp 3) ∧
  EngineWord .svcall 3 .svcall 64 64 [] (PlainOp 3) ∧ EngineWord .evwm 3 .evwm 64 64 [] (PlainOp 3) ∧
  Coll .collAr .collAr ∧ Coll .collAg .collAg ∧ Coll .collRs .collRs ∧ Coll .collBc .collBc ∧ Coll .collA2a .collA2a ∧
  (EngineWordIf turn .evpost 3 .evpost 32 96 [] fun s x r o =>
    (turn x → ∃ G', r = .next (s.setGang G') ∧
      GangDone s (x.set { x.G.withOp 3 o with postq := x.G.postq + 1 }) 8 G' ∧ RegsKept x G') ∧
    (¬ turn x → ∃ G' n, r = .next ((s.setGang G').settled x.P.id) ∧ Blocks s x (.evpost n o.off) G' ∧
      n = match x.S.wait with
        | .evpost m _ => m
        | _ => x.G.seq + 1)) ∧
  (∀ d, EngineWordIf turn (.evpostNb d) 3 .evpost 32 96 [d.toNat] fun s x r o =>
    (turn x → ∃ G', r = .next (s.setGang G') ∧
      GangDone s (x.set { x.G.withOp 3 o with postq := x.G.postq + 1 }) 8 G' ∧ SclSet x d 0 G') ∧
    (¬ turn x → ∃ G', r = .next (s.setGang G') ∧ GangDone s x 8 G' ∧ SclSet x d 1 G'))

/-- R189 to R192, R203: WAITOC waits for its counter, then moves the cover mark and reports the failures that it covers;
OCRD reads its class; PSLEEP waits for its promise's time, which finds the copy done or raises PROMISE_MISSED. -/
def Obligations.EngineWaits : Prop :=
  let below (mark q : Word64) : Prop := mark ≠ q ∧ (mark - q).toNat ≤ 2 ^ 63
  (∀ (s : State) (x : Issuer) (cls : BitVec 2) (n : BitVec 6), Ready s x → CanIssue s x [] [] →
    let c := cls.toNat
    let k := x.G.cls c
    let mark : Word64 := if below (k.issued - BitVec.ofNat 64 n.toNat) k.cover then k.issued - BitVec.ofNat 64 n.toNat else k.cover
    let F := k.fails.filter fun f => decide (below mark f.num)
    let G1 := x.G.setCls c { k with cover := mark, fails := k.fails.filter fun f => !decide (below mark f.num) }
    if n.toNat < k.count then
      ∃ G', exec (.waitoc cls n) s = .next ((s.setGang G').settled x.P.id) ∧ Blocks s x .waitoc G'
    else
      (F = [] → ∃ G', exec (.waitoc cls n) s = .next (s.setGang G') ∧ GangDone s (x.set G1) 8 G' ∧ RegsKept x G') ∧
      (∀ f rest, F = f :: rest →
        let info : Nat := f.code.toNat + 2 ^ 8 * f.sub.toNat + 2 ^ 18 * c + 2 ^ 32 * (F.length % 2 ^ 32)
        exec (.waitoc cls n) s = .next (s.trap x.P (G1.stamp x.sl s.ticks) x.sl { x.S with issued := some s.ticks }
          { code := 0x10, addr := f.off, info := BitVec.ofNat 64 info }))) ∧
  (∀ (s : State) (x : Issuer) (cls : BitVec 2) (d : SReg), Ready s x → CanIssue s x [] [d.toNat] →
    let k := x.G.cls cls.toNat
    let first : Nat := match k.fails with
      | f :: _ => f.code.toNat + 256 * f.sub.toNat
      | [] => 0
    Gives (.ocrd cls d) s x d (BitVec.ofNat 64 (k.done.toNat % 2 ^ 32 + 2 ^ 40 * min k.fails.length 255 + 2 ^ 48 * first))) ∧
  (let due (s : State) (v : Word64) : Prop := (s.ticks % 2 ^ 48 + 2 ^ 48 - v.toNat % 2 ^ 48) % 2 ^ 48 < 2 ^ 47
  let open_ (G : Gang) (v : Word64) : Prop := ∃ o ∈ G.engCp, o.num.toNat % 2 ^ 16 = v.toNat / 2 ^ 48
  (∀ (s : State) (x : Issuer) (a : SReg), Ready s x → CanIssue s x [] [a.toNat] →
    let v := x.G.rs x.S a
    (¬ open_ x.G v → Moves (.psleep a) s x (some (x.S.pc + 8, x.S.mask, .none)) x.other) ∧
    (open_ x.G v → due s v → Traps s x (.psleep a) { code := 0x0F, info := BitVec.ofNat 64 x.G.cp.count }) ∧
    (open_ x.G v → ¬ due s v → ∃ G', exec (.psleep a) s = .next ((s.setGang G').settled x.P.id) ∧ Blocks s x (.psleep a) G')) ∧
  (∀ (s : State) (p g : Nat) (sl : SlotId) (P : Plot) (G : Gang) (S : PcSlot) (a : SReg), s.plot? p = some P →
    s.gang? p g = some G → P.place = .resident → G.slot sl = some S → S.wait = .psleep a →
    let v := G.rs S a
    (¬ open_ G v → exec (.psleepWake p g sl) s = .next (s.setGang (G.setSlot sl
      (some { S with pc := S.pc + 8, wait := .none, swap := false, fid := none })))) ∧
    (open_ G v → due s v →
      exec (.psleepWake p g sl) s = .next (s.trap P G sl S { code := 0x0F, info := BitVec.ofNat 64 G.cp.count })) ∧
    (open_ G v → ¬ due s v → exec (.psleepWake p g sl) s = .next s)))

/-- R204, R205, R207: RAINIT lays out a slot-ring object; RAWAIT gives the slot in turn once it is filled; RAREL frees it.
Bad arguments and bad objects raise SCRATCH_BOUNDS. -/
def Obligations.SlotRings : Prop :=
  let field (st : Store) (off k n : Nat) : Nat := st.nat (off + k) n
  let inside (x : Issuer) (off : Int) : Prop := off % 32 = 0 ∧ 0 ≤ off ∧ off + 32 ≤ x.P.tmpl.l1s
  let sound (x : Issuer) (off : Nat) : Prop :=
    let f := field x.P.bower off
    1 ≤ f 8 1 ∧ f 8 1 ≤ 64 ∧ f 9 1 < f 8 1 ∧ f 10 1 < f 8 1 ∧ f 11 1 < f 8 1 ∧ f 0 4 % 64 = 0 ∧ f 4 4 % 64 = 0 ∧ 64 ≤ f 4 4 ∧
      f 4 4 ≤ 65536 ∧ f 0 4 + f 8 1 * f 4 4 ≤ x.P.tmpl.l1s
  (∀ (s : State) (x : Issuer) (a b c : SReg) (n : BitVec 7), Ready s x → CanIssue s x [] [a.toNat, b.toNat, c.toNat] →
    let off := (x.G.rs x.S a).toInt
    let base := (x.G.rs x.S b).toNat
    let size := (x.G.rs x.S c).toNat
    let ok := 1 ≤ n.toNat ∧ n.toNat ≤ 64 ∧ size % 64 = 0 ∧ 64 ≤ size ∧ size ≤ 65536 ∧ base % 64 = 0
    let bad (code : Nat) (info : Word64) : Prop := Traps s x (.rainit a b c n) { code := code, info := info, addr := BitVec.ofInt 64 off }
    if off % 32 ≠ 0 then bad 0x04 4
    else if off < 0 ∨ (x.P.tmpl.l1s : Int) < off + 32 then bad 0x05 4
    else if ¬ ok then bad 0x05 12
    else if x.P.tmpl.l1s < base + n.toNat * size then bad 0x05 4
    else ∃ st' : Store, Leaves (.rainit a b c n) s x (s.setPlot { x.P with bower := st' }) ∧
      (base < 2 ^ 32 → field st' off.toNat 0 4 = base) ∧ field st' off.toNat 4 4 = size ∧ field st' off.toNat 8 1 = n.toNat ∧
      field st' off.toNat 9 3 = 0 ∧ field st' off.toNat 16 8 = 0 ∧ field st' off.toNat 24 8 = 0 ∧
      ∀ k : Nat, (k : Int) < off ∨ off + 32 ≤ k → st'.mem.read k = x.P.bower.mem.read k) ∧
  (∀ (s : State) (x : Issuer) (d a : SReg), Ready s x → CanIssue s x [] [d.toNat, a.toNat] →
    let off := (x.G.rs x.S a).toInt
    let o := off.toNat
    let f := field x.P.bower o
    let rp := f 10 1
    let filled := (BitVec.ofNat 64 (f 16 8)).getLsbD rp = true
    (off % 32 ≠ 0 → Traps s x (.rawait d a) { code := 0x04, addr := BitVec.ofInt 64 off } ∧
      Traps s x (.rarel d a) { code := 0x04, info := 4, addr := BitVec.ofInt 64 off }) ∧
    (inside x off → x.P.bower.poisoned o 32 = false → ¬ sound x o →
      Traps s x (.rawait d a) { code := 0x05, info := 8, addr := BitVec.ofInt 64 off } ∧
      Traps s x (.rarel d a) { code := 0x05, info := 12, addr := BitVec.ofInt 64 off }) ∧
    (inside x off → x.P.bower.poisoned o 32 = false → sound x o →
      (if filled then Gives (.rawait d a) s x d (BitVec.ofNat 64 (rp * 2 ^ 32 + (f 0 4 + rp * f 4 4)))
        else ∃ G', exec (.rawait d a) s = .next ((s.setGang G').settled x.P.id) ∧ Blocks s x .rawait G') ∧
      (if filled then ∃ st' : Store, LeavesWith (.rarel d a) s x (s.setPlot { x.P with bower := st' }) d 0 ∧
          field st' o 10 1 = (rp + 1) % f 8 1 ∧
          (∀ k < 64, (BitVec.ofNat 64 (field st' o 16 8)).getLsbD k =
            (decide (k ≠ rp) && (BitVec.ofNat 64 (f 16 8)).getLsbD k)) ∧
          ∀ k, (k < o + 16 ∨ o + 24 ≤ k) → k ≠ o + 10 → st'.mem.read k = x.P.bower.mem.read k
        else Gives (.rarel d a) s x d 1)))

/-- R195 to R201, R206, R208, R213, R214: how an operation starts: a bad block ends it with DESC and the byte where its first bad
field begins, and an index array outside the bower with BOUNDS; a TMOV or TMOV.Z without elements is finished at once; TMOV.Z goes on to its writes, TMOV.R to its reservation, GATH and SCAT
to their indices, which they read in order, and the others to their reads. -/
def Claim.EngineStarts : Prop :=
  ∀ (s : State) (p g : Nat) (cls : BitVec 2) (n : Nat) (P : Plot) (G : Gang) (o : EngOp), EngineAt s p g cls.toNat n P G o → o.code = 0 →
    let Goes (q : EngOp) : Prop := exec (.engineAccess p g cls n) s = .next (s.setGang (G.setOp cls.toNat q))
    let Ends (code sub : Nat) : Prop :=
      Goes { o with phase := .finished, code := BitVec.ofNat 8 code, sub := BitVec.ofNat 8 sub, elem := 0, fid := none }
    let N := o.ext.foldl (fun a b => a * b) 1
    let ix := fieldAt o.desc 16 4
    (o.phase = .start → o.kind.isCopy = true →
      (∀ f, o.tmovBad = some f → Ends 3 f) ∧
      (o.tmovBad = none → N = 0 → (o.kind = .tmov ∨ o.kind = .tmovZ) →
        Goes { o with phase := .finished, k := 0, fid := none }) ∧
      (o.tmovBad = none → (0 < N ∨ o.kind = .tmovW) → match o.kind with
        | .tmovZ => Goes { o with phase := .write, k := 0 }
        | .tmovR => (∀ k < N, s.spotFault P o.esz false (spotOf o.ssp o.src (strideSum k o.ext (o.strides 52))) = none) →
          Goes { o with phase := .reserve }
        | .tmovV => s.spotFault P 8 true (spotOf o.dsp o.dst 0) = none →
          (∀ k < N, s.spotFault P o.esz false (spotOf o.ssp o.src (strideSum k o.ext (o.strides 52))) = none ∧
            s.spotFault P o.esz true (spotOf o.dsp (o.dst + 8) (strideSum k o.ext (o.strides 80))) = none) →
          Goes { o with phase := .read, k := 0 }
        | _ => Goes { o with phase := .read, k := 0 })) ∧
    (o.phase = .start → o.kind.isGath = true →
      (∀ f, o.gathBad = some f → Ends 3 f) ∧
      (o.gathBad = none → (ix % 4 ≠ 0 ∨ P.tmpl.l1s < ix + 4 * o.gCount) → Ends 5 0) ∧
      (o.gathBad = none → ix % 4 = 0 → ix + 4 * o.gCount ≤ P.tmpl.l1s →
        if o.gCount = 0 then Ends 0 0 else Goes { o with phase := .index, k := 0 })) ∧
    (o.phase = .index → o.kind.isGath = true → ix % 4 = 0 → ix + 4 * o.gCount ≤ P.tmpl.l1s → o.k < o.gCount → o.data.length = 4 * o.k →
      P.bower.poisoned (ix + 4 * o.k) 4 = false →
      Goes { o with data := o.data ++ P.bower.readN (ix + 4 * o.k) 4, k := if o.k + 1 = o.gCount then 0 else o.k + 1,
                    phase := if o.k + 1 = o.gCount then .read else .index })

/-- R175, R195, R196, R199, R200, R214, R217: one read of an operation moves one element into staging, from global memory, a
scratchpad or a tile; after the last one TMOV.V makes its claim, a collective waits for its members, and the others write. A read
that fails ends TMOV, GATH and SCAT after the elements before it. -/
def Claim.EngineReads : Prop :=
  ∀ (s s1 : State) (p g : Nat) (cls : BitVec 2) (n b pte : Nat) (P : Plot) (G : Gang) (o : EngOp) (E : Elements),
    EngineAt s p g cls.toNat n P G o → o.phase = .read → o.code = 0 → o.fid = none →
    o.Sources (s.ranksOf o) (s.myRank P o) E → o.k < E.n → 
    let a := E.addr o.k
    let later : EngPhase := if o.kind = .tmovV then .claim else if o.kind.isColl then .wait else .write
    let Got (t : State) (bs : List Byte) : Prop := exec (.engineAccess p g cls n) s = .next (t.setGang (G.setOp cls.toNat
      { o with data := o.data ++ bs, k := if E.n = o.k + 1 then 0 else o.k + 1, phase := if E.n = o.k + 1 then later else .read }))
    (E.space = 0 → AllPass (gmChecks s.domain E.z false) 1 (fun _ => a) →
      s.lookup P.ctx a.toNat .engRead .engines = (.ok (.hbm b) pte, s1) →
      let s2 := s1.countAccess P.ctx a.toNat (.die (P.core / 96))
      s2.poisonedLoc (.hbm b) E.z = false → Got s2 (s2.hbm.readN b E.z)) ∧
    (∀ lv st size, E.space = lv + 1 → lv < 3 → s.scratch P lv = some (st, size) → a % E.z = 0 → 0 ≤ a → a + E.z ≤ size →
      st.poisoned a.toNat E.z = false → Got s (st.readN a.toNat E.z)) ∧
    (∀ T, E.space = 4 → P.tiles[E.base]? = some T → 0 ≤ a → a + E.z ≤ 16384 → Got s (T.mem.readN a.toNat E.z)) ∧
    (∀ code sub, ElementBad s P E o.k code sub → (o.kind = .tmov ∨ o.kind = .gath ∨ o.kind = .scat) → o.k < 2 ^ 32 →
      exec (.engineAccess p g cls n) s = .next (s.setGang (G.setOp cls.toNat { o with
        code := BitVec.ofNat 8 code, sub := BitVec.ofNat 8 sub, elem := BitVec.ofNat 32 o.k, k := 0,
        phase := if o.k = 0 then .finished else .write })))

/-- R195, R196, R199 to R201, R206, R208, R211, R214, R217: one write of an operation moves one element out of staging, TMOV.Z zeros, to
global memory, a scratchpad or a tile; after the last one the operation is finished, TMOV.R after it has filled its slot. A write that
fails ends every other operation at its element: an address whose part has left the domain, like any other bad one, with ADDR, one that
the owner refuses with DENIED. So it does where the operation's destinations have been checked (log entry 60, the model's choice). -/
def Claim.EngineWrites : Prop :=
  ∀ (s s1 : State) (p g : Nat) (cls : BitVec 2) (n b pte : Nat) (P : Plot) (G : Gang) (o : EngOp) (E : Elements),
    EngineAt s p g cls.toNat n P G o → o.phase = .write → o.code = 0 → o.fid = none → o.Destinations (s.ranksOf o) E → o.k < E.n →
    (o.kind = .tmovZ → o.data = []) →
    let a := E.addr o.k
    let staged := if o.kind = .gath ∨ o.kind = .scat then 4 * o.gCount else if o.kind = .tmovW then 64 else 0
    let bytes := if o.kind = .tmovZ then List.replicate E.z 0 else bytesAt o.data (staged + o.k * E.z) E.z
    let Stops (t : State) (code sub : Nat) : Prop := exec (.engineAccess p g cls n) s = .next (t.setGang (G.setOp cls.toNat { o with
      phase := .finished, code := BitVec.ofNat 8 code, sub := BitVec.ofNat 8 sub, elem := BitVec.ofNat 32 o.k }))
    let Put (t : State) : Prop := exec (.engineAccess p g cls n) s = .next (t.setGang (G.setOp cls.toNat { o with
      k := o.k + 1, phase := if E.n = o.k + 1 then (if o.kind = .tmovR then .fill else .finished) else .write }))
    ((o.kind = .tmovR → o.aux % 2 ^ 32 ≤ a ∧ a + E.z ≤ ((o.aux % 2 ^ 32 + o.aux / 2 ^ 32 : Nat) : Int)) →
      (E.space = 0 → AllPass (gmChecks s.domain E.z false) 1 (fun _ => a) →
        (s.lookup P.ctx a.toNat .engWrite .engines = (.ok (.hbm b) pte, s1) →
          let s2 := s1.countAccess P.ctx a.toNat (.die (P.core / 96))
          Put (({ s2 with hbm := s2.hbm.writeN b bytes } : State).fire (.hbm b) E.z)) ∧
        (o.kind ≠ .tmovR → s.lookup P.ctx a.toNat .engWrite .engines = (.refuse, s1) → Stops s1 7 0)) ∧
      (∀ lv st size, E.space = lv + 1 → lv < 3 → s.scratch P lv = some (st, size) → a % E.z = 0 → 0 ≤ a → a + E.z ≤ size →
        Put (s.setScratch P lv (st.writeN a.toNat bytes))) ∧
      (∀ T, E.space = 4 → P.tiles[E.base]? = some T → 0 ≤ a → a + E.z ≤ 16384 →
        Put (s.setPlot { P with tiles := P.tiles.set E.base { T with mem := T.mem.writeN a.toNat bytes } }))) ∧
    (∀ code sub, ElementBad s P E o.k code sub → o.kind ≠ .tmovR → Stops s code sub)

/-- R209 to R212: TMOV.W reads the header of its segment, the index entry and the body, checks each as it has it, and then holds in
staging every block of the tile: the format and the scale, then the palette's codes by their indices. -/
def Claim.WeightSegments : Prop :=
  ∀ (s s1 : State) (p g n b pte : Nat) (P : Plot) (G : Gang) (o : EngOp), EngineAt s p g 0 n P G o → o.kind = .tmovW →
    o.phase = .read → o.code = 0 → o.fid = none →
    let tile := o.aux % 2 ^ 32
    let segment := 64 * (o.aux / 2 ^ 32)
    let a : Nat × Nat := if o.k = 0 then (o.src, 64) else if o.k = 1 then (o.src + fieldAt o.data 16 8 + 8 * tile, 8)
      else (o.src + fieldAt o.data 64 8 % 2 ^ 48 + 64 * (o.k - 2), 64)
    AllPass (gmChecks s.domain a.2 false) 1 (fun _ => a.1) → s.lookup P.ctx a.1 .engRead .engines = (.ok (.hbm b) pte, s1) →
    let s2 := s1.countAccess P.ctx a.1 (.die (P.core / 96))
    s2.poisonedLoc (.hbm b) a.2 = false →
    let h := o.data ++ s2.hbm.readN b a.2
    let Goes (q : EngOp) : Prop := exec (.engineAccess p g 0 n) s = .next (s2.setGang (G.setOp 0 q))
    let Malformed (r : Nat) : Prop :=
      Goes { o with data := h, k := o.k + 1, phase := .finished, code := 2, sub := BitVec.ofNat 8 r, elem := 0 }
    let More : Prop := Goes { o with data := h, k := o.k + 1 }
    let first (l : List Nat) (go : Prop) : Prop := (l = [] → go) ∧ ∀ r rest, l = r :: rest → Malformed r
    let rows := fieldAt h 6 1
    let cols := fieldAt h 7 1
    let len := fieldAt h 64 8 / 2 ^ 48
    let at_ := fieldAt h 64 8 % 2 ^ 48
    let body := h.drop 72
    let np := fieldAt body 0 1
    let up (x : Nat) : Nat := (x + 63) / 64 * 64
    let size := if fieldAt h 5 1 = 2 then 82 else 62
    let scales := if fieldAt body 1 1 % 2 = 1 then 1 else rows * cols
    let indices := up (16 + np) + up scales
    (o.k = 0 → first ([1, 2, 3, 4].filter fun r =>
      (r == 1 && decide (fieldAt h 0 4 ≠ 0x31574B53 ∨ fieldAt h 4 1 ≠ 1)) ||
      (r == 2 && decide ((fieldAt h 5 1 ≠ 1 ∧ fieldAt h 5 1 ≠ 2) ∨ rows = 0 ∨ 128 < rows ∨ cols = 0 ∨ 16 < cols ∨ fieldAt h 8 4 = 0 ∨
        fieldAt h 16 8 % 64 ≠ 0 ∨ fieldAt h 12 4 ≠ 0 ∨ fieldAt h 24 40 ≠ 0)) ||
      (r == 3 && decide (fieldAt h 8 4 ≤ tile)) || (r == 4 && decide (segment < fieldAt h 16 8 + 8 * tile + 8))) More) ∧
    (o.k = 1 → o.data.length = 64 → first (if at_ % 64 ≠ 0 ∨ segment < at_ + 64 * len then [4] else if len = 0 then [5] else []) More) ∧
    (2 ≤ o.k → o.k - 1 < len → More) ∧
    (2 ≤ o.k → len ≤ o.k - 1 → np < 2 → Malformed 5) ∧
    (2 ≤ o.k → len ≤ o.k - 1 → ∀ bits, 2 ≤ np → 2 ^ bits < 2 * np → np ≤ 2 ^ bits →
      let index (k j : Nat) : Nat := natOf (body.drop indices) / 2 ^ ((k * size + j) * bits) % 2 ^ bits
      let used := rows * cols * size * bits
      first ([5, 6, 7, 8, 9].filter fun r =>
        (r == 5 && decide (64 < np ∨ fieldAt body 1 1 / 2 ≠ 0 ∨ fieldAt body 2 2 ≠ 0 ∨ fieldAt body 8 8 ≠ 0 ∨
          (size = 82 ∧ ∃ i < np, 64 ≤ fieldAt body (16 + i) 1))) ||
        (r == 6 && decide (64 * len ≠ indices + up ((used + 7) / 8))) ||
        (r == 7 && decide ((crc32c (body.drop 16)).toNat ≠ fieldAt body 4 4)) ||
        (r == 8 && decide (∃ k < rows * cols, ∃ j < size, np ≤ index k j)) ||
        (r == 9 && decide (natOf ((body.take (up (16 + np))).drop (16 + np)) ≠ 0 ∨
          natOf ((body.take indices).drop (up (16 + np) + scales)) ≠ 0 ∨ natOf (body.drop indices) / 2 ^ used ≠ 0))) (∃ d : List Byte,
        Goes { o with data := d, k := 0, phase := .check } ∧ (64 ≤ h.length → d.take 64 = h.take 64 ∧
          d.length = 64 + 64 * (rows * cols) ∧ ∀ k < rows * cols,
          let block := bytesAt d (64 + 64 * k) 64
          fieldAt block 0 1 = (if size = 82 then 2 else 1) ∧ block.getD 1 0 = body.getD (up (16 + np) + if scales = 1 then 0 else k) 0 ∧
          (if size = 82 then natOf (block.drop 2) / 2 ^ 492 = 0 ∧
              ∀ j < 82, natOf (block.drop 2) / 2 ^ (6 * j) % 2 ^ 6 = fieldAt body (16 + index k j) 1
            else ∀ j < 62, fieldAt block (2 + j) 1 = fieldAt body (16 + index k j) 1))))

/-- R216, R217: the members of a group on this part meet once each has read its source: they end with MISMATCH where they disagree, with
the lowest failing rank's code as REMOTE where one has failed, and else each holds its result in staging, folded in rank order. They
meet again before the first write. That REMOTE carries the lowest of several failing ranks' codes, and that a disagreement comes
before a member's own failure, are the model's choices (log entry 111); so are SUB 0 with MISMATCH and ELEM 0 (log entry 61). -/
def Claim.CollectiveMeetings : Prop :=
  (∀ (s : State) (p g n : Nat) (P : Plot) (G : Gang) (o : EngOp) (gr : Group) (ms : List (Gang × EngOp)), EngineAt s p g 2 n P G o →
    o.kind.isColl = true → (o.phase = .wait ∨ o.phase = .ready) → s.group? o.cGroup = some gr → s.partno ∈ s.domain → 0 < gr.ranks.length →
    (∀ r ∈ gr.ranks, r.1 = s.partno) → ms.length = gr.ranks.length →
    (∀ r < gr.ranks.length, s.collOf gr o.ring (gr.ranks.getD r (0, 0)) = ms[r]?) → (∃ m ∈ ms, m.2 = o) →
    (∀ m ∈ ms, s.gang? m.1.plot m.1.idx = some m.1) → (ms.map fun m => gangKey m.1.plot m.1.idx).Nodup →
    let Each (after : Nat → EngOp → EngOp) : Prop := ∃ t, exec (.engineAccess p g 2 n) s = .next t ∧
      ∀ r < gr.ranks.length, ∀ m, ms[r]? = some m → t.gang? m.1.plot m.1.idx = some (m.1.setOp 2 (after r m.2))
    let Ended (code sub : Nat) (q : EngOp) : EngOp :=
      { q with phase := .finished, code := BitVec.ofNat 8 code, sub := BitVec.ofNat 8 sub, elem := 0, fid := none }
    let failed := (ms.filter fun m => decide (m.2.code ≠ 0)).head?
    let agree (q : EngOp) : Prop := q.kind = o.kind ∧ q.cOp = o.cOp ∧ q.cCount = o.cCount ∧ q.cRoot = o.cRoot
    let x (q k : Nat) : Nat := fieldAt ((ms[q]?.map (·.2.data)).getD []) (k * o.cEsz) o.cEsz
    let canon (v : Nat) : Nat := if (o.cOp = 8 ∨ o.cOp = 10) ∧ f32.isNan v then f32.nan else if o.cOp = 9 ∧ f64.isNan v then f64.nan else v
    let N := gr.ranks.length
    let fold (k : Nat) : Nat := ((List.range (N - 1)).map fun q => x (q + 1) k).foldl (collStep o.cOp) (canon (x 0 k))
    let value (r k : Nat) : Nat := match o.kind with
      | .collAr => fold k
      | .collRs => fold (r * o.cCount + k)
      | .collAg => x (k / o.cCount) (k % o.cCount)
      | .collBc => x o.cRoot k
      | _ => x (k / o.cCount) (r * o.cCount + k % o.cCount)
    let count := if o.kind = .collAg ∨ o.kind = .collA2a then N * o.cCount else o.cCount
    (o.phase = .wait → (∃ m ∈ ms, m.2.phase ≠ .wait) → exec (.engineAccess p g 2 n) s = .next s) ∧
    (o.phase = .wait → (∀ m ∈ ms, m.2.phase = .wait) →
      ((∃ m ∈ ms, ¬ agree m.2) → Each fun _ q => Ended 0x0A 0 q) ∧
      ((∀ m ∈ ms, agree m.2) → ∀ f, failed = some f →
        Each fun _ q => if q.code = 0 then Ended 0x0B f.2.code.toNat q else { q with phase := .finished }) ∧
      ((∀ m ∈ ms, agree m.2) → failed = none → ∃ d : Nat → List Byte, Each (fun r q => { q with phase := .check, k := 0, data := d r }) ∧
        ∀ r < N, (d r).length = count * o.cEsz ∧ ∀ k < count, fieldAt (d r) (k * o.cEsz) o.cEsz = value r k % 2 ^ (8 * o.cEsz))) ∧
    (o.phase = .ready → (∃ m ∈ ms, m.2.phase ≠ .ready) → exec (.engineAccess p g 2 n) s = .next s) ∧
    (o.phase = .ready → (∀ m ∈ ms, m.2.phase = .ready) → failed = none →
      Each fun _ q => { q with k := 0, phase := if q.cCount = 0 then .finished else .write }) ∧
    (o.phase = .ready → (∀ m ∈ ms, m.2.phase = .ready) → ∀ f, failed = some f →
      Each fun _ q => if q.code = 0 then Ended 0x0B f.2.code.toNat q else { q with phase := .finished })) ∧
  (∀ a b : Nat, collStep 0 a b = (a + b) % 2 ^ 32 ∧ collStep 1 a b = (a + b) % 2 ^ 64 ∧ collStep 8 a b = f32.add .rn a b ∧
    collStep 9 a b = f64.add .rn a b ∧ collStep 10 a b = f32.pick false a b ∧ (a < 2 ^ 32 → b < 2 ^ 32 → collStep 6 a b = a &&& b ∧ collStep 7 a b = a ||| b ∧
      collStep 2 a b = (if signed 32 a ≤ signed 32 b then a else b) ∧ collStep 3 a b = (if signed 32 b ≤ signed 32 a then a else b) ∧
      collStep 4 a b = min a b ∧ collStep 5 a b = max a b))

/-- R175, R200, R218 to R220, R360, R383: CPYDEC tests the security engine's table, its key, its salt, the owners and each destination's
frame before it reads (the table's place in that order is log entry 114, the model's choice); CPYENC takes
its slot's next counter, reads memory that its context owns, and has its ciphertext, IV and tag when it has read the last. A slot has no
key while an interface of the context is in ERROR. Each access moves the bytes of one aligned 4-byte word. -/
def Claim.SecureCopies : Prop :=
  ∀ (s s1 : State) (p g n b pte : Nat) (P : Plot) (G : Gang) (o : EngOp), EngineAt s p g 0 n P G o → o.code = 0 → o.fid = none →
    let c := s.context P.ctx
    let Goes (t : State) (q : EngOp) : Prop := exec (.engineAccess p g 0 n) s = .next (t.setGang (G.setOp 0 q))
    let Ends (code elem : Nat) : Prop := Goes s { o with
      phase := .finished, code := BitVec.ofNat 8 code, sub := 0, elem := BitVec.ofNat 32 elem }
    let unit (base : Nat) : Nat := min (4 - (base + o.k) % 4) (o.cpyLen - o.k)
    let last (base : Nat) : Prop := o.cpyLen ≤ o.k + unit base
    let owned : Prop := pte / 2 ^ 10 % 2 = 1 ∧ assoc s1.frames (b / 2 ^ 37, b % 2 ^ 37 / 65536) = some P.ctx
    let failing : Prop := ∃ q ∈ s.vfs, q.2.ctx = P.ctx ∧ q.2.tdisp = .error
    let allowed : Bool := s.tableAllows targetSecurity .engines .store
    (o.phase = .start → o.kind = .cpydec → o.cpyBad = none → allowed = false → Ends 7 0) ∧
    (o.phase = .start → o.kind = .cpydec → o.cpyBad = none → allowed = true →
      ((c.conf = false ∨ failing ∨ c.keys.getD o.cpySlot none = none) → Ends 0x0D 0) ∧
      ∀ k, c.conf = true → ¬ failing → c.keys.getD o.cpySlot none = some k →
        (fieldAt o.desc 24 4 ≠ k.salt.toNat → Ends 0x0D 0) ∧
        (fieldAt o.desc 24 4 = k.salt.toNat → (ownerOf o.src ≠ 8 ∨ ownerOf o.dst = 8) → Ends 7 0) ∧
        (fieldAt o.desc 24 4 = k.salt.toNat → ownerOf o.src = 8 → ownerOf o.dst ≠ 8 →
          Goes s { o with phase := .check, k := 0, ring := k.gen, data := keyBytes k.key ++ leOf 4 k.salt.toNat })) ∧
    (o.phase = .check → o.kind = .cpydec →
      (o.cpyLen ≤ o.k → Goes s { o with phase := .read, k := 0 }) ∧
      (o.k < o.cpyLen → AllPass (gmChecks s.domain 1 false) 1 (fun _ => o.dst + o.k) →
        s.lookup P.ctx (o.dst + o.k) .engWrite .engines = (.ok (.hbm b) pte, s1) →
        let s2 := s1.countAccess P.ctx (o.dst + o.k) (.die (P.core / 96))
        (owned → Goes s2 { o with k := o.k + unit o.dst }) ∧
        (¬ owned → Goes s2 { o with phase := .finished, code := 7, sub := 0, elem := BitVec.ofNat 32 o.k }))) ∧
    (o.phase = .read → o.kind = .cpydec → o.k < o.cpyLen → AllPass (gmChecks s.domain 1 false) 1 (fun _ => o.src + o.k) →
      s.lookup P.ctx (o.src + o.k) .engRead .engines = (.ok (.host b) pte, s1) →
      let s2 := s1.countAccess P.ctx (o.src + o.k) (.die (P.core / 96))
      s2.poisonedLoc (.host b) (unit o.src) = false →
      Goes s2 { o with data := o.data ++ s2.host.readN b (unit o.src), k := if last o.src then 0 else o.k + unit o.src,
                       phase := if last o.src then .claim else .read }) ∧
    (o.phase = .write → o.kind = .cpydec → o.k < o.cpyLen → AllPass (gmChecks s.domain 1 false) 1 (fun _ => o.dst + o.k) →
      s.lookup P.ctx (o.dst + o.k) .engWrite .engines = (.ok (.hbm b) pte, s1) → owned →
      let s2 := s1.countAccess P.ctx (o.dst + o.k) (.die (P.core / 96))
      Goes (({ s2 with hbm := s2.hbm.writeN b (bytesAt o.data o.k (unit o.dst)) } : State).fire (.hbm b) (unit o.dst))
        { o with k := o.k + unit o.dst, phase := if last o.dst then .finished else .write }) ∧
    (o.phase = .start → o.kind = .cpyenc → o.cpyBad = none → allowed = true → ∀ k, c.conf = true → ¬ failing → c.keys.getD o.cpySlot none = some k →
      ownerOf o.dst = 8 → ownerOf o.src ≠ 8 →
      Goes (s.setContext P.ctx { c with keys := c.keys.set o.cpySlot (some { k with send := k.send + 1 }) })
        { o with phase := .read, k := 0, ring := k.send + 1, data := keyBytes k.key ++ leOf 4 k.salt.toNat }) ∧
    (o.phase = .read → o.kind = .cpyenc → o.k < o.cpyLen → o.desc.length = 64 → AllPass (gmChecks s.domain 1 false) 1 (fun _ => o.src + o.k) →
      s.lookup P.ctx (o.src + o.k) .engRead .engines = (.ok (.hbm b) pte, s1) → owned →
      let s2 := s1.countAccess P.ctx (o.src + o.k) (.die (P.core / 96))
      s2.poisonedLoc (.hbm b) (unit o.src) = false →
      let data := o.data ++ s2.hbm.readN b (unit o.src)
      let iv := bytesAt data 32 4 ++ leOf 8 o.ring
      let text := gcmText (data.take 32) iv (data.drop 36)
      Goes s2 (if last o.src then { o with phase := .write, k := 0, data := text, desc := putAt o.desc 24 (iv ++ gcmTag (data.take 32) iv text) }
        else { o with data := data, k := o.k + unit o.src })) ∧
    (o.phase = .write → o.kind = .cpyenc → o.k < o.cpyLen → AllPass (gmChecks s.domain 1 false) 1 (fun _ => o.dst + o.k) →
      s.lookup P.ctx (o.dst + o.k) .engWrite .engines = (.ok (.host b) pte, s1) →
      let s2 := s1.countAccess P.ctx (o.dst + o.k) (.die (P.core / 96))
      Goes (({ s2 with host := s2.host.writeN b (bytesAt o.data o.k (unit o.dst)) } : State).fire (.host b) (unit o.dst))
        { o with k := o.k + unit o.dst, phase := if last o.dst then .finished else .write })

/-- R69, R189, R195, R196, R220, R298, R388, R390: the oldest finished operation of a class writes its block, the status last; its counter
falls, a failure is kept for WAITOC, and while the gang drains it is recorded. A CPYENC writes IV and TAG whatever its status is (log
entry 62). The entry of a completed post goes to the slot that has
been blocked in EVPOST for longest. -/
def Claim.EngineCompletion : Prop :=
  ∀ (s : State) (p g : Nat) (cls : BitVec 2) (P : Plot) (G : Gang), s.plot? p = some P → s.gang? p g = some G → P.away = false →
    let c := cls.toNat
    (G.eng c = [] → exec (.engineComplete p g cls) s = .next s) ∧
    ∀ o os, G.eng c = o :: os →
      (o.phase ≠ .finished → exec (.engineComplete p g cls) s = .next s) ∧
      (o.phase = .finished →
        let failed := o.code ≠ 0 ∧ ¬ (o.code = 1 ∧ o.kind = .tmovV ∧ o.soft = true)
        let at_ := o.off + if o.kind.isCopy then 120 else if o.kind = .evpost then 40 else 56
        let record := if o.code ≠ 0 ∧ G.life ≠ .running then
          fun t : State => t.errRecord P.ctx 0x0003 P.lid ([c, o.code.toNat + 256 * o.sub.toNat, o.off, P.lid].flatMap (leOf 4)) else id
        ∃ (st' : Store) (G' : Gang), exec (.engineComplete p g cls) s =
            .next (record (((s.setPlot { P with bower := st' }).setGang G').sample P.core 3 (s.ticks - o.at_))) ∧
          st'.nat at_ 8 = o.code.toNat + 2 ^ 8 * o.sub.toNat + 2 ^ 32 * o.elem.toNat ∧
          (o.kind ≠ .cpyenc → o.kind ≠ .svcall → ∀ k, k < at_ ∨ at_ + 8 ≤ k → st'.mem.read k = P.bower.mem.read k) ∧
          (o.kind = .cpyenc → (st'.readN (o.off + 24) 28 = bytesAt o.desc 24 28 ∧
            ∀ k, (k < o.off + 24 ∨ o.off + 52 ≤ k) → (k < at_ ∨ at_ + 8 ≤ k) → st'.mem.read k = P.bower.mem.read k)) ∧
          G'.s = G.s ∧ G'.v = G.v ∧ G'.p = G.p ∧
          (G'.cls c).done = (G.cls c).done + 1 ∧ (G'.cls c).cover = (G.cls c).cover ∧
          (failed → (G'.cls c).fails = (G.cls c).fails ++ [⟨o.num, o.code, o.sub, BitVec.ofNat 64 o.off⟩]) ∧
          (¬ failed → (G'.cls c).fails = (G.cls c).fails) ∧
          ((o.kind ≠ .evpost ∨ ∀ sl S m q, G.slot sl = some S → S.wait ≠ .evpost m q) →
            G'.eng c = os ∧ (G'.cls c).count = (G.cls c).count - 1 ∧ (G'.cls c).issued = (G.cls c).issued ∧
            G'.postq = (if o.kind = .evpost then G.postq - 1 else G.postq) ∧ G'.a = G.a ∧ G'.b = G.b) ∧
          (∀ sl S m q, o.kind = .evpost → c = 3 → G.slot sl = some S → S.wait = .evpost m q →
            (∀ S' m' q', G.slot (otherSlot sl) = some S' → S'.wait = .evpost m' q' → m < m') → ∃ o', G'.eng c = os ++ [o'] ∧
              o'.num = (G.cls c).issued ∧ o'.kind = .evpost ∧ o'.seq = m ∧ o'.off = q ∧ o'.desc = st'.readN q 96 ∧
              (G'.cls c).count = (G.cls c).count - 1 + 1 ∧ (G'.cls c).issued = (G.cls c).issued + 1 ∧ G'.postq = G.postq - 1 + 1 ∧
              slotView (G'.slot sl) = some (S.pc + 8, S.mask, .none) ∧ G'.slot (otherSlot sl) = G.slot (otherSlot sl)))

/-- R195 to R221, R390: the steps of the engines' operations. -/
def Obligations.EngineSteps : Prop :=
  Claim.EngineStarts ∧ Claim.EngineReads ∧ Claim.EngineWrites ∧ Claim.WeightSegments ∧ Claim.CollectiveMeetings ∧ Claim.SecureCopies ∧
    Claim.EngineCompletion

/-- R195, R206 to R208, R217, R219: the indivisible steps of TMOV.R at its ring, of TMOV.V at its version word, of CPYDEC at the
security engine, and the abort of a group's pending operations. That a misaligned or outlying ring object is an invalid one is log
entry 104. -/
def Obligations.EngineClaims : Prop :=
  (∀ (s s1 : State) (p g n b pte : Nat) (P : Plot) (G : Gang) (o : EngOp), EngineAt s p g 0 n P G o →
    let N := (o.ext.foldl (fun a b => a * b) 1)
    let Next (i : Instr) (t : State) (q : EngOp) : Prop := exec i s = .next (t.setGang (G.setOp 0 q))
    let ring := Ring.of (P.bower.readN o.dst 32)
    let inside := o.dst % 32 = 0 ∧ o.dst + 32 ≤ P.tmpl.l1s
    let sound := inside ∧ P.bower.poisoned o.dst 32 = false ∧ ring.ok P.tmpl.l1s = true
    let Unsound (i : Instr) : Prop :=
      (inside → P.bower.poisoned o.dst 32 = true → Next i s { o with phase := .finished, code := 8, sub := 0, elem := 0, fid := none }) ∧
      ((¬ inside ∨ (P.bower.poisoned o.dst 32 = false ∧ ring.ok P.tmpl.l1s = false)) →
        Next i s { o with phase := .finished, code := 9, sub := 0, elem := 0, fid := none })
    let Rings (st' : Store) (r : Ring) : Prop := Ring.of (st'.readN o.dst 32) = r ∧
      ∀ k, k < o.dst ∨ o.dst + 32 ≤ k → st'.mem.read k = P.bower.mem.read k
    (o.kind = .tmovR → o.phase = .reserve → G.ringTurn o = true → o.code = 0 → 0 < N → o.desc.length = 128 →
      Unsound (.tmovRReserve p g n) ∧
      (sound → (ring.resv.getLsbD ring.np = true ∨ ring.fill.getLsbD ring.np = true) → exec (.tmovRReserve p g n) s = .next s) ∧
      (sound → ring.resv.getLsbD ring.np = false → ring.fill.getLsbD ring.np = false → ∃ st' : Store,
        Next (.tmovRReserve p g n) (s.setPlot { P with bower := st' }) { o with
          phase := .read, k := 0, ring := ring.np
          desc := o.desc.take 112 ++ leOf 4 (ring.base + ring.np * ring.ssize) ++ leOf 4 ring.ssize ++ o.desc.drop 120 } ∧
        Rings st' { ring with resv := ring.resv ||| ((1 : Word64) <<< ring.np), np := (ring.np + 1) % ring.count })) ∧
    (o.phase = .fill → Unsound (.tmovRFill p g n) ∧
      (sound → ring.wp ≠ o.ring → exec (.tmovRFill p g n) s = .next s) ∧
      (sound → ring.wp = o.ring → ∃ st' : Store,
        Next (.tmovRFill p g n) (s.setPlot { P with bower := st' }) { o with phase := .finished } ∧
        Rings st' { ring with resv := ring.resv &&& ~~~ ((1 : Word64) <<< o.ring), fill := ring.fill ||| ((1 : Word64) <<< o.ring),
                              wp := (o.ring + 1) % ring.count })) ∧
    (o.kind = .tmovV → o.phase = .claim → o.dsp = 1 → o.code = 0 → 0 < N → o.dst % 8 = 0 → o.dst + 8 ≤ P.tmpl.l1s →
      P.bower.poisoned o.dst 8 = false →
      if P.bower.nat o.dst 8 = o.aux then
        Next (.tmovVClaim p g n) (s.setPlot { P with bower := P.bower.writeN o.dst (leOf 8 (o.aux + 1)) })
          { o with phase := .write, k := 0, fid := none }
      else Next (.tmovVClaim p g n) s { o with phase := .finished, code := 1, sub := 0, elem := 0, fid := none }) ∧
    (o.kind = .tmovV → o.phase = .claim → o.dsp = 0 → o.code = 0 → 0 < N → o.fid = none →
      AllPass (gmChecks s.domain 8 false) 1 (fun _ => o.dst) → s.lookup P.ctx o.dst .atomic .engines = (.ok (.hbm b) pte, s1) →
      let s2 := s1.countAccess P.ctx o.dst (.die (P.core / 96))
      s2.poisonedLoc (.hbm b) 8 = false →
      if s2.hbm.nat b 8 = o.aux then
        Next (.tmovVClaim p g n) (({ s2 with hbm := s2.hbm.writeN b (leOf 8 (o.aux + 1)) } : State).fire (.hbm b) 8)
          { o with phase := .write, k := 0 }
      else Next (.tmovVClaim p g n) s2 { o with phase := .finished, code := 1, sub := 0, elem := 0 }) ∧
    (o.kind = .cpydec → o.phase = .claim → G.engCp.head? = some o →
      let c := s.context P.ctx
      let failing : Prop := ∃ q ∈ s.vfs, q.2.ctx = P.ctx ∧ q.2.tdisp = .error
      let Fails (code : Nat) : Prop :=
        Next (.cpydecCheck p g n) s { o with phase := .finished, code := BitVec.ofNat 8 code, sub := 0, elem := 0, fid := none }
      let ctr := fieldAt o.desc 28 8
      ((c.conf = false ∨ failing ∨ c.keys.getD o.cpySlot none = none) → Fails 0x0D) ∧
      ∀ k, c.conf = true → ¬ failing → c.keys.getD o.cpySlot none = some k →
        (k.gen ≠ o.ring → Fails 0x0D) ∧ (k.gen = o.ring → ctr ≤ k.recv → Fails 0x0E) ∧
        (k.gen = o.ring → k.recv < ctr → gcmTag (keyBytes k.key) o.cpyIv (o.data.drop 36) ≠ o.cpyTag → Fails 0x0F) ∧
        (k.gen = o.ring → k.recv < ctr → gcmTag (keyBytes k.key) o.cpyIv (o.data.drop 36) = o.cpyTag →
          Next (.cpydecCheck p g n) (s.setContext P.ctx { c with keys := c.keys.set o.cpySlot (some { k with recv := ctr }) })
            { o with phase := .write, k := 0, data := gcmText (keyBytes k.key) o.cpyIv (o.data.drop 36) }))) ∧
  (∀ (s : State) (h : Word), ∃ gangs : Tbl Gang, exec (.groupAbort h) s = .next { s with gangs := gangs } ∧
    ∀ p g G, s.gang? p g = some G → ∃ G', (({ s with gangs := gangs } : State).gang? p g) = some G' ∧
      G'.engCl = G.engCl.map (fun o => if o.cGroup = h ∧ o.phase ≠ .finished
        then { o with phase := .finished, code := 0x0C, sub := 0, elem := 0, fid := none } else o) ∧
      { G' with engCl := G.engCl } = G)

/-! ### Streams, posts and the services (R148, R185, R275 to R282, R295 to R299, R356, R366) -/

/-- R277, R299: STREAMQ reads a live value of the stream that a capability in the bower names, all ones where the capability
fails or has no READ right; AUTOQ reads a mapped record's live value, and else issues a load of the record. Bit 7 of AUTOQ.ST also
stands for a post that waits for space: log 70's choice. -/
def Claim.StreamQueries : Prop :=
  (∀ (s : State) (x : Issuer) (d a : SReg) (e : BitVec 10), Ready s x → x.G.chimes = [] → CanIssue s x [] [d.toNat, a.toNat] →
    let off : Int := (x.G.rs x.S a).toInt + e.toInt * 32
    let cap := x.P.bower.readN off.toNat 32
    let Q (i : Instr) (val : Stream → Word64) : Prop :=
      (off % 32 ≠ 0 → Traps s x i { code := 0x04, addr := BitVec.ofInt 64 off }) ∧
      (off % 32 = 0 → (off < 0 ∨ (x.P.tmpl.l1s : Int) < off + 32) → Traps s x i { code := 0x05, addr := BitVec.ofInt 64 off }) ∧
      (off % 32 = 0 → 0 ≤ off → off + 32 ≤ x.P.tmpl.l1s →
        (x.P.bower.poisoned off.toNat 32 = true → Traps s x i { code := 0x09, addr := BitVec.ofInt 64 off }) ∧
        (x.P.bower.poisoned off.toNat 32 = false → s.capHome cap ≠ some false →
          (s.unseal cap = none → Gives i s x d 0xFFFFFFFFFFFFFFFF) ∧
          ∀ st, s.unseal cap = some st →
            Gives i s x d (if fieldAt cap 2 1 / 4 % 2 = 1 then val st else 0xFFFFFFFFFFFFFFFF)))
    Q (.streamqTail d a e) (fun st => BitVec.ofNat 64 st.tail) ∧
    Q (.streamqRel d a e) (fun st => BitVec.ofNat 64 st.released) ∧
    Q (.streamqWm d a e) (fun st => if st.kind = 1 then BitVec.ofNat 64 st.w else BitVec.ofInt 64 (s.watermark st)) ∧
    Q (.streamqLate d a e) (fun st => BitVec.ofNat 64 (st.late + if st.sticky = true then 2 ^ 63 else 0))) ∧
  (∀ (s : State) (x : Issuer) (d a : SReg), Ready s x → x.G.chimes = [] → x.G.fencing x.sl = false → x.G.storing = false →
    CanIssue s x [] [d.toNat, a.toNat] →
    let addr := (x.G.rs x.S a).toNat
    let Q (i : Instr) (live : Nat → Automaton → Nat) (off size : Nat) (dest : LoadDest) : Prop :=
      (AllPass (gmChecks s.domain 64 false) 1 (fun _ => addr) →
        (∀ slot m, (s.autos.find? fun q => q.2.ctx == x.P.ctx && q.2.addr == addr) = some (slot, m) →
          Gives i s x d (BitVec.ofNat 64 (live slot m))) ∧
        ((s.autos.find? fun q => q.2.ctx == x.P.ctx && q.2.addr == addr) = none → ∃ G', exec i s = .next (s.setGang G') ∧
          GangDone s (x.set { x.G with loads := x.G.loads ++ [⟨x.G.seq + 1, x.G.seq + 1, x.sl, x.S.pc, false, dest, size,
            [(0, addr + off)], [], s.ticks⟩] }) 8 G' ∧ RegsKept x G')) ∧
      (∀ ck, FirstBad (gmChecks s.domain 64 false) 1 (fun _ => addr) ck 0 →
        Traps s x i { badTrap ck 1 (fun _ => addr) 0 3 with lanes := 0 })
    Q (.autoqSt d a) (fun slot m => 1 + 2 * slot + 2 ^ 16 * m.cands.length +
      if s.launchHeld m = true ∨ ∃ p ∈ m.posts, p.held = true then 128 else 0) 8 8 (.autoSt d) ∧
    Q (.autoqAcc d a) (fun _ m => m.accepts) 40 8 (.scl d) ∧ Q (.autoqOvf d a) (fun _ m => m.overflows) 56 4 (.scl d) ∧
    Q (.autoqExp d a) (fun _ m => m.expired) 60 4 (.scl d))

/-- R298, R366, R408: how the hub takes a post on a stream of this part, from a gang, a hart or an accepting automaton: the
checks in order, and the event written at the tail with its SEQ. A mark moves an ORDERED stream's watermark. A hart's slot is written
under the context of skctx, and a gang's or an automaton's under the stream's own (log entry 112, the model's choice, as is ADDR for a
ring outside the domain). How a hart takes its exception is log 20's presumption. -/
def Claim.HubPosts : Prop :=
  -- the outcome of a post: CODE, SUB and ELEM, and the state after it
  let Post (s : State) (c ev : List Byte) (m : Master) (w : FaultWho) (id : List Nat) (by_ : Option Nat)
      (Q : Nat → Nat → Nat → State → Prop) : Prop :=
    (s.capHome c = none → Q 4 4 0 s) ∧
    (s.capHome c = some true →
    (s.unseal c = none → Q 0x10 0 0 s) ∧
    ∀ st, s.unseal c = some st → s.streams.find (capStream c) = some st →
      let W : Int := if st.kind = 0 then s.watermark st else st.w
      let ts : Int := fieldAt ev 0 8
      if fieldAt c 2 1 % 2 = 0 then Q 0x10 0 0 s
      else if st.kind = 2 ∨ st.kind = 3 then Q 0x13 0 0 s
      else if ts ≤ W then (if st.kind = 0 then Q 0 1 0 s else Q 0x11 0 0 s)
      else if st.released + 2 ^ st.log2 ≤ st.tail then Q 0x12 0 0 s
      else ∀ loc s1, s.partAccess (by_.getD st.ctx) (st.ring + 64 * (st.tail % 2 ^ st.log2)) .engWrite m w .other id = (.ok loc, s1) →
        s1.streams = s.streams → Q 0 0 (st.tail % 2 ^ 32)
          { (s1.writeLoc loc (putAt (bytesAt ev 0 64) 8 (leOf 8 st.tail))).fire loc 64 with
            streams := s.streams.put (capStream c) { st with tail := st.tail + 1, pending := true } })
  (∀ (s : State) (p g : Nat) (P : Plot) (G : Gang) (o : EngOp), s.plot? p = some P → s.gang? p g = some G →
    G.nextPost = some o → G.pastBoundary o.seq = true → G.pastChimes o.seq = true → G.pastAcqLoads o.seq = true →
    let Ends (c u e : Nat) (t : State) : Prop := exec (.postAtHub p g) s = .next (t.setGang (G.setOp 3
      { o with phase := .finished, code := BitVec.ofNat 8 c, sub := BitVec.ofNat 8 u, elem := BitVec.ofNat 32 e, fid := none }))
    (o.kind = .evpost →
      Post s (bytesAt o.desc 0 32) (bytesAt o.desc 32 64) .engines ⟨P.lid, whoWord 0 0 g .A 7, 0, AccKind.engWrite.code⟩
        [gangKey p g] none Ends) ∧
    (o.kind = .evwm → fieldAt o.desc 40 16 = 0 → s.capHome (bytesAt o.desc 0 32) = some true →
      ∀ st, s.unseal (bytesAt o.desc 0 32) = some st →
        (fieldAt o.desc 2 1 / 2 % 2 = 0 → Ends 0x10 0 0 s) ∧
        (fieldAt o.desc 2 1 / 2 % 2 = 1 → st.kind ≠ 1 → Ends 0x13 0 0 s) ∧
        (fieldAt o.desc 2 1 / 2 % 2 = 1 → st.kind = 1 → ∃ st', Ends 0 0 0 { s with
            streams := s.streams.put (capStream (bytesAt o.desc 0 32)) st' } ∧
          st'.w = max st.w (fieldAt o.desc 32 8) ∧ st'.tail = st.tail ∧ st'.e = st.e))) ∧
  (∀ (s : State) (h : Nat) (H : Hart) (d a : BitVec 5), s.cur = .hart h → s.hart? h = some H →
    let addr := (H.reg a).toNat
    let Stop (i : Instr) (cause : Nat) (tval : Word64) : Prop := exec i s = .next (s.setHart h (H.except cause tval))
    let Ends (i : Instr) (c u e : Nat) (t : State) : Prop := exec i s = .next (t.setHart h
      { H.setReg d (BitVec.ofNat 64 (c + 256 * u + 2 ^ 32 * e)) with pc := H.pc + 4 })
    (H.skctx.getLsbD 63 = false → Stop (.skEvpost d a) 2 0 ∧ Stop (.skEvwm d a) 2 0) ∧
    (H.skctx.getLsbD 63 = true → addr % 32 ≠ 0 → Stop (.skEvpost d a) 4 (H.reg a)) ∧
    (H.skctx.getLsbD 63 = true → addr % 64 ≠ 0 → Stop (.skEvwm d a) 4 (H.reg a)) ∧
    (∀ b s1, H.skctx.getLsbD 63 = true → addr % 32 = 0 → s.readRecord h H (H.reg a) 3 = (.ok b, s1) →
      Post s1 (bytesAt b 0 32) (bytesAt b 32 64) .harts (hubWho .engWrite) [h]
        (some (H.skctx.toNat % 65536)) (Ends (.skEvpost d a))) ∧
    (∀ b s1 st, H.skctx.getLsbD 63 = true → addr % 64 = 0 → s.readRecord h H (H.reg a) 2 = (.ok b, s1) → fieldAt b 40 16 = 0 →
      s1.capHome (bytesAt b 0 32) = some true → s1.unseal (bytesAt b 0 32) = some st → fieldAt b 2 1 / 2 % 2 = 1 → st.kind = 1 →
      ∃ st', st'.w = max st.w (fieldAt b 32 8) ∧
        Ends (.skEvwm d a) 0 0 0 { s1 with streams := s1.streams.put (capStream (bytesAt b 0 32)) st' }))

/-- R185, R278 to R283, R356, R358, R359, R361: a notify raises its stream's tail, or is reported; one outside the function's IDE stream
or its context is dropped and counted, and one behind a posted write of its function is held; a fetch consumes the event at the
stream's position only with the right SEQ; a late one is counted, released to nobody, and reported on an ORDERED stream; a REPLAY
stream emits its next record with TS from its epoch; a lost record is reported once there is room. A notify with WMV set also marks
the stream, and takes effect once the entries notified before are fetched; one that lies beyond the stream's room overruns it, which is
recorded once until there is room. That a notify to an unbound page changes nothing, and that one outside its function's context is
counted as an error of the port, are log 79's choices; the tail of a REPLAY stream is log 73's, and OVERFLOW written as soon as there is
room log 72's. -/
def Claim.StreamSteps : Prop :=
  (∀ (s : State) (f : BusFn) (at_ ctx : Nat) (b : List Byte), s.fw.boot = .running → fnValid f = true →
    let page := at_ / 65536
    let off := at_ % 65536
    let open_ : Prop := s.ideBad f = false ∧ s.behind f = false
    let mayWrite : Bool := s.fnReaches f ctx && s.tableAllows targetHub (fnMaster f) .store
    (s.ideBad f = true → exec (.notify f at_ b) s = .next { s with ideDropped := s.ideDropped + 1 }) ∧
    (s.ideBad f = false → s.behind f = true →
      exec (.notify f at_ b) s = .next { s with posted := s.posted ++ [⟨some f, .notify page off b⟩] }) ∧
    (open_ → s.notifyPages.find page = none → exec (.notify f at_ b) s = .next s) ∧
    (open_ → s.notifyPages.find page = some ctx → mayWrite = false → exec (.notify f at_ b) s = .next (s.portError f.port)) ∧
    (open_ → s.notifyPages.find page = some ctx → mayWrite = true →
      (∀ r, s.notifyFail off b = some r → exec (.notify f at_ b) s =
        .next (s.errRecord ctx 0x0007 0 (leOf 4 page ++ leOf 4 r ++ leOf 4 0))) ∧
      (∀ st, s.notifyFail off b = none → s.streams.find (capStream b) = some st →
        let tail := fieldAt b 32 8
        let mark := fieldAt b 40 8
        let beyond : Prop := st.released + 2 ^ st.log2 < tail
        let marks : Prop := fieldAt b 48 1 = 1 ∧ st.w < mark
        ∃ st' : Stream, exec (.notify f at_ b) s = .next (
            let t : State := { s with streams := s.streams.put (capStream b) st' }
            if beyond ∧ st.overrun = false then
              t.errRecord st.ctx 0x0006 0 ([capStream b, tail % 2 ^ 32, st.released % 2 ^ 32, 0].flatMap (leOf 4))
            else t) ∧
          st' = { st with tail := st'.tail, overrun := st'.overrun, pending := st'.pending, w := st'.w, weff := st'.weff,
                          marks := st'.marks } ∧
          st'.tail = max st.tail tail ∧ st'.pending = decide (st.e < st'.tail) ∧
          (st'.overrun = true ↔ st.overrun = true ∨ beyond) ∧
          (¬ marks → st'.w = st.w ∧ st'.weff = st.weff ∧ st'.marks = st.marks) ∧
          (marks → st'.w = mark ∧ (st'.tail ≤ st.e → st'.weff = max st.weff mark ∧ st'.marks = st.marks) ∧
            (st.e < st'.tail → st'.weff = st.weff ∧ st'.marks = st.marks ++ [(mark, st'.tail)]))))) ∧
  (∀ (s s1 : State) (n : Nat) (st : Stream) (loc : Loc), s.fw.boot = .running → s.scanNext = some n → s.streams.find n = some st →
    s.partAccess st.ctx (st.ring + 64 * (st.e % 2 ^ st.log2)) .engRead .escapement (hubWho .engRead) .other [n] =
      (.ok loc, s1) →
    let ev := s1.readLoc loc 64
    ((s1.poisonedLoc loc 64 = true ∨ fieldAt ev 8 8 ≠ st.e) → exec (.streamFetch n) s = .next { s1 with scan := (n + 1) % 4096 }) ∧
    (s1.poisonedLoc loc 64 = false → fieldAt ev 8 8 = st.e → (st.kind = 3 ∨ s1.watermark st < fieldAt ev 0 8) →
      ∃ st', exec (.streamFetch n) s = .next { s1 with scan := (n + 1) % 4096, streams := s1.streams.put n st' } ∧
        st'.e = st.e + 1 ∧ st'.tail = st.tail ∧ st'.pending = decide (st.e + 1 < st.tail) ∧ st'.late = st.late ∧
        (∀ v ∈ st'.evq, v ∈ st.evq ∨ v = ⟨st.e, ev⟩) ∧
        ((∃ r ∈ st.readers, r.pos ≤ st.e ∧ ∀ q ∈ st.readers, r.pos ≤ q.pos) → ⟨st.e, ev⟩ ∈ st'.evq)) ∧
    (s1.poisonedLoc loc 64 = false → fieldAt ev 8 8 = st.e → st.kind ≠ 3 → (fieldAt ev 0 8 : Int) ≤ s1.watermark st →
      ∃ st', st'.e = st.e + 1 ∧ st'.tail = st.tail ∧ st'.pending = decide (st.e + 1 < st.tail) ∧
        st'.late = min (st.late + 1) (2 ^ 32 - 1) ∧ (∀ v ∈ st'.evq, v ∈ st.evq) ∧
        let t : State := { s1 with scan := (n + 1) % 4096, streams := s1.streams.put n st' }
        (st.kind ≠ 1 → exec (.streamFetch n) s = .next t) ∧
        (st.kind = 1 → exec (.streamFetch n) s = .next (t.errRecord st.ctx 0x0005 0 (leOf 4 n ++
          leOf 4 (fieldAt ev 0 8 % 2 ^ 32) ++ leOf 4 (fieldAt ev 0 8 / 2 ^ 32) ++ leOf 4 (fieldAt ev 8 8 % 2 ^ 32)))))) ∧
  (∀ (s s1 : State) (n : Nat) (st : Stream) (loc : Loc), s.fw.boot = .running → s.streams.find n = some st → st.kind = 2 →
    st.e < st.nrec * st.epochs → st.nrec ≤ 2 ^ 32 → st.epoch0 + st.epochs ≤ 2 ^ 31 →
    let ep := st.epoch0 + st.e / st.nrec
    let pos := st.e % st.nrec
    s.partAccess st.ctx (st.ring + 64 * replayOrder st.nrec st.seed ep pos) .engRead .escapement (hubWho .engRead) .other [n] =
      (.ok loc, s1) →
    ∃ st', exec (.replayEmit n) s = .next { s1 with streams := s1.streams.put n st' } ∧ st'.e = st.e + 1 ∧
      st'.tail = st.e + 1 ∧ st'.late = st.late ∧
      ((∃ r ∈ st.readers, r.pos ≤ st.e) → ∃ v ∈ st'.evq, v.idx = st.e ∧
        v.bytes = leOf 8 (ep * 2 ^ 32 + pos) ++ leOf 8 st.e ++ (s1.readLoc loc 64).drop 16)) ∧
  (∀ (s s1 : State) (n : Nat) (st : Stream) (pte : Nat) (loc : Loc), s.streams.find n = some st →
    (st.lost = 0 → exec (.errorOverflowRecord n) s = .next s) ∧
    (0 < st.lost → st.tail < st.released + 2 ^ st.log2 →
      s.lookup st.ctx (st.ring + 64 * (st.tail % 2 ^ st.log2)) .engWrite .escapement = (.ok loc pte, s1) →
      ∃ bs : List Byte, exec (.errorOverflowRecord n) s = .next { State.raiseSource ((s1.writeLoc loc bs).fire loc bs.length) .errorStream with
          streams := (s1.streams.put n { st with tail := st.tail + 1, pending := true }).put n
            { st with tail := st.tail + 1, pending := true, lost := 0, lostKind := 0, lostW0 := 0, lostTs := 0 } } ∧
        fieldAt bs 8 8 = st.tail % 2 ^ 64 ∧ fieldAt bs 16 2 = 0x00FF ∧ fieldAt bs 24 4 = st.lost % 2 ^ 32))

/-- R46, R147, R148, R275, R277, R295, R356: what the services do: a stream's creation and end, a capability's issue and its
generation, a registration's end, the acknowledgement of an ERROR stream, a call's steps, a scratchpad grant and its
revocation, and the loading of code. The service's decision on a grant, and the pad that it shares, come with the event (log 92), and a
grant that is replaced or released is given up at once (log 103). The generation 0 of a stream that is created is log 73's reading; what services 1, 3 and 4 answer is
log 6's free value. -/
def Claim.Services : Prop :=
  (∀ (s : State) (n : Nat) (c : StreamCfg),
    ((s.booted = false ∨ s.mayCreate n c = false) → exec (.streamCreate n c) s = .next s) ∧
    (s.booted = true → s.mayCreate n c = true → c.kind ≠ 3 → ∃ st, exec (.streamCreate n c) s = .next { s with streams := s.streams.put n st } ∧
      st.kind = c.kind ∧ st.ring = c.ring ∧ st.log2 = c.log2 ∧ st.ctx = c.ctx ∧ st.tail = 0 ∧ st.e = 0 ∧ st.gen = 0 ∧
      st.readers = [] ∧ st.pending = false)) ∧
  (∀ (s : State) (n : Nat) (st : Stream), s.streams.find n = some st →
    (exec (.genRaise n) s = .next { s with streams := s.streams.put n { st with gen := (st.gen + 1) % 65536 } }) ∧
    ((s.context st.ctx).errStream ≠ some n → exec (.streamDelete n) s = .next { s with streams := s.streams.del n }) ∧
    (∀ (rights : BitVec 4) (ctx addr : Nat) (loc : Loc) (pte : Nat) (s1 : State), st.ctx < 65536 → n < 4096 → st.gen < 65536 →
      st.log2 < 32 → st.kind < 4 → st.ring < 2 ^ 64 → s.booted = true → s.lookup ctx addr .engWrite .harts = (.ok loc pte, s1) →
      ∃ cap : List Byte, exec (.capabilityIssue n rights ctx addr) s = .next ((s1.writeLoc loc cap).fire loc 32) ∧ cap.length = 32 ∧
        capStream cap = n ∧ capKind cap = st.kind ∧ capLog2 cap = st.log2 ∧ capRights cap = rights.toNat ∧
        capCtx cap = st.ctx ∧ capGen cap = st.gen ∧ capRing cap = st.ring ∧ bytesAt cap 20 12 = s.seal cap) ∧
    (∀ (idx : Word64) (clear : Bool), exec (.errorStreamAcknowledge n idx clear) s = .next (if st.kind = 3
      then { s with streams := s.streams.put n { st with
        acked := max st.acked (min idx.toNat st.tail), sticky := st.sticky && !clear } } else s))) ∧
  (∀ (s : State) (ctx : Nat) (rid : Word64), ∃ streams, exec (.registrationDelete ctx rid) s = .next { s with
      streams := streams, members := s.members.filter fun m => !(m.ctx == ctx && m.rid == rid) } ∧
    ∀ n st', streams.find n = some st' → ∃ st, s.streams.find n = some st ∧ st'.tail = st.tail ∧ st'.e = st.e ∧
      ∀ r ∈ st'.readers, r ∈ st.readers ∧ ¬ (r.ctx = ctx ∧ r.rid = rid)) ∧
  -- a call's step: an unknown service, a call that repeats, a grant request, a release, and the code-load service
  (∀ (s : State) (p g n : Nat) (P : Plot) (G : Gang) (o : EngOp), EngineAt s p g 3 n P G o → o.kind = .svcall → o.phase = .start →
    P.id = p → G.plot = p → G.idx = g →
    let service := fieldAt o.desc 0 4
    let function := fieldAt o.desc 4 4
    let key := (P.lid, service, BitVec.ofNat 64 (fieldAt o.desc 8 8))
    let Ends (code : BitVec 8) (data : List Byte) : EngOp :=
      { o with phase := .finished, code := code, sub := 0, elem := 0, fid := none, data := data }
    let i : Instr := .engineAccess p g 3 n
    (service = 0 ∨ 4 < service → exec i s = .next (s.setGang (G.setOp 3 (Ends 0x19 o.data)))) ∧
    (1 ≤ service → service ≤ 4 →
      (∀ r, assoc (s.context P.ctx).calls key = some r → exec i s = .next (s.setGang (G.setOp 3 (Ends 0 (leOf 8 r.toNat))))) ∧
      (assoc (s.context P.ctx).calls key = none →
        (service = 2 → function = 1 → exec i s = .next (s.setGang (G.setOp 3 { o with phase := .wait }))) ∧
        (service ≠ 2 ∨ function ≠ 1 → ∃ (t : State) (r : Word64), exec i s = .next t ∧
          t.gang? p g = some (G.setOp 3 (Ends 0 (leOf 8 r.toNat))) ∧ assoc (t.context P.ctx).calls key = some r ∧
          (service = 2 → function = 2 → fieldAt o.desc 16 8 = 1 → t.plot? p = some { P with pav := none }) ∧
          (service = 2 → function = 2 → fieldAt o.desc 16 8 = 2 → t.plot? p = some { P with cons := none }) ∧
          (service = 4 → ∀ c C, t.cores.find c = some C → ∀ l ∈ C.icache, l.1.1 ≠ P.ctx))))) ∧
  -- the service's answer to a grant request
  (∀ (s : State) (p g n : Nat) (P : Plot) (G : Gang) (o : EngOp), s.plot? p = some P → s.gang? p g = some G →
    G.op? 3 n = some o → o.kind = .svcall → o.phase = .wait → P.away = false → P.id = p → G.plot = p → G.idx = g →
    let key := (P.lid, fieldAt o.desc 0 4, BitVec.ofNat 64 (fieldAt o.desc 8 8))
    let lv := fieldAt o.desc 16 8
    let size := fieldAt o.desc 24 8
    let span := fieldAt o.desc 32 8
    let home := if lv = 1 then P.core / 12 else dieOf P.core
    let Holds (x : Grant) : Plot := if lv = 1 then { P with pav := some x } else { P with cons := some x }
    let Ends (r : Nat) : Gang :=
      G.setOp 3 { o with phase := .finished, code := 0, sub := 0, elem := 0, fid := none, data := leOf 8 r }
    (∀ accept share r, assoc (s.context P.ctx).calls key = some r →
      exec (.scratchGrant p g n accept share) s = .next (s.setGang (Ends r.toNat))) ∧
    (assoc (s.context P.ctx).calls key = none →
      (∀ share, ∃ t, exec (.scratchGrant p g n false share) s = .next t ∧ t.gang? p g = some (Ends 1) ∧ t.plot? p = some P) ∧
      (let s0 := (s.setPlot (if lv = 1 then { P with pav := none } else { P with cons := none })).dropPads
       (lv = 1 ∨ lv = 2) → size % 128 = 0 → size ≠ 0 → span < 6 → s0.padLoad lv home + size ≤ (if lv = 1 then 2 ^ 23 else 2 ^ 26) →
        ∃ t, exec (.scratchGrant p g n true none) s = .next t ∧ t.gang? p g = some (Ends 0) ∧
          assoc (t.context P.ctx).calls key = some 0 ∧ t.plot? p = some (Holds ⟨s.nextKey, size, span⟩) ∧
          t.pads.find s.nextKey = some ⟨lv, home, P.ctx, size, ⟨[], []⟩⟩ ∧
          ∀ k, k ≠ s.nextKey → t.pads.find k = s0.pads.find k) ∧
      (∀ pad q, (lv = 1 ∨ lv = 2) → span < 6 → s.pads.find pad = some q → q.level = lv → q.home = home → q.ctx = P.ctx →
        ∃ t, exec (.scratchGrant p g n true (some pad)) s = .next t ∧ t.gang? p g = some (Ends 0) ∧
          t.plot? p = some (Holds ⟨pad, q.size, span⟩) ∧ t.pads.find pad = some q))) ∧
  (∀ (s : State) (p : Nat) (level : BitVec 2) (P : Plot), s.plot? p = some P → P.id = p →
    let busy : Prop := ∃ G ∈ s.gangsOf p, ∃ o ∈ G.engCp ++ G.engGs ++ G.engCl, o.phase ≠ .finished ∧ o.uses (level.toNat + 1) = true
    (busy → exec (.grantRevoke p level) s = .next s) ∧
    (¬ busy → ∃ t, exec (.grantRevoke p level) s = .next t ∧
      t.plot? p = some (if level = 1 then { P with pav := none } else if level = 2 then { P with cons := none } else P))) ∧
  -- code stands in memory where translation puts it, and no line of the context is left in an instruction cache
  (∀ (s : State) (ctx addr : Nat) (bs : List Byte), ∃ t, exec (.codeLoad ctx addr bs) s = .next t ∧
    (∀ c C, t.cores.find c = some C → ∀ l ∈ C.icache, l.1.1 ≠ ctx) ∧
    ∀ b pte, (∀ i < bs.length, (s.tlbHit ctx (ownerOf (addr + i)) (offOf (addr + i)) .engWrite).isSome = true ∧
        s.lookup ctx (addr + i) .engWrite .harts = (.ok (.hbm (b + i)) pte, s)) →
      (∀ i < bs.length, t.hbm.mem.read (b + i) = bs.getD i 0) ∧
      ∀ a, (a < b ∨ b + bs.length ≤ a) → t.hbm.mem.read a = s.hbm.mem.read a)

/-! ### Mapped automata (R286 to R292, R408) -/

/-- R287 to R293, R408: a released event goes to the candidates, oldest first, until one consumes it; one that none consumes creates a
candidate by the first transition out of state 0 that matches; a creation at CAPACITY is an overflow, which POLICY settles; a timeout
moves its candidate and an expiry removes it; a launch enters the backlog of its template's priority; a post takes its step; a record
moves to a free slot. That the priority is read at the backlog entry is log 71's reading, and that a PRIO above 11 enters backlog 11 is
log 113's choice. -/
def Claim.AutomatonSteps : Prop :=
  (∀ (s : State) (slot : Nat) (a : Automaton), s.autos.find slot = some a → s.autoBlocked a = false → a.TagsOk →
    (∀ o, s.nextItem a = some (.event o) → ∃ t a', exec (.eventRelease slot) s = .next t ∧ t.autos.find slot = some a' ∧
      a'.TagsOk ∧ a'.raw = a.raw ∧ a.hdone ≤ a'.hdone ∧ a'.expired = a.expired ∧
      let r := a.offers o a.cands
      let ts := fieldAt o.ev 0 8
      let creates := (a.exits 0).find? fun q => q.matchesCand (a.newCand a.nextCand ts) o
      let Kept (cs acc : List Cand) : Prop := a'.cands = cs ∧ a'.nextCand = a.nextCand ∧ Accepts a acc ts a'
      let Created (q : Trans) (cs : List Cand) : Prop :=
        let c := q.apply (a.newCand a.nextCand ts) o
        a'.nextCand = (a.nextCand + 1) % 2 ^ 64 ∧
          if a.act q.dest = 0 then Inserted cs c a'.cands ∧ Accepts a r.2.1 ts a'
          else a'.cands = cs ∧ Accepts a (r.2.1 ++ [c]) ts a'
      (r.2.2 = true ∨ creates = none → Kept r.1 r.2.1 ∧ a'.overflows = a.overflows ∧ a'.diags = a.diags) ∧
      (∀ q, r.2.2 = false → creates = some q →
        (r.1.length < a.capacity → Created q r.1 ∧ a'.overflows = a.overflows ∧ a'.diags = a.diags) ∧
        (a.capacity ≤ r.1.length →
          let due (c : Cand) : Int := (a.deadline c).getD (2 ^ 80)
          let Overflow (cs : List Cand) (birth : Nat) : Prop :=
            a'.overflows = min (a.overflows + 1) (2 ^ 32 - 1) ∧
            (a.diag = false → a'.diags = a.diags) ∧
            (a.diag = true → a.diags ≠ [] → ∃ ev, a'.diags = a.diags ++ [ev] ∧ fieldAt ev 0 8 = ts ∧ fieldAt ev 16 2 = 0xFFF0 ∧
              fieldAt ev 20 4 = a.rid.toNat % 2 ^ 32 ∧ fieldAt ev 24 4 = a.policy ∧ fieldAt ev 28 8 = birth % 2 ^ 64 ∧
              fieldAt ev 36 4 = a.srcStream o.src ∧ fieldAt ev 40 4 = o.idx % 2 ^ 32) ∧
            if a.policy = 1 then Kept cs r.2.1 else Created q cs
          (a.policy = 1 → Overflow r.1 (2 ^ 64 - 1)) ∧
          (a.policy = 0 → ∀ c cs, r.1 = c :: cs → Overflow cs c.birth) ∧
          (a.policy = 2 → ∀ before c after, r.1 = before ++ c :: after → (∀ x ∈ before, due c < due x) →
            (∀ x ∈ after, due c ≤ due x) → (∀ x ∈ r.1, ∀ d, a.deadline x = some d → d < 2 ^ 80) → Overflow (before ++ after) c.birth)))) ∧
    (s.nextItem a = none → ∃ t a', exec (.eventRelease slot) s = .next t ∧ t.autos.find slot = some a' ∧
      a'.cands = a.cands ∧ a.hdone ≤ a'.hdone) ∧
    (∀ d c, s.nextItem a = some (.virtual d c) → ∃ t a', exec (.virtualEventFire slot) s = .next t ∧
      t.autos.find slot = some a' ∧ a'.TagsOk ∧ a.hdone ≤ a'.hdone ∧
      let q := fieldOf (a.stateWord c.state 0) 48 4
      (a.timesOut c = false → a'.cands = a.cands.filter (fun q => q.uid != c.uid) ∧
        a'.expired = min (a.expired + 1) (2 ^ 32 - 1)) ∧
      (a.timesOut c = true → a.act q = 0 → ∃ f, a'.cands = a.cands.map (fun x => if x.uid = c.uid then f else x) ∧ f.state = q ∧
        f.binds = c.binds ∧ f.xreset = c.xreset ∧ f.key = c.key ∧ f.birth = c.birth ∧ f.fired = some d) ∧
      (a.timesOut c = true → a.act q ≠ 0 → a'.cands = a.cands.filter (fun x => x.uid != c.uid) ∧
        Accepts a [{ c with state := q }] d.toNat a'))) ∧
  (∀ (s : State) (slot : Nat), (∀ l ∈ s.slotLaunches slot, s.mayEnter l = false) ∨ 65536 ≤ s.backlogLoad →
    exec (.launchBacklogEntry slot) s = .next s) ∧
  (∀ (s s1 : State) (slot : Nat) (l : Launch) (loc : Loc), (s.slotLaunches slot).find? s.mayEnter = some l → s.backlogLoad < 65536 →
    s.partAccess l.ctx (l.tmplAt + 26) .engRead .escapement (hubWho .engRead) .other [slot] = (.ok loc, s1) →
    let prio := min (natOf (s1.readLoc loc 1)) 11
    ∃ t, exec (.launchBacklogEntry slot) s = .next t ∧ t.backlog = s1.backlog ++ [⟨prio, s1.ordNext, .launch { l with prio := prio }, s1.time.toNat⟩] ∧
      t.ordNext = s1.ordNext + 1 ∧
      (∀ a ls, s.autos.find slot = some a → a.launches = l :: ls →
        t.autos = s1.autos.put slot { a with launches := ls } ∧ t.orphans = s1.orphans) ∧
      (s.autos.find slot = none → t.autos = s1.autos ∧ t.orphans = s1.orphans.filter fun x => x != l)) ∧
  (∀ (s s1 : State) (slot : Nat) (a : Automaton) (q : Post) (qs : List Post) (c u e : Nat), s.autos.find slot = some a →
    a.diags = [] → a.posts = q :: qs → s.hubPost (a.cap q.cap) q.bytes .escapement (hubWho .engWrite) [slot, q.cap] = (.done c u e, s1) →
    let dropped : State := { s1 with autos := s1.autos.put slot { a with posts := qs } }
    exec (.postAction slot) s = .next (
      if c = 0 then dropped
      else if c = 0x12 then { s1 with autos := s1.autos.put slot { a with posts := { q with held := true } :: qs } }
      else dropped.errRecord a.ctx 0x0009 0
        (leOf 4 slot ++ leOf 4 (q.aseq % 2 ^ 32) ++ leOf 4 c ++ leOf 4 (capStream (a.cap q.cap))))) ∧
  (∀ (s s1 : State) (slot : Nat) (a : Automaton) (b : List Byte) (bs : List (List Byte)) (c u e : Nat), s.autos.find slot = some a →
    a.posts = [] → a.diags = b :: bs → s.hubPost (a.cap 4) b .escapement (hubWho .engWrite) [slot, 4] = (.done c u e, s1) →
    exec (.postAction slot) s = .next { s1 with autos := s1.autos.put slot { a with
      diags := bs, diagFails := if c = 0 then a.diagFails else a.diagFails + 1 } }) ∧
  (∀ (s : State) (slot new : Nat) (a : Automaton), s.autos.find slot = some a → s.autos.find new = none → new < 64 →
    exec (.firmwareRecordRemap slot new) s = .next { s with autos := (s.autos.del slot).put new a })

/-- R275 to R283, R297, R298: stream queries, posts and marks at the hub, and the steps of the streams. -/
def Obligations.StreamsAndPosts : Prop := Claim.StreamQueries ∧ Claim.HubPosts ∧ Claim.StreamSteps

/-- R284 to R295, R299: the service calls and the steps of the automata. -/
def Obligations.ServicesAndAutomata : Prop := Claim.Services ∧ Claim.AutomatonSteps

/-! ### Chimes (R301 to R318) -/

/-- R96, R308, R313 to R318: every other chime word goes to the hub with its operands, and its status register waits for the answer;
CHWAIT parks or, where no chime can reach the gang, only issues. CHPERM.DES takes its step at the hub as it issues, after its gang's
earlier requests (log entry 54, the model's choice): the id of the target that its gang is, all ones where another gang is its plot's
target, and without one, once its address has passed its checks, a new designation, or all ones but bit 0 when no index is left. -/
def Claim.ChimeWords : Prop :=
  let Sends (s : State) (x : Issuer) (i : Instr) (act : HubAct) (d : SReg) (len : Nat) : Prop :=
    ∃ G', exec i s = .next (s.setGang G') ∧ RegsKept x G' ∧
      GangDone s (x.set { x.G with chimes := x.G.chimes ++ [⟨x.G.seq + 1, act, d, false⟩] }) len G'
  (∀ (s : State) (x : Issuer) (d a : SReg) (v : BitVec 6), Ready s x →
    let target : Word := (x.G.rs x.S a).setWidth 32
    (∀ r, CanIssue s x [] [d.toNat, a.toNat, r.toNat] →
      Sends s x (.chime d a (.reg r) v) (.ring target v.toNat ((x.G.rs x.S r).setWidth 32)) d 8) ∧
    (∀ k, CanIssue s x [] [d.toNat, a.toNat] → Sends s x (.chime d a (.k32 k) v) (.ring target v.toNat k) d 12)) ∧
  (∀ (s : State) (x : Issuer), Ready s x → CanIssue s x [] [] →
    if x.P.target ≠ none ∧ x.P.handler = x.G.idx ∧ x.G.chentry ≠ 0 then
      ∃ G', exec .chwait s = .next ((s.setGang G').settled x.P.id) ∧ Blocks s x (.chwait s.ticks) G'
    else Moves .chwait s x (some (x.S.pc + 8, x.S.mask, .none)) x.other) ∧
  (∀ (s : State) (x : Issuer) (d a : SReg), Ready s x → x.G.chimes ≠ [] → exec (.chpermDes d a) s = .next s) ∧
  (∀ (s : State) (x : Issuer) (d a : SReg), Ready s x → x.G.chimes = [] → CanIssue s x [] [d.toNat, a.toNat] →
    let addr := (x.G.rs x.S a).toNat
    let n := (s.context x.P.ctx).nextTarget
    let tid := s.partno * 2 ^ 28 + (n + 1)
    (∀ k, x.P.target = some k → Gives (.chpermDes d a) s x d
      (if x.P.handler = x.G.idx then BitVec.ofNat 64 k else 0xFFFFFFFFFFFFFFFF)) ∧
    (∀ ck, x.P.target = none → FirstBad (gmChecks s.domain 2048 false) 1 (fun _ => addr) ck 0 →
      Traps s x (.chpermDes d a) { badTrap ck 1 (fun _ => addr) 0 3 with lanes := 0 }) ∧
    (x.P.target = none → AllPass (gmChecks s.domain 2048 false) 1 (fun _ => addr) →
      (0x0FFFFFFE ≤ n → Gives (.chpermDes d a) s x d 0xFFFFFFFFFFFFFFFE) ∧
      (n < 0x0FFFFFFE → x.P.place = .resident → (∀ q ∈ s.plots, q.2.id = q.1) → ∃ (t : State) (G' : Gang),
        exec (.chpermDes d a) s = .next (t.setGang G') ∧ GangDone s x 8 G' ∧ SclSet x d (BitVec.ofNat 64 tid) G' ∧
        t.plot? x.G.plot = some { x.P with target := some tid, handler := x.G.idx } ∧ (t.context x.P.ctx).nextTarget = n + 1 ∧
        t.target? x.P.ctx tid = some ⟨x.P.ctx, x.G.plot, x.G.idx, addr, 0, 0,
          List.replicate 64 ⟨0, 0, 0, 0, 0⟩, List.replicate 32 (0, 0), 0, 0⟩))) ∧
  (∀ (s : State) (x : Issuer) (d a b : SReg) (k : BitVec 5) (v : BitVec 6), Ready s x →
    CanIssue s x [] [d.toNat, a.toNat, b.toNat] →
    let A := x.G.rs x.S a
    Sends s x (.chpermSet d a b k) (.perm k.toNat (A.setWidth 24) (x.G.rs x.S b)) d 8 ∧
    Sends s x (.chpermVec d a v) (.mode v.toNat (A.setWidth 2)) d 8 ∧ Sends s x (.chpermEn d a) (.enable A) d 8 ∧
    Sends s x (.chinfoPend d) .infoPend d 8 ∧ Sends s x (.chinfoEn d) .infoEn d 8 ∧ Sends s x (.chinfoDeny d) .infoDeny d 8 ∧
    Sends s x (.chinfoVec d v) (.infoVec v.toNat false) d 8 ∧ Sends s x (.chinfoVecTake d v) (.infoVec v.toNat true) d 8)

/-- R304 to R310, R314, R317, R318: a gang's oldest request takes its step at the hub and its register receives the answer: a chime is
GONE without a target and DENIED without permission, else the vector's entry takes it, the status says whether the gang is on
its core, and a chime to an enabled vector makes a saved plot runnable, unless it is suspended; CHPERM changes the target,
CHINFO reads it, and VEC.TAKE also ends the vector's pending state. A doorbell is a chime under its page's sender. A due vector
is delivered at its gang's boundary with the handler's registers set, also in a plot that halts for its save, which is then runnable. -/
def Claim.ChimeSteps : Prop :=
  -- how a vector's entry takes a chime
  let Rings (now : Nat) (t t' : Target) (v : Nat) (p : Word) (sid : BitVec 24) : Prop :=
    let e := t.vecs.getD v ⟨0, 0, 0, 0, 0⟩
    t'.pend = t.pend ||| (1 <<< v) ∧ t'.enable = t.enable ∧ t'.perms = t.perms ∧ t'.denied = t.denied ∧
      (∀ w, w ≠ v → t'.vecs.getD w ⟨0, 0, 0, 0, 0⟩ = t.vecs.getD w ⟨0, 0, 0, 0, 0⟩) ∧
      (v < t.vecs.length → t'.vecs.getD v ⟨0, 0, 0, 0, 0⟩ =
        if t.pend.getLsbD v = true then
          { e with
            payload := if e.mode = 0 then e.payload ||| p
              else if e.mode = 1 then BitVec.ofNat 32 (min (e.payload.toNat + p.toNat) (2 ^ 32 - 1))
              else if e.mode = 2 then p else e.payload
            lsid := if e.mode = 3 then e.lsid else sid
            count := min (e.count + 1) 65535 }
        else { e with payload := p, count := 1, lsid := sid, at_ := now })
  let permitted (t : Target) (sid : BitVec 24) (v : Nat) : Prop := ∃ q ∈ t.perms, q.1 = sid ∧ q.2.getLsbD v = true
  -- a chime's step at the target table: its status and the state after it
  let Step (s : State) (ctx tid v : Nat) (p : Word) (sid : BitVec 24) (Ends : State → Nat → Prop) : Prop :=
    (s.target? ctx tid = none → Ends s 3) ∧
    ∀ t, s.target? ctx tid = some t →
      (¬ permitted t sid v → Ends (s.setTarget tid { t with denied := min (t.denied + 1) (2 ^ 32 - 1) }) 2) ∧
      (permitted t sid v → t.ctx = ctx → ∀ Q, s.plot? t.plot = some Q → Q.id = t.plot → ∃ t', Rings s.ticks t t' v p sid ∧
        (Q.place = .resident → Ends (s.setTarget tid t') (if Q.suspended = true then 1 else 0)) ∧
        (Q.place = .saved → Q.suspended = true ∨ Q.runnable = true ∨ t.enable.getLsbD v = false → Ends (s.setTarget tid t') 1) ∧
        (Q.place = .saved → Q.suspended = false → Q.runnable = false → t.enable.getLsbD v = true → ∃ u : State, Ends u 1 ∧
          u.target? ctx tid = some t' ∧ u.plot? t.plot = some { Q with runnable := true } ∧
          u.backlog = s.backlog ++ [⟨Q.tmpl.prio, s.ordNext, .plot Q.id, s.time.toNat⟩] ∧ u.hbm = s.hbm ∧ u.host = s.host ∧ u.gangs = s.gangs) ∧
        (Q.place = .halted → Q.suspended = false → Q.runnable = false → t.enable.getLsbD v = true →
          Ends ((s.setTarget tid t').setPlot { Q with runnable := true }) 0))
  (∀ (s : State) (p g : Nat) (P : Plot) (G : Gang) (c : ChimeReq) (cs : List ChimeReq), s.plot? p = some P → P.id = p →
    s.gang? p g = some G → P.away = false → G.chimes = c :: cs → (c.sh = true → 56 ≤ c.dest.toNat ∧ c.dest.toNat ≤ 60) →
    let Ends (t : State) (value : Word64) : Prop := ∃ G', exec (.chimeStep p g) s = .next (t.setGang G') ∧
      G'.chimes = cs ∧ G'.v = G.v ∧ G'.p = G.p ∧
      (c.sh = false → G'.shadow = G.shadow ∧ ∀ S k, G'.rs S k =
        if k = c.dest ∧ c.dest ≠ 0 ∧ c.dest.toNat < 61 then value else G.rs S k) ∧
      (c.sh = true → G'.s = G.s ∧ G'.shadow = G.shadow.set! (c.dest.toNat - 56) value)
    (∀ tgt v pl, c.what = .ring tgt v pl →
      (G.pastBoundary c.seq = false → exec (.chimeStep p g) s = .next s) ∧
      (G.pastBoundary c.seq = true → tgt.toNat / 2 ^ 28 = s.partno →
        Step s P.ctx tgt.toNat v pl (BitVec.ofNat 24 (2 ^ 23 + 2 ^ 18 * (s.partno % 16) + P.lid % 2 ^ 18)) fun t status =>
          Ends t (BitVec.ofNat 64 status))) ∧
    (s.targetOf P = none → ((∃ m sid mask, c.what = .perm m sid mask) ∨ (∃ v m, c.what = .mode v m) ∨ (∃ e, c.what = .enable e) →
        Ends s 1) ∧
      (c.what = .infoPend ∨ c.what = .infoEn ∨ c.what = .infoDeny ∨ (∃ v take, c.what = .infoVec v take) → Ends s 0)) ∧
    ∀ tid t, s.targetOf P = some (tid, t) →
      let entry (v : Nat) : ChVec := t.vecs.getD v ⟨0, 0, 0, 0, 0⟩
      (∀ m sid mask, c.what = .perm m sid mask → Ends (s.setTarget tid { t with perms := t.perms.set m (sid, mask) }) 0) ∧
      (∀ v m, c.what = .mode v m → Ends (s.setTarget tid { t with vecs := t.vecs.set v { entry v with mode := m } }) 0) ∧
      (∀ e, c.what = .enable e → P.place = .resident → Ends (s.setTarget tid { t with enable := e }) 0) ∧
      (c.what = .infoPend → Ends (s.setTarget tid t) t.pend) ∧ (c.what = .infoEn → Ends (s.setTarget tid t) t.enable) ∧
      (c.what = .infoDeny → Ends (s.setTarget tid t) (BitVec.ofNat 64 t.denied)) ∧
      (∀ v take, c.what = .infoVec v take → Ends
        (s.setTarget tid (if take = true then { t with pend := t.pend &&& ~~~ ((1 : Word64) <<< v) } else t))
        (BitVec.ofNat 64 ((entry v).payload.toNat + 2 ^ 32 * (entry v).count + 2 ^ 48 * (entry v).mode.toNat +
          (if t.pend.getLsbD v = true then 2 ^ 50 else 0) + if t.enable.getLsbD v = true then 2 ^ 51 else 0)))) ∧
  (∀ (s : State) (f : BusFn) (at_ ctx : Nat) (sid : BitVec 24) (b : List Byte), s.doorbells.find (at_ / 65536) = some (ctx, sid) →
    s.fw.boot = .running → fnValid f = true → s.ideBad f = false → s.behind f = false →
    let mayWrite : Bool := s.fnReaches f ctx && s.tableAllows targetHub (fnMaster f) .store
    let ok := at_ % 65536 % 16 = 0 ∧ b.length = 16 ∧ fieldAt b 4 1 < 64 ∧ fieldAt b 5 3 = 0 ∧ fieldAt b 12 4 = 0
    (mayWrite = false → exec (.doorbellWrite f at_ b) s = .next (s.portError f.port)) ∧
    (mayWrite = true → ¬ ok → exec (.doorbellWrite f at_ b) s = .next { s with doorbellErrors := s.doorbellErrors + 1 }) ∧
    (mayWrite = true → ok → fieldAt b 0 4 / 2 ^ 28 = s.partno →
      Step s ctx (fieldAt b 0 4) (fieldAt b 4 1) (BitVec.ofNat 32 (fieldAt b 8 4)) sid fun t _ =>
        exec (.doorbellWrite f at_ b) s = .next t)) ∧
  (∀ (s : State) (p g : Nat) (P : Plot) (G : Gang) (tid : Nat) (t : Target) (v : Nat), s.plot? p = some P →
    s.gang? p g = some G → P.place ≠ .saved → P.suspended = false → P.saving = none → P.id = p → G.plot = p → G.idx = g →
    G.defer = [] → s.denialDue G = false → G.storing = false → P.target = some tid → P.handler = g → s.target? P.ctx tid = some t → G.chentry ≠ 0 → G.frames = [] → G.life = .running →
    (∀ sl S, G.slot sl = some S → S.wait = .none) → v < 64 → t.pend.getLsbD v = true → t.enable.getLsbD v = true →
    (∀ w < v, ¬ (t.pend.getLsbD w = true ∧ t.enable.getLsbD w = true)) →
    let e := t.vecs.getD v ⟨0, 0, 0, 0, 0⟩
    ∃ t0 : State, ∃ G', exec (.chimeDelivery p g) s = .next (((t0.setPlot { P with
        claims := P.claims.filter fun c => c.gang != g, runnable := P.runnable || P.place == .halted }).setGang G').settled p) ∧
      t0.targets = assocPut s.targets (t.ctx, tid) { t with pend := t.pend &&& ~~~ ((1 : Word64) <<< v) } ∧ t0.gangs = s.gangs ∧
      slotView G'.a = some (G.chentry, ~~~ G.exited, .none) ∧ G'.b = none ∧ G'.base = G.depth ∧
      G'.chpca = (G.a.map (·.pc)).getD 0 ∧ G'.chpcb = (G.b.map (·.pc)).getD 0 ∧
      (∃ f, G'.frames = [f] ∧ f.kind = .chime ∧ f.base = G.base ∧ slotView f.a = slotView G.a ∧ slotView f.b = slotView G.b) ∧
      G'.s = ((((G.s.set 56 (BitVec.ofNat 64 v)).set 57 (e.payload.setWidth 64)).set 58 (BitVec.ofNat 64 e.count)).set 59
        (e.lsid.setWidth 64)).set 60 G.shadow[4] ∧
      G'.shadow = #v[G.s[56], G.s[57], G.s[58], G.s[59], G.s[60]] ∧ G'.v = G.v ∧ G'.p = G.p)

/-- R302 to R318: the chime words, the doorbells and the delivery of chimes. -/
def Obligations.ChimesAndTargets : Prop := Claim.ChimeWords ∧ Claim.ChimeSteps

/-! ### Tiles and the gang-side words of range H (R223 to R236) -/

/-- R223, R232, R233: MOVTS writes a valid shape and traps on any other value; TWR and TRD move the active lanes' words at
their byte offset, TRD.T reads a column of an FP32 tile, TZERO clears the tile. A tile number at or above N raises
TILE_SHAPE with reason 1 before any other check, whatever the lanes. The byte offset that the tile locator in TADDR carries is log 58's
choice: 0 for TILE_SHAPE, but o + 4i of the lowest failing lane for reason 6 of TWR and TRD. -/
def Claim.TileWords : Prop :=
  let loc (t : TReg) (off : Nat) : Word64 := BitVec.ofNat 64 (2 ^ 63 + 65536 * t.toNat + off % 16384)
  let bad (reason : Nat) (t : TReg) (off : Nat) (m : Mask) : TrapInfo :=
    { code := 0x11, info := BitVec.ofNat 64 reason, addr := loc t off, lanes := m }
  let fmt (w : Nat) : Nat := w % 16
  let rows (w : Nat) : Nat := w / 16 % 256
  let cols (w : Nat) : Nat := w / 4096 % 512
  let valid (v : Nat) : Prop := v < 2 ^ 21 ∧ 1 ≤ fmt v ∧ fmt v ≤ 7 ∧ 1 ≤ rows v ∧ rows v ≤ 128 ∧ 1 ≤ cols v ∧
    cols v ≤ (if fmt v < 4 then 256 else 16) ∧
    rows v * cols v * (if fmt v = 1 then 4 else if fmt v < 4 then 2 else 64) ≤ 16384
  let Tile (s : State) (x : Issuer) (d : TReg) (T : Tile) : State := s.setPlot { x.P with tiles := x.P.tiles.set d.toNat T }
  let far (act : Mask) (o : Nat) : Mask := maskOf fun i => act.getLsbD i && decide (16384 < o + 4 * i + 4)
  let firstFar (act : Mask) (o i : Nat) : Prop := (far act o).getLsbD i = true ∧ ∀ j < i, (far act o).getLsbD j = false
  (∀ (s : State) (x : Issuer) (d : TReg) (b : ShapeSrc), Ready s x →
    CanIssue s x [] (match b with | .reg a => [a.toNat] | .k32 _ => []) →
    let v : Nat := match b with | .reg a => (x.G.rs x.S a).toNat | .k32 k => k.toNat
    (x.P.tiles[d.toNat]? = none → Traps s x (.movts d b) (bad 1 d 0 0)) ∧
    ∀ T, x.P.tiles[d.toNat]? = some T →
      (¬ valid v → Traps s x (.movts d b) (bad 3 d 0 0)) ∧
      (valid v → ∃ G', exec (.movts d b) s = .next ((Tile s x d { T with shape := BitVec.ofNat 32 v }).setGang G') ∧ RegsKept x G' ∧
        GangDone s x (match b with | .reg _ => 8 | .k32 _ => 12) G')) ∧
  (∀ (s : State) (x : Issuer) (g : Guard) (d : TReg) (a : HReg) (b : SReg), Ready s x → CanIssue s x [a.n.toNat] [b.toNat] →
    let act := x.G.active x.S g
    let o := (x.G.rs x.S b).toNat
    (x.P.tiles[d.toNat]? = none → Traps s x (.twr g d a b) (bad 1 d 0 0)) ∧
    ∀ T, x.P.tiles[d.toNat]? = some T →
      (act = 0 → ∃ t G', exec (.twr g d a b) s = .next t ∧ WordDone s x 8 t G' ∧ RegsKept x G') ∧
      (act ≠ 0 → o % 4 ≠ 0 → Traps s x (.twr g d a b) { code := 0x04, addr := loc d o, lanes := act }) ∧
      (o % 4 = 0 → ∀ i, firstFar act o i → Traps s x (.twr g d a b) (bad 6 d (o + 4 * i) (far act o))) ∧
      (act ≠ 0 → o % 4 = 0 → far act o = 0 → T.mem.wf = true → ∃ (m : Memory) (G' : Gang), m.wf = true ∧
        exec (.twr g d a b) s = .next ((Tile s x d { T with mem := m }).setGang G') ∧ GangDone s x 8 G' ∧ RegsKept x G' ∧
        (∀ i < 96, act.getLsbD i = true → natOf (m.readN (o + 4 * i) 4) = (x.srcA a i).toNat) ∧
        ∀ k, (∀ i < 96, act.getLsbD i = true → k < o + 4 * i ∨ o + 4 * i + 4 ≤ k) → m.read k = T.mem.read k)) ∧
  (∀ (s : State) (x : Issuer) (g : Guard) (d : VReg) (a : TReg) (b : SReg), Ready s x → CanIssue s x [d.toNat] [b.toNat] →
    let act := x.G.active x.S g
    let o := (x.G.rs x.S b).toNat
    let Ends (i : Instr) (val : Nat → Word) : Prop := ∃ t G', exec i s = .next t ∧ WordDone s x 8 t G' ∧ VecSet x d act val G'
    (x.P.tiles[a.toNat]? = none → Traps s x (.trd g d a b) (bad 1 a 0 0) ∧ Traps s x (.trdT g d a b) (bad 1 a 0 0)) ∧
    ∀ T, x.P.tiles[a.toNat]? = some T →
      (act ≠ 0 → o % 4 ≠ 0 → Traps s x (.trd g d a b) { code := 0x04, addr := loc a o, lanes := act }) ∧
      (o % 4 = 0 → ∀ i, firstFar act o i → Traps s x (.trd g d a b) (bad 6 a (o + 4 * i) (far act o))) ∧
      ((act = 0 ∨ (o % 4 = 0 ∧ far act o = 0)) → Ends (.trd g d a b) fun i => BitVec.ofNat 32 (natOf (T.mem.readN (o + 4 * i) 4))) ∧
      (T.shape = 0 → Traps s x (.trdT g d a b) (bad 2 a 0 0)) ∧
      (T.shape ≠ 0 → fmt T.shape.toNat ≠ 1 → Traps s x (.trdT g d a b) (bad 4 a 0 0)) ∧
      (fmt T.shape.toNat = 1 → cols T.shape.toNat ≤ o → Traps s x (.trdT g d a b) (bad 6 a 0 0)) ∧
      (fmt T.shape.toNat = 1 → o < cols T.shape.toNat → Ends (.trdT g d a b) fun i =>
        if i < rows T.shape.toNat then BitVec.ofNat 32 (natOf (T.mem.readN (4 * (i * cols T.shape.toNat + o)) 4)) else 0)) ∧
  (∀ (s : State) (x : Issuer) (d : TReg), Ready s x → CanIssue s x [] [] →
    (x.P.tiles[d.toNat]? = none → Traps s x (.tzero d) (bad 1 d 0 0)) ∧
    ∀ T, x.P.tiles[d.toNat]? = some T → ∃ m : Memory, (∀ k, m.read k = 0) ∧ Leaves (.tzero d) s x (Tile s x d { T with mem := m }))

/-- R228, R230, R234 to R236: SQGO starts the stream with every count of every gang at 0, or says 1 when it is under way
and 2 when there is no stream; SQSIG raises a signal count and waits at 65,535; SQWAIT raises the recorded fault, consumes an
arrival, misuses an idle or ended stream, or waits; SQSTAT reads the state, the offset and the record. -/
def Claim.StreamGateWords : Prop :=
  let going (x : Issuer) : Prop := x.P.stream.state = .run ∨ x.P.stream.state = .wait
  let off (x : Issuer) : Nat := (x.P.stream.pc - x.P.stream.start).toNat % 2 ^ 32
  (∀ (s : State) (x : Issuer) (d a : SReg), Ready s x → CanIssue s x [] [d.toNat, a.toNat] →
    let v := x.G.rs x.S a
    let start := if v = 0 then x.P.tmpl.seqa else v
    let ok : Prop := v = 0 ∨ (AllPass (gmChecks s.domain 8 false) 1 (fun _ => v.toNat) ∧ v.toNat % 64 = 0)
    (∀ ck, v ≠ 0 → FirstBad (gmChecks s.domain 8 false) 1 (fun _ => v.toNat) ck 0 →
      Traps s x (.sqgo d a) { badTrap ck 1 (fun _ => v.toNat) 0 3 with lanes := 0 }) ∧
    (AllPass (gmChecks s.domain 8 false) 1 (fun _ => v.toNat) → v.toNat % 64 ≠ 0 →
      Traps s x (.sqgo d a) { code := 0x04, info := 3, addr := v }) ∧
    (ok → going x → Gives (.sqgo d a) s x d 1) ∧
    (v = 0 → ¬ going x → x.P.tmpl.seqa = 0 → Gives (.sqgo d a) s x d 2) ∧
    (ok → ¬ going x → start ≠ 0 → x.P.id = x.G.plot →
      ∃ (t : State) (G' : Gang), exec (.sqgo d a) s = .next (t.setGang G') ∧
        GangDone s (x.set { x.G with sw := Vector.replicate 16 0 }) 8 G' ∧ SclSet x d 0 G' ∧
        (∃ P', t.plot? x.P.id = some P' ∧ P' = { x.P with stream := P'.stream } ∧
          P'.stream.state = .run ∧ P'.stream.start = start ∧ P'.stream.pc = start ∧ P'.stream.lc = Vector.replicate 4 0 ∧
          P'.stream.sg = Vector.replicate 16 0 ∧ P'.stream.sa = Vector.replicate 16 0 ∧ P'.stream.cause = 0 ∧
          P'.stream.reason = 0 ∧ P'.stream.faddr = 0) ∧
        (∀ q ∈ s.gangs, q.2.plot = x.P.id → (q.1, { q.2 with sw := Vector.replicate 16 0 }) ∈ t.gangs) ∧
        (∀ q ∈ s.gangs, q.2.plot ≠ x.P.id → q ∈ t.gangs) ∧ t.gangs.length = s.gangs.length ∧
        SameMemory s t)) ∧
  (∀ (s : State) (x : Issuer) (k : BitVec 4), Ready s x → CanIssue s x [] [] →
    let n := x.P.stream.sg[k.toNat]
    (65535 ≤ n → exec (.sqsig k) s = .next s) ∧
    (n < 65535 → Leaves (.sqsig k) s x (s.setPlot
      { x.P with stream := { x.P.stream with sg := x.P.stream.sg.set k.toNat (n + 1) } }))) ∧
  (∀ (s : State) (x : Issuer) (k : BitVec 4), Ready s x → CanIssue s x [] [] →
    let q := x.P.stream
    let here := q.sa[k.toNat] - x.G.sw[k.toNat]
    (q.state = .fault → exec (.sqwait k) s = .next (s.trap { x.P with stream := { q with seen := true } } (x.G.stamp x.sl s.ticks) x.sl
      { x.S with issued := some s.ticks }
      { code := q.cause.toNat, info := BitVec.ofNat 64 (2 ^ 32 * off x + q.reason.toNat), addr := q.faddr })) ∧
    (q.state ≠ .fault → here ≠ 0 → ∃ G', exec (.sqwait k) s = .next (s.setGang G') ∧ RegsKept x G' ∧
      GangDone s (x.set { x.G with sw := x.G.sw.set k.toNat (x.G.sw[k.toNat] + 1) }) 8 G') ∧
    (here = 0 → (q.state = .idle ∨ q.state = .done) → Traps s x (.sqwait k) { code := 0x16, info := 5 }) ∧
    (here = 0 → (q.state = .run ∨ q.state = .wait) →
      ∃ G', exec (.sqwait k) s = .next ((s.setGang G').settled x.P.id) ∧ Blocks s x .sqwait G')) ∧
  (∀ (s : State) (x : Issuer) (d : SReg), Ready s x → CanIssue s x [] [d.toNat] →
    Gives (.sqstat d) s x d (BitVec.ofNat 64 (2 ^ 32 * off x +
      (match x.P.stream.state with | .idle => 0 | .run => 1 | .wait => 2 | .done => 3 | .fault => 4) +
      if x.P.stream.state = .fault then 2 ^ 24 * x.P.stream.cause.toNat + 2 ^ 16 * x.P.stream.reason.toNat else 0)))

/-- R223, R228, R230, R232 to R236: the tile words of a gang, and the words that start a tile stream, signal it, wait
for it and read its state. -/
def Obligations.TilesAndStreamGates : Prop := Claim.TileWords ∧ Claim.StreamGateWords

/-! ### Sequencer words (R55, R125, R228, R237 to R246) -/

/-- R55, R228, R238: the control words of the stream. SQWT waits in WAIT until its signals have come, also when it is
resumed; SQLOOP counts; a jump or loop target that is not 8-byte aligned is SEQ_FAULT, reason 4. -/
def Obligations.StreamControlWords : Prop :=
  (∀ (s : State) (P : Plot), OnStream s P → Passes .sqnop s P P ∧
    exec .sqend s = .next (s.setPlot { P with stream := { P.stream with state := .done } })) ∧
  (∀ (s : State) (P : Plot) (k : TReg), OnStream s P →
    let full : Prop := ∃ G ∈ s.gangsOf P.id, G.life = .running ∧ P.stream.sa[k.toNat] - G.sw[k.toNat] = 0xFFFFFFFF
    (full → exec (.sqarr k) s = .next s) ∧
    (¬ full → Passes (.sqarr k) s P
      { P with stream := { P.stream with sa := P.stream.sa.set k.toNat (P.stream.sa[k.toNat] + 1) } })) ∧
  (∀ (s : State) (P : Plot) (k : TReg) (n : BitVec 16), OnStream s P →
    (n.toNat ≤ P.stream.sg[k.toNat] → exec (.sqwt k n) s = .next (s.setPlot { P with stream := { P.stream with
      want := none, sg := P.stream.sg.set k.toNat (P.stream.sg[k.toNat] - n.toNat), pc := P.stream.pc + 8 } })) ∧
    (P.stream.sg[k.toNat] < n.toNat → exec (.sqwt k n) s = .next (s.setPlot { P with stream := { P.stream with
      state := .wait, want := some (k.toNat, n.toNat) } }))) ∧
  (∀ (s : State) (p : Nat) (P : Plot) (k n : Nat) (hk : k < 16), s.plot? p = some P → P.place = .resident →
    P.stream.state = .wait → P.stream.want = some (k, n) →
    (n ≤ P.stream.sg[k] → exec (.sqwtResume p) s = .next (s.setPlot { P with stream := { P.stream with
      state := .run, want := none, sg := P.stream.sg.set k (P.stream.sg[k] - n), pc := P.stream.pc + 8 } })) ∧
    (P.stream.sg[k] < n → exec (.sqwtResume p) s = .next (s.setPlot P))) ∧
  (∀ (s : State) (P : Plot) (off : BitVec 32), OnStream s P →
    let tgt := P.stream.pc + off.signExtend 64
    if tgt.toNat % 8 = 0 then exec (.sqjmp off) s = .next (s.setPlot { P with stream := { P.stream with pc := tgt } })
    else Stops (.sqjmp off) s P 0x13 4 0) ∧
  (∀ (s : State) (P : Plot) (c : BitVec 2) (off n : BitVec 16), OnStream s P →
    let tgt := P.stream.pc + off.signExtend 64
    let lc := P.stream.lc[c.toNat] + 1
    if tgt.toNat % 8 ≠ 0 then Stops (.sqloop c off n) s P 0x13 4 0
    else if lc < n.toNat then exec (.sqloop c off n) s = .next (s.setPlot { P with stream := { P.stream with
      lc := P.stream.lc.set c.toNat lc, pc := tgt } })
    else Passes (.sqloop c off n) s P { P with stream := { P.stream with lc := P.stream.lc.set c.toNat 0 } }) ∧
  (∀ (s : State) (p : Nat) (P : Plot), s.plot? p = some P → P.place = .halted →
    exec (.streamGranuleStop p) s = .next (s.setPlot { P with stream := { P.stream with stop := true } }))

/-- R239, R243, R244, R245: TLDQ and TSTQ move a tile's rows between the bower and the tile at a stride, with their checks in
order, the poison of what TLDQ reads among them; TZQ clears a tile; TADD and TSCALE are single roundings element by element; TAMAX
exchanges a maximum at SK and leaves the old word at SK + 4; TCVT narrows with one rounding. A tile's bytes outside what a word writes are
kept. That SCRATCH_BOUNDS records SK, and that a TSTQ leaves a word poisoned that it covers only in part, is log 108's choice. -/
def Obligations.StreamTileWords : Prop :=
  let unit (f : Nat) : Nat := if f = 0 ∨ 7 < f then 0 else if f = 1 then 4 else if f < 4 then 2 else 64
  let rows (w : Word) : Nat := w.toNat / 16 % 256
  let cols (w : Word) : Nat := w.toNat / 4096 % 512
  let Tile (P : Plot) (t : TReg) (m : Memory) : Plot := { P with tiles := P.tiles.set t.toNat ⟨P.shapeAt t.toNat, m⟩ }
  let memOf (P : Plot) (t : TReg) : Memory := ((P.tiles[t.toNat]?).map (·.mem)).getD []
  (∀ (s : State) (P : Plot) (td : TReg) (sm : BitVec 8) (sk : BitVec 32), OnStream s P →
    let w := P.shapeAt td.toNat
    let len := cols w * unit (w.toNat % 16)
    let stride := if sm = 0 then len else 64 * sm.toNat
    let a := BitVec.ofNat 64 sk.toNat
    let Moves (i : Instr) (ok : Prop) : Prop := TileStops i s P [(td, [])] ∧
      (TilesPass P [(td, [])] →
        (sk.toNat % 64 ≠ 0 → Stops i s P 0x04 0 a) ∧
        (sk.toNat % 64 = 0 → sm ≠ 0 → 64 * sm.toNat < len → Stops i s P 0x05 1 a) ∧
        (sk.toNat % 64 = 0 → len ≤ stride → P.tmpl.l1s < sk.toNat + (rows w - 1) * stride + len → Stops i s P 0x05 0 a) ∧
        (sk.toNat % 64 = 0 → len ≤ stride → sk.toNat + (rows w - 1) * stride + len ≤ P.tmpl.l1s → ok))
    let plain : Prop := 1 ≤ w.toNat % 16 ∧ w.toNat % 16 < 4
    let blocks : Prop := 4 ≤ w.toNat % 16 ∧ w.toNat % 16 < 8
    let row (r : Nat) : Nat := sk.toNat + r * stride
    let block (u : Nat) : Nat := sk.toNat + u / cols w * stride + 64 * (u % cols w)
    let malformed (u : Nat) : Option Nat := blkCheck (P.bower.mem.readN (block u) 64) fun f => f == w.toNat % 16 - 3
    let hurt (a n : Nat) : Prop := ∃ k ∈ P.bower.poison, 4 * k < a + n ∧ a < 4 * k + 4
    let Fails (code reason a : Nat) : Prop := Stops (.tldq td sm sk) s P code reason (BitVec.ofNat 64 a)
    Moves (.tldq td sm sk) (
      (∀ r, plain → FirstOf (List.range (rows w)) (fun r => hurt (row r) len) r → Fails 0x09 0 (row r)) ∧
      (∀ u, blocks → FirstOf (List.range (rows w * cols w)) (fun u => hurt (block u) 64 ∨ malformed u ≠ none) u →
        (hurt (block u) 64 → Fails 0x09 0 (block u)) ∧ (∀ r, ¬ hurt (block u) 64 → malformed u = some r → Fails 0x0A r (block u))) ∧
      (((plain ∧ ∀ r < rows w, ¬ hurt (row r) len) ∨ (blocks ∧ ∀ u < rows w * cols w, ¬ hurt (block u) 64 ∧ malformed u = none)) →
        (memOf P td).wf = true → ∃ m : Memory, m.wf = true ∧ Passes (.tldq td sm sk) s P (Tile P td m) ∧
        (∀ r < rows w, ∀ k < len, m.read (r * len + k) = P.bower.mem.read (sk.toNat + r * stride + k)) ∧
        ∀ k, rows w * len ≤ k → m.read k = (memOf P td).read k)) ∧
    Moves (.tstq td sm sk) (1 ≤ w.toNat % 16 → w.toNat % 16 < 8 → P.bower.mem.wf = true → ∃ b : Store,
      Passes (.tstq td sm sk) s P { P with bower := b } ∧ b.mem.wf = true ∧
      -- a word of which every byte is written becomes sound; one written in part stays poisoned
      (∀ k, k ∈ b.poison ↔ k ∈ P.bower.poison ∧ ∃ a, 4 * k ≤ a ∧ a < 4 * k + 4 ∧ ∀ r < rows w, a < row r ∨ row r + len ≤ a) ∧
      (∀ r < rows w, ∀ k < len, b.mem.read (sk.toNat + r * stride + k) = (memOf P td).read (r * len + k)) ∧
      ∀ k, (∀ r < rows w, k < sk.toNat + r * stride ∨ sk.toNat + r * stride + len ≤ k) → b.mem.read k = P.bower.mem.read k)) ∧
  (∀ (s : State) (P : Plot) (td : TReg), OnStream s P →
    (P.tiles.length ≤ td.toNat → Stops (.tzq td) s P 0x11 1 (tileWhere td.toNat 0)) ∧
    (td.toNat < P.tiles.length → Passes (.tzq td) s P (Tile P td []))) ∧
  (∀ (s : State) (P : Plot) (td ta tb : TReg) (sk : BitVec 32), OnStream s P →
    let wa := P.shapeAt ta.toNat
    let Fills (i : Instr) (val : Nat → Nat) : Prop := (memOf P td).wf = true → ∃ m : Memory, m.wf = true ∧
      Passes i s P (Tile P td m) ∧ (∀ k < rows wa * cols wa, m.elem 1 k 0 = val k) ∧
      ∀ a, 4 * (rows wa * cols wa) ≤ a → m.read a = (memOf P td).read a
    (TileStops (.tadd td ta tb) s P [(ta, [1]), (tb, [1]), (td, [1])] ∧
      (TilesPass P [(ta, [1]), (tb, [1]), (td, [1])] →
        (P.shapeAt tb.toNat ≠ wa → Stops (.tadd td ta tb) s P 0x11 5 (tileWhere tb.toNat 0)) ∧
        (P.shapeAt tb.toNat = wa → P.shapeAt td.toNat ≠ wa → Stops (.tadd td ta tb) s P 0x11 5 (tileWhere td.toNat 0)) ∧
        (P.shapeAt tb.toNat = wa → P.shapeAt td.toNat = wa → Fills (.tadd td ta tb) fun k =>
          f32.add .rn ((memOf P ta).elem 1 k 0) ((memOf P tb).elem 1 k 0)))) ∧
    (TileStops (.tscale td ta sk) s P [(ta, [1]), (td, [1])] ∧
      (TilesPass P [(ta, [1]), (td, [1])] →
        (P.shapeAt td.toNat ≠ wa → Stops (.tscale td ta sk) s P 0x11 5 (tileWhere td.toNat 0)) ∧
        (P.shapeAt td.toNat = wa → Fills (.tscale td ta sk) fun k => f32.mulF .rn ((memOf P ta).elem 1 k 0) sk.toNat)))) ∧
  (∀ (s : State) (P : Plot) (ta : TReg) (sk : BitVec 32), OnStream s P →
    let a := BitVec.ofNat 64 sk.toNat
    let w := P.shapeAt ta.toNat
    let elem (k : Nat) : Nat := (memOf P ta).elem 1 k 0
    let nan (v : Nat) : Prop := 0x7F800000 < v % 2 ^ 31
    let Exchange (i : Instr) (new : Nat → Prop) : Prop :=
      (sk.toNat % 8 ≠ 0 → Stops i s P 0x04 0 a) ∧ (sk.toNat % 8 = 0 → P.tmpl.l1s < sk.toNat + 8 → Stops i s P 0x05 0 a) ∧
      (sk.toNat % 8 = 0 → sk.toNat + 8 ≤ P.tmpl.l1s → sk.toNat / 4 ∈ P.bower.poison → Stops i s P 0x09 0 a) ∧
      (sk.toNat % 8 = 0 → sk.toNat + 8 ≤ P.tmpl.l1s → sk.toNat / 4 ∉ P.bower.poison → P.bower.mem.wf = true → ∃ b : Store,
        Passes i s P { P with bower := b } ∧
        (∀ k, k ∈ b.poison ↔ k ∈ P.bower.poison ∧ k ≠ sk.toNat / 4 ∧ k ≠ sk.toNat / 4 + 1) ∧ new (b.nat sk.toNat 4) ∧ b.nat (sk.toNat + 4) 4 = P.bower.nat sk.toNat 4 ∧
        ∀ k, (k < sk.toNat ∨ sk.toNat + 8 ≤ k) → b.mem.read k = P.bower.mem.read k)
    TileStops (.tamax ta sk) s P [(ta, [1])] ∧
    (TilesPass P [(ta, [1])] → Exchange (.tamax ta sk) fun v =>
      ((∃ k < rows w * cols w, nan (elem k)) → v = 0x7FC00000) ∧
      ((∀ k < rows w * cols w, ¬ nan (elem k)) → (∀ k < rows w * cols w, elem k % 2 ^ 31 ≤ v) ∧
        (v = 0 ∨ ∃ k < rows w * cols w, elem k % 2 ^ 31 = v))) ∧
    Exchange (.tamaxRst sk) fun v => v = 0) ∧
  (∀ (s : State) (P : Plot) (td ta : TReg) (q : BitVec 8), OnStream s P →
    let wa := P.shapeAt ta.toNat
    let wd := P.shapeAt td.toNat
    let n := cols wa
    let elem (i j : Nat) : FVal := f32.unpack ((memOf P ta).elem n i j)
    let Narrows (i : Instr) (f per : Nat) (bytes : Memory → Prop) : Prop := TileStops i s P [(ta, [1]), (td, [])] ∧
      (TilesPass P [(ta, [1]), (td, [])] →
        let shaped : Prop := wd.toNat % 16 = f ∧ rows wd = rows wa ∧ cols wd = per
        (td = ta → Stops i s P 0x11 4 (tileWhere td.toNat 0)) ∧
        (td ≠ ta → ¬ shaped → Stops i s P 0x11 5 (tileWhere td.toNat 0)) ∧
        (td ≠ ta → shaped → (memOf P td).wf = true → ∃ m : Memory, m.wf = true ∧ Passes i s P (Tile P td m) ∧ bytes m ∧
          ∀ k, rows wd * cols wd * unit f ≤ k → m.read k = (memOf P td).read k))
    let half (F : FFmt) (m : Memory) : Prop := ∀ i < rows wa, ∀ j < n,
      natOf (m.readN (2 * (i * n + j)) 2) = F.pack .rn ((elem i j).scale (-q.toInt))
    let blocks (T : TFmt) (fmt cap : Nat) (m : Memory) : Prop := ∀ i < rows wa, ∀ c < (n + cap - 1) / cap,
      let b := m.readN (64 * (i * ((n + cap - 1) / cap) + c)) 64
      blkFmt b = fmt ∧ blkScale b = q.toInt ∧
        ∀ p < cap, blkCode b p = some (if cap * c + p < n then T.encode (elem i (cap * c + p)) q.toInt else 0)
    Narrows (.tcvtF16 td ta q) 2 n (half f16) ∧ Narrows (.tcvtBf16 td ta q) 3 n (half bf16) ∧
    Narrows (.tcvtT8 td ta q) 4 ((n + 61) / 62) (blocks t8 1 62) ∧
    Narrows (.tcvtT6 td ta q) 5 ((n + 81) / 82) (blocks t6 2 82))

/-- R125, R226, R230, R240 to R242, R246: the checks of a matrix word in their order; then one granule of K after the other
is added into C with one rounding each, group by group for GMMA, which checks only the rows of A that its counts cover and the poison of
its counts; a word under way goes on without its checks. That a tile number at or above 16 is reported modulo 16 is log 58's choice, and
that SCRATCH_BOUNDS records SK is log 108's. -/
def Obligations.MatrixWords : Prop :=
  let rows (w : Word) : Nat := w.toNat / 16 % 256
  let cols (w : Word) : Nat := w.toNat / 4096 % 512
  let tile (P : Plot) (t : Nat) : Tile := P.tiles.getD t Tile.fresh
  -- the first block of a tile's first n rows that fails its decoding checks
  let malformedIn (n : Nat) (P : Plot) (t u r : Nat) : Prop :=
    let bad (q : Nat) : Option Nat := blkCheck ((tile P t).mem.readN (64 * q) 64) fun f => f == (P.shapeAt t).toNat % 16 - 3
    4 ≤ (P.shapeAt t).toNat % 16 ∧ u < n * cols (P.shapeAt t) ∧ bad u = some r ∧ ∀ q < u, bad q = none
  let malformed (P : Plot) (t u r : Nat) : Prop := malformedIn (rows (P.shapeAt t)) P t u r
  let sound (P : Plot) (t : Nat) : Prop := ∀ u r, ¬ malformed P t u r
  -- a word under way
  let GoesOn (i : Instr) : Prop := ∀ (s : State) (P : Plot) (r : MatRun) (lo n : Nat) (b : Tile) (rest : List (Nat × Nat × Tile)),
    OnStream s P → P.stream.mat = some r → r.groups = (lo, n, b) :: rest → rows b.shape = cols r.cshape →
    (tile P r.td).mem.wf = true → GranuleStep i s P r lo n b rest
  let Matrix (c : TReg → TReg → TReg → Bool → Instr) (fs : List Nat) : Prop := ∀ (td ta tb : TReg) (z : Bool),
    GoesOn (c td ta tb z) ∧
    ∀ (s : State) (P : Plot), OnStream s P → P.stream.mat = none →
      let i := c td ta tb z
      let wa := P.shapeAt ta.toNat
      let wb := P.shapeAt tb.toNat
      let wc := P.shapeAt td.toNat
      TileStops i s P [(ta, fs), (tb, fs), (td, [1])] ∧
      (TilesPass P [(ta, fs), (tb, fs), (td, [1])] →
        (cols wa ≠ cols wb → Stops i s P 0x11 5 (tileWhere tb.toNat 0)) ∧
        (cols wa = cols wb → (rows wc ≠ rows wa ∨ cols wc ≠ rows wb) → Stops i s P 0x11 5 (tileWhere td.toNat 0)) ∧
        (cols wa = cols wb → rows wc = rows wa → cols wc = rows wb →
          (∀ u r, malformed P ta.toNat u r → Stops i s P 0x0A r (tileWhere ta.toNat (64 * u % 16384))) ∧
          (∀ u r, sound P ta.toNat → malformed P tb.toNat u r → Stops i s P 0x0A r (tileWhere tb.toNat (64 * u % 16384))) ∧
          (sound P ta.toNat → sound P tb.toNat → (tile P td.toNat).mem.wf = true →
            GranuleStep i s P ⟨z, tile P ta.toNat, [(0, rows wa, tile P tb.toNat)], td.toNat, wc, 0⟩ 0 (rows wa) (tile P tb.toNat) [])))
  let Grouped (c : TReg → TReg → TReg → BitVec 4 → Bool → BitVec 32 → Instr) (f : Nat) : Prop :=
    ∀ (td ta tb : TReg) (tx : BitVec 4) (z : Bool) (sk : BitVec 32), GoesOn (c td ta tb tx z sk) ∧
    ∀ (s : State) (P : Plot), OnStream s P → P.stream.mat = none → P.tiles.length ≤ 16 →
      let i := c td ta tb tx z sk
      let wa := P.shapeAt ta.toNat
      let wc := P.shapeAt td.toNat
      let G := tx.toNat + 1
      let count (g : Nat) : Nat := P.bower.nat (sk.toNat + 2 * g) 2
      let first (g : Nat) : Nat := ((List.range g).map count).sum
      let used := (List.range G).filter fun g => count g != 0
      let where_ (g : Nat) : Word64 := tileWhere (tb.toNat + g) 0
      let place : Word64 := BitVec.ofNat 64 sk.toNat
      TileStops i s P [(ta, [f]), (td, [1])] ∧
      (TilesPass P [(ta, [f]), (td, [1])] →
        (sk.toNat % 64 ≠ 0 → Stops i s P 0x04 0 place) ∧
        (sk.toNat % 64 = 0 → P.tmpl.l1s < sk.toNat + 2 * G → Stops i s P 0x05 0 place) ∧
        let hurt : Prop := ∃ k ∈ P.bower.poison, 4 * k < sk.toNat + 2 * G ∧ sk.toNat < 4 * k + 4
        (sk.toNat % 64 = 0 → sk.toNat + 2 * G ≤ P.tmpl.l1s → hurt → Stops i s P 0x09 0 place) ∧
        (sk.toNat % 64 = 0 → sk.toNat + 2 * G ≤ P.tmpl.l1s → ¬ hurt →
          (rows wa < first G → Stops i s P 0x12 1 0) ∧
          (first G ≤ rows wa →
            let b (g : Nat) : Word := P.shapeAt (tb.toNat + g)
            let good (g : Nat) : Prop := tb.toNat + g < P.tiles.length ∧ b g ≠ 0 ∧ (b g).toNat % 16 = f ∧ cols (b g) = cols wa ∧
              rows wc = rows wa ∧ rows (b g) = cols wc
            (∀ g, FirstOf used (fun g => ¬ good g) g →
              if P.tiles.length ≤ tb.toNat + g then Stops i s P 0x11 1 (tileWhere ((tb.toNat + g) % 16) 0)
              else if b g = 0 then Stops i s P 0x11 2 (where_ g)
              else if (b g).toNat % 16 ≠ f then Stops i s P 0x11 4 (where_ g)
              else if cols (b g) ≠ cols wa then Stops i s P 0x11 5 (where_ g)
              else Stops i s P 0x11 5 (tileWhere td.toNat 0)) ∧
            ((∀ g ∈ used, good g) →
              let soundA : Prop := ∀ u r, ¬ malformedIn (first G) P ta.toNat u r
              (∀ u r, malformedIn (first G) P ta.toNat u r → Stops i s P 0x0A r (tileWhere ta.toNat (64 * u % 16384))) ∧
              (soundA → (∀ g u r, FirstOf used (fun g => ¬ sound P (tb.toNat + g)) g →
                malformed P (tb.toNat + g) u r → Stops i s P 0x0A r (tileWhere (tb.toNat + g) (64 * u % 16384)))) ∧
              (soundA → (∀ g ∈ used, sound P (tb.toNat + g)) →
                let groups := used.map fun g => (first g, count g, tile P (tb.toNat + g))
                (used = [] → Passes i s P { P with stream := { P.stream with mat := none, word := none } }) ∧
                ∀ lo n bt rest, groups = (lo, n, bt) :: rest → (tile P td.toNat).mem.wf = true →
                  GranuleStep i s P ⟨z, tile P ta.toNat, groups, td.toNat, wc, 0⟩ lo n bt rest)))))
  Matrix .mmaT8 [4] ∧ Matrix .mmaT6 [5] ∧ Matrix .mmaF16 [2] ∧ Matrix .mmaBf16 [3] ∧ Matrix .mmaF32 [1] ∧
  Matrix .mmasT8 [4, 6] ∧ Matrix .mmasT6 [5, 7] ∧
  Grouped .gmmaT8 4 ∧ Grouped .gmmaT6 5 ∧ Grouped .gmmaF16 2 ∧ Grouped .gmmaBf16 3

/-! ### Dials and dial sets (R249 to R273) -/

/-- R251 to R256, R266 to R273: DIALLD checks its record, waits for the slot and binds; DIALQ reads the binding; a word that
names a slot traps when the slot is unbound and waits while the slot does not hold the bound dial, whatever its masks, and
then has its effect by the tables of that dial; the other words name no dial. Compiles end one at a time, and, by log 55's choice, none
replaces a dial before the word that it was compiled for has issued. -/
def Obligations.DialWords : Prop :=
  let held (s : State) (x : Issuer) (k : Nat) (m : Marks) : Prop :=
    (s.core x.P.core).dials.toList[k]? = some (some m)
  let Waits (s : State) (x : Issuer) (k : Nat) (m : Marks) (i : Instr) : Prop :=
    let c := s.core x.P.core
    ∃ G', exec i s = .next ((s.setCore x.P.core
      (if (k, m) ∈ c.compile then c else { c with compile := c.compile ++ [(k, m)] })).setGang G') ∧ Blocks s x (.dial k m) G'
  let Uses (s : State) (x : Issuer) (k : DReg) (i : Instr) (done : Marks → Prop) : Prop :=
    (x.P.dials[k.toNat] = none → Traps s x i { code := 0x0B, info := BitVec.ofNat 64 (4 + 256 * k.toNat) }) ∧
    ∀ m, x.P.dials[k.toNat] = some m → (held s x k.toNat m → done m) ∧ (¬ held s x k.toNat m → Waits s x k.toNat m i)
  let Two (c : V2 → DReg → Instr) (f : Marks → Word → Word → Word) : Prop :=
    ∀ (s : State) (x : Issuer) (o : V2) (k : DReg), Ready s x → CanIssue s x o.names [] →
      Uses s x k (c o k) fun m => ∃ t G', exec (c o k) s = .next t ∧ WordDone s x 8 t G' ∧
        VecSet x o.d (x.G.active x.S o.g) (fun i => f m (x.srcA o.a i) (x.srcB o.b i)) G'
  let One (c : VUn → DReg → Instr) (f : Marks → Word → Word) : Prop :=
    ∀ (s : State) (x : Issuer) (o : VUn) (k : DReg), Ready s x → CanIssue s x o.names [] →
      Uses s x k (c o k) fun m => ∃ t G', exec (c o k) s = .next t ∧ WordDone s x 8 t G' ∧
        VecSet x o.d (x.G.active x.S o.g) (fun i => f m (x.srcA o.a i)) G'
  (∀ (s : State) (x : Issuer) (d : DReg) (a : SReg) (e : BitVec 10), Ready s x → CanIssue s x [] [a.toNat] →
    let off : Int := (x.G.rs x.S a).toInt + e.toInt * 32
    let i := Instr.dialld d a e
    let rec_ := x.P.bower.readN off.toNat 32
    let mark (k : Nat) : Nat := fieldAt rec_ (4 * k) 4
    let m : Marks := (List.range 7).map fun k => BitVec.ofNat 32 (mark k)
    let good : Prop := ∀ k < 7, 0x00800000 ≤ mark k ∧ mark k < 0x7F800000
    let rising : Prop := ∀ k < 6, mark k < mark (k + 1)
    let Invalid (r : Nat) : Prop :=
      Traps s x i { code := 0x0B, info := BitVec.ofNat 64 (r + 256 * d.toNat), addr := BitVec.ofInt 64 off }
    (off % 32 ≠ 0 → Traps s x i { code := 0x04, addr := BitVec.ofInt 64 off }) ∧
    (off % 32 = 0 → (off < 0 ∨ (x.P.tmpl.l1s : Int) < off + 32) → Traps s x i { code := 0x05, addr := BitVec.ofInt 64 off }) ∧
    (off % 32 = 0 → 0 ≤ off → off + 32 ≤ x.P.tmpl.l1s →
      (x.P.bower.poisoned off.toNat 32 = true → Traps s x i { code := 0x09, addr := BitVec.ofInt 64 off }) ∧
      (x.P.bower.poisoned off.toNat 32 = false →
        (¬ good → Invalid 1) ∧ (good → ¬ rising → Invalid 2) ∧ (good → rising → fieldAt rec_ 28 4 ≠ 0 → Invalid 3) ∧
        (good → rising → fieldAt rec_ 28 4 = 0 →
          (held s x d.toNat m → Leaves i s x (s.setPlot { x.P with dials := x.P.dials.set d.toNat (some m) })) ∧
          (¬ held s x d.toNat m → Waits s x d.toNat m i))))) ∧
  (∀ (s : State) (x : Issuer) (d : SReg) (k : DReg), Ready s x → CanIssue s x [] [d.toNat] →
    (x.P.dials[k.toNat] = none → Gives (.dialq d k) s x d 0) ∧
    ∀ m, x.P.dials[k.toNat] = some m → Gives (.dialq d k) s x d (BitVec.ofNat 64
      (256 * (1 + (m.map fun w => w.toNat % 256 + w.toNat / 2 ^ 8 % 256 + w.toNat / 2 ^ 16 % 256 + w.toNat / 2 ^ 24).sum % 255) +
        (if (s.core x.P.core).dials.toList[k.toNat]? = some (some m) then 2 else 0) + 1))) ∧
  Two .dsadd (fun m => setBin m.tAdd) ∧ Two .dssub (fun m => setBin m.tSub) ∧ Two .dsmul (fun m => setBin m.tMul) ∧
  Two .dsdiv (fun m => setBin m.tDiv) ∧ One .dsrcp (fun m => setUn m.uRcp) ∧ One .dssqr (fun m => setUn m.uSqr) ∧
  One .dsfrom (fun m => m.fromValue) ∧ Two .dsfromArc (fun m => m.fromArc) ∧ One .dslo (fun m => m.low) ∧
  One .dshi (fun m => m.high) ∧
  VecUnary .dsneg (fun a => negSet a) ∧ VecUnary .dscpl (fun a => ~~~ a) ∧ VecUnary .dshull (fun a => BitVec.ofNat 32 (hull a)) ∧
  VecUnary .dsexp (fun a => srcExpand (a.toNat % 65536)) ∧
  VecTwo .dsuni (fun a b => a ||| b) ∧ VecTwo .dsint (fun a b => a &&& b) ∧
  Reduces .dsredUni (fun l => (l.foldl (fun a b => a ||| b) (0 : Word)).setWidth 64) ∧
  Reduces .dsredInt (fun l => (l.foldl (fun a b => a &&& b) (0xFFFFFFFF : Word)).setWidth 64) ∧
  (let Tests (c : Guard → PReg → HReg → HReg → Instr) (t : Word → Word → Bool) : Prop :=
      ∀ (s : State) (x : Issuer) (g : Guard) (d : PReg) (a b : HReg), Ready s x → CanIssue s x [a.n.toNat, b.n.toNat] [] →
        ∃ t' G', exec (c g d a b) s = .next t' ∧ WordDone s x 8 t' G' ∧
          PredSet x d (x.G.active x.S g) (fun i => t (x.srcA a i) (x.srcB b i)) G'
   Tests .dstestMeet (fun a b => decide (a &&& b ≠ 0)) ∧ Tests .dstestIn (fun a b => decide (a &&& ~~~ b = 0))) ∧
  (∀ (s : State) (x : Issuer) (g : Guard) (d : VReg) (a : SReg) (k : DReg) (e : BitVec 10), Ready s x →
    CanIssue s x [d.toNat] [a.toNat] →
    let i := Instr.dsexpBlock g d a k e
    Uses s x k i fun m =>
      let act := x.G.active x.S g
      let off : Int := (x.G.rs x.S a).toInt + e.toInt * 64
      let bad (code info : Nat) (l : Mask) : Prop :=
        Traps s x i { code := code, info := BitVec.ofNat 64 info, addr := BitVec.ofInt 64 off, lanes := l }
      let bs := x.P.bower.readN off.toNat 64
      let fmt := (bs.getD 0 0).toNat
      let scale := (bs.getD 1 0).toNat
      let mismatch (r : Nat) : Nat := r + 256 * scale + 65536 * m.tag
      (act = 0 → ∃ t G', exec i s = .next t ∧ WordDone s x 8 t G' ∧ RegsKept x G') ∧
      (act ≠ 0 → off % 64 ≠ 0 → bad 0x04 0 act) ∧
      (act ≠ 0 → off % 64 = 0 → (off < 0 ∨ (x.P.tmpl.l1s : Int) < off + 64) → bad 0x05 0 act) ∧
      (act ≠ 0 → off % 64 = 0 → 0 ≤ off → off + 64 ≤ x.P.tmpl.l1s →
        (x.P.bower.poisoned off.toNat 64 = true → bad 0x09 0 act) ∧
        (x.P.bower.poisoned off.toNat 64 = false →
          (∀ r, blkCheck bs (fun _ => true) = some r → bad 0x0A r 0) ∧
          (blkCheck bs (fun _ => true) = none →
            (fmt < 0x10 → bad 0x0C (mismatch 2) 0) ∧
            (0x10 ≤ fmt → scale ≠ m.tag → bad 0x0C (mismatch 1) 0) ∧
            (0x10 ≤ fmt → scale = m.tag → ∃ t G', exec i s = .next t ∧ WordDone s x 8 t G' ∧
              VecSet x d act (fun j => if fmt = 0x10 then (if j < 31 then srcExpand (fieldAt bs (2 + 2 * j) 2) else 0)
                else if j < 15 then BitVec.ofNat 32 (fieldAt bs (2 + 4 * j) 4) else 0) G'))))) ∧
  (∀ (s : State) (n : Nat) (k : DReg),
    ((∀ q ∈ (s.core n).compile, q.1 ≠ k.toNat) ∨ ∃ q ∈ s.gangs, s.dialWanted n k.toNat q.2 = true) →
      exec (.dialCompileComplete n k) s = .next s) ∧
  (∀ (s : State) (n : Nat) (k : DReg) (m : Marks) (before after : List (Nat × Marks)),
    (s.core n).compile = before ++ (k.toNat, m) :: after → (∀ q ∈ before, q.1 ≠ k.toNat) →
    (∀ q ∈ s.gangs, s.dialWanted n k.toNat q.2 = false) → exec (.dialCompileComplete n k) s = .next (s.setCore n { s.core n with
      dials := (s.core n).dials.set k.toNat (some m), compile := before ++ after }))

/-- R249, R250, R259 to R261, R269: the tables are exact. Over a dial of seven rising normal positive marks, the pieces that
a table names are those that some exact result reaches, by the rules of R259 for infinity; the operations on sets are unions
over the tables, and a negation moves piece i to (32 - i) mod 32. -/
def Obligations.DialTablesAreExact : Prop :=
  ∀ m : Marks, ValidDial m →
    let Exact (op : Option Rat → Option Rat → Option (Option Rat)) (T : Nat → Nat → Word) : Prop := ∀ i < 32, ∀ j < 32,
      (∀ p q, m.Holds i p → m.Holds j q → (op p q = none → T i j = 0xFFFFFFFF) ∧
        ∀ r, op p q = some r → ∃ k < 32, (T i j).getLsbD k = true ∧ m.Holds k r) ∧
      (∀ k < 32, (T i j).getLsbD k = true →
        ∃ p q, m.Holds i p ∧ m.Holds j q ∧ (op p q = none ∨ ∃ r, op p q = some r ∧ m.Holds k r))
    Exact (fun p q => match p, q with
      | some x, some y => some (some (x + y))
      | none, none => none
      | _, _ => some none) m.tAdd ∧
    Exact (fun p q => match p, q with
      | some x, some y => some (some (x - y))
      | none, none => none
      | _, _ => some none) m.tSub ∧
    Exact (fun p q => match p, q with
      | some x, some y => some (some (x * y))
      | some x, none => if x = 0 then none else some none
      | none, some y => if y = 0 then none else some none
      | none, none => some none) m.tMul ∧
    Exact (fun p q => match p, q with
      | some x, some y => if y = 0 then (if x = 0 then none else some none) else some (some (x / y))
      | some _, none => some (some 0)
      | none, some _ => some none
      | none, none => none) m.tDiv ∧
    (∀ i < 32, ∀ p, m.Holds i p →
      (∃ k < 32, (m.uRcp i).getLsbD k = true ∧ m.Holds k (match p with
        | some x => if x = 0 then none else some (1 / x)
        | none => some 0)) ∧
      ∃ k < 32, (m.uSqr i).getLsbD k = true ∧ m.Holds k (p.map fun x => x * x)) ∧
    (∀ i < 32, ∀ k < 32, (m.uRcp i).getLsbD k = true → ∃ p, m.Holds i p ∧ m.Holds k (match p with
        | some x => if x = 0 then none else some (1 / x)
        | none => some 0)) ∧
    (∀ i < 32, ∀ k < 32, (m.uSqr i).getLsbD k = true →
      ∃ p q, m.Holds i p ∧ m.Holds i q ∧ m.Holds k (match p, q with
        | some x, some y => some (x * y)
        | _, _ => none)) ∧
    (∀ p, ∃ k < 32, m.Holds k p ∧ ∀ j < 32, m.Holds j p → j = k) ∧
    (∀ k < 32, ∀ x, m.Holds k (some x) → m.Holds ((32 - k) % 32) (some (-x))) ∧
    (∀ a : Word, ∀ k < 32, (negSet a).getLsbD k = a.getLsbD ((32 - k) % 32)) ∧
    (∀ (T : Nat → Nat → Word) (a b : Word), ∀ k < 32, (setBin T a b).getLsbD k = true ↔
      ∃ i < 32, ∃ j < 32, a.getLsbD i = true ∧ b.getLsbD j = true ∧ (T i j).getLsbD k = true) ∧
    (∀ (U : Nat → Word) (a : Word), ∀ k < 32, (setUn U a).getLsbD k = true ↔ ∃ i < 32, a.getLsbD i = true ∧ (U i).getLsbD k = true)

/-- R258, R262 to R265: SRC16 values, hulls and conversions: a hull is the smallest connected superset, with the lowest start
among equals; a value goes to the piece that holds it, an interval to the pieces that meet it, and the bounds of a set are its
infimum and supremum. -/
def Obligations.DialConversions : Prop :=
  let count (w : Nat) : Nat := w / 32 % 64
  let start (w : Nat) : Nat := w % 32
  let proper (w : Nat) : Prop := w < 2048 ∧ count w ≤ 32 ∧ ((count w = 0 ∨ count w = 32) → start w = 0)
  let inSet (w k : Nat) : Prop := ∃ j < count w, k = (start w + j) % 32
  (∀ w < 65536, (proper w → ∀ k < 32, (srcExpand w).getLsbD k = true ↔ inSet w k) ∧ (¬ proper w → srcExpand w = 0xFFFFFFFF)) ∧
  (hull 0 = 0 ∧ hull 0xFFFFFFFF = 0x0400) ∧
  (∀ a : Word, proper (hull a) ∧ (∀ k < 32, a.getLsbD k = true → inSet (hull a) k) ∧
    ∀ w, proper w → (∀ k < 32, a.getLsbD k = true → inSet w k) →
      count (hull a) ≤ count w ∧ (count (hull a) = count w → a ≠ 0 → start (hull a) ≤ start w)) ∧
  ∀ m : Marks, ValidDial m →
    let nan (w : Word) : Prop := 0x7F800000 < w.toNat % 2 ^ 31
    let isInf (w : Word) : Prop := w.toNat % 2 ^ 31 = 0x7F800000
    (∀ x : Word, (nan x → m.fromValue x = 0) ∧ (isInf x → m.fromValue x = 1 <<< 16) ∧
      (¬ nan x → ¬ isInf x → ∃ k < 32, m.fromValue x = (1 : Word) <<< k ∧ m.Holds k (some (f32Rat x)))) ∧
    (∀ lo hi : Word,
      let below (r : Rat) : Prop := lo = 0xFF800000 ∨ (¬ isInf lo ∧ f32Rat lo ≤ r)
      let above (r : Rat) : Prop := hi = 0x7F800000 ∨ (¬ isInf hi ∧ r ≤ f32Rat hi)
      let empty : Prop := nan lo ∨ nan hi ∨ (lo = 0x7F800000 ∧ hi ≠ 0x7F800000) ∨ (hi = 0xFF800000 ∧ lo ≠ 0xFF800000) ∨
        (¬ isInf lo ∧ ¬ isInf hi ∧ f32Rat hi < f32Rat lo)
      (empty → m.fromArc lo hi = 0) ∧
      (¬ empty → ((m.fromArc lo hi).getLsbD 16 = true ↔ lo = 0xFF800000 ∨ hi = 0x7F800000) ∧
        ∀ k < 32, k ≠ 16 → ((m.fromArc lo hi).getLsbD k = true ↔ ∃ r, m.Holds k (some r) ∧ below r ∧ above r))) ∧
    (m.low 0 = 0x7FC00000 ∧ m.high 0 = 0x7FC00000) ∧
    ∀ a : Word, a ≠ 0 →
      let within (r : Rat) : Prop := ∃ k < 32, a.getLsbD k = true ∧ m.Holds k (some r)
      (a.getLsbD 16 = true → m.low a = 0xFF800000 ∧ m.high a = 0x7F800000) ∧
      (a.getLsbD 16 = false →
        (if a.getLsbD 17 = true then m.low a = 0xFF800000
          else ¬ nan (m.low a) ∧ ¬ isInf (m.low a) ∧ m.low a ≠ 0x80000000 ∧ (∀ r, within r → f32Rat (m.low a) ≤ r) ∧
            ∀ b, (∀ r, within r → b ≤ r) → b ≤ f32Rat (m.low a)) ∧
        (if a.getLsbD 15 = true then m.high a = 0x7F800000
          else ¬ nan (m.high a) ∧ ¬ isInf (m.high a) ∧ m.high a ≠ 0x80000000 ∧ (∀ r, within r → r ≤ f32Rat (m.high a)) ∧
            ∀ b, (∀ r, within r → r ≤ b) → f32Rat (m.high a) ≤ b))

/-! ### Admission, pre-emption and saved plots (R56 to R61, R97, R310, R334 to R338, R347, R352 to R354, R409) -/

/-- R57 to R61, R97, R283, R334, R335, R353: the head of the highest priority is offered a core of its context's clusters. A
launch that is invalid is reported with its lowest reason; one that the core can hold becomes a plot with a zeroed bower, its
argument block and its gangs at the entry; otherwise it stays. A saved plot whose record is good is restored with what its record's
sections say, which the runtime may have edited (R347); its latches are invalid, and its wait is a sample of monitor event 4 (R388).
Where a record's sections hold a field is log 8's choice; the plot's number is log 30's reading, the places that a gang takes log 31's, that
a record which is denied or bad drops its entry log 36's, and the fresh grant of a launch log 103's choice. -/
def Obligations.Admission : Prop :=
  ∀ (s : State) (core : Nat) (b : Backlog), headOf s.backlog = some b → s.booted = true → core < 384 →
    (s.context (s.entryCtx b.what)).clusters.contains (core / 12) = true →
    let holds (s : State) (gangs budget l1s tiles circles : Nat) : Prop :=
      let ps := (s.plots.map (·.2)).filter fun P => P.core == core && P.place != .saved
      (∃ k < 16, ∀ P ∈ ps, P.pslot ≠ k) ∧
      (ps.map fun P => if P.tmpl.handoff then P.tmpl.gangs else ((s.gangsOf P.id).filter fun G => G.life != .returned).length).sum +
        gangs ≤ 16 ∧
      (ps.map (·.budget)).sum + budget ≤ 1536 ∧
      (∃ a, a + l1s ≤ 524288 ∧ ∀ P ∈ ps, a + l1s ≤ P.bowerAt ∨ P.bowerAt + P.tmpl.l1s ≤ a) ∧
      (ps.map fun P => P.tiles.length).sum + tiles ≤ 32 ∧ (ps.map fun P => P.circles.length).sum + circles ≤ 256
    (∀ (l : Launch) (t : List Byte) (s1 : State) (grant : Bool), b.what = .launch l →
      s.readTemplate l.ctx l.tmplAt .escapement [l.slot] = (.ok t, s1) →
      let gangs : Nat := if fieldAt t 19 1 / 128 = 1 then
          match l.binds.getD (fieldAt t 19 1 / 32 % 4) none with
          | some e => fieldAt e.2 24 4
          | none => 0
        else fieldAt t 19 1 % 32
      let T := templateOf t gangs
      let reasons : List Nat := [1, 2, 3, 4, 5].filter fun r =>
        (r == 1 && decide (gangs = 0 ∨ 16 < gangs)) || (r == 2 && decide (6 ≤ T.span)) ||
        (r == 3 && decide (T.l1s < 512 + 1024 * gangs)) || (r == 4 && decide (T.budget < gangs * T.vregs)) || (r == 5 && tmplBad t)
      (∀ r rest, reasons = r :: rest → exec (.admission core grant) s = .next ((s1.dropEntry b.ord).errRecord l.ctx 0x0004 0
        ([l.slot, l.aseq % 2 ^ 32, l.aseq / 2 ^ 32, r].flatMap (leOf 4)))) ∧
      (reasons = [] → ¬ holds s1 gangs T.budget T.l1s T.tiles (T.circles.length + 1) → exec (.admission core grant) s = .next s1) ∧
      (reasons = [] → holds s1 gangs T.budget T.l1s T.tiles (T.circles.length + 1) → (grant = false ∨ T.l2s = 0) →
        ∃ t' P', exec (.admission core grant) s = .next t' ∧ t'.plot? s1.nextKey = some P' ∧ P'.ctx = l.ctx ∧ P'.core = core ∧
          P'.tmpl = T ∧ P'.entry = T.entry ∧ P'.budget = T.budget ∧ P'.reserve = T.budget - gangs * T.vregs ∧ P'.claims = [] ∧
          P'.lid = (s1.context l.ctx).nextPlot + 1 ∧ P'.tiles = List.replicate T.tiles ⟨0, []⟩ ∧ P'.stream.state = .idle ∧
          (∀ k : Fin 4, P'.dials[k] = none) ∧ P'.pav = none ∧ P'.cons = none ∧ P'.place = .resident ∧ P'.target = none ∧
          P'.circles = ⟨0, BitVec.ofNat 16 (2 ^ gangs - 1), []⟩ :: T.circles.map (fun c => ⟨c.1, c.2 &&& BitVec.ofNat 16 (2 ^ gangs - 1), []⟩) ∧
          (∀ k < 4, P'.bower.readN (64 * k) 64 = match l.binds.getD k none with
            | some e => bytesAt e.2 0 64
            | none => List.replicate 64 0) ∧
          P'.bower.nat 256 8 = l.key.toNat ∧ P'.bower.nat 264 4 = 0 ∧ P'.bower.nat 268 4 = l.slot % 2 ^ 32 ∧
          P'.bower.nat 272 8 = l.aseq % 2 ^ 64 ∧
          (∀ k < 4, P'.bower.nat (280 + 4 * k) 4 = (l.streams.getD k 0xFFFFFFFF).toNat ∧
            P'.bower.nat (296 + 8 * k) 8 = l.xclk.getD k 0 % 2 ^ 64) ∧
          P'.bower.nat 328 8 = l.ats % 2 ^ 64 ∧ (∀ a, 336 ≤ a → P'.bower.mem.read a = 0) ∧ P'.bower.poison = [] ∧
          ∀ k < gangs, ∃ G', t'.gang? s1.nextKey k = some G' ∧ slotView G'.a = some (T.entry, BitVec.allOnes 96, .none) ∧
            G'.b = none ∧ G'.depth = 0 ∧ G'.exited = 0 ∧ G'.frames = [] ∧ G'.v = List.replicate T.vregs (Vector.replicate 96 0) ∧
            G'.p = Vector.replicate 8 0 ∧ G'.latchA = none ∧ G'.latchB = none ∧ G'.latchC = none ∧ G'.life = .running ∧
            (∀ c < 4, (G'.cls c).count = 0) ∧
            G'.s = (((((Vector.replicate 64 (0 : Word64)).set 1 (BitVec.ofNat 64 k)).set 2 (BitVec.ofNat 64 gangs)).set 3
              (BitVec.ofNat 64 T.l1s)).set 4 (BitVec.ofNat 64 P'.lid)).set 5 (BitVec.ofNat 64 l.ats))) ∧
    (∀ (l : Launch) (t : List Byte) (s1 : State), b.what = .launch l →
      s.readTemplate l.ctx l.tmplAt .escapement [l.slot] = (.ok t, s1) → fieldAt t 19 1 / 128 = 0 →
      let T := templateOf t (fieldAt t 19 1 % 32)
      1 ≤ T.gangs → T.gangs ≤ 16 → T.span < 6 → 512 + 1024 * T.gangs ≤ T.l1s → T.gangs * T.vregs ≤ T.budget → tmplBad t = false →
      holds s1 T.gangs T.budget T.l1s T.tiles (T.circles.length + 1) → T.l2s ≠ 0 →
      s1.padLoad 1 (core / 12) + T.l2s ≤ 2 ^ 23 →
        ∃ t' P', exec (.admission core true) s = .next t' ∧ t'.plot? s1.nextKey = some P' ∧ P'.place = .resident ∧
          P'.pav = some ⟨s1.nextKey + 1, T.l2s, T.span⟩ ∧ P'.cons = none ∧
          t'.pads.find (s1.nextKey + 1) = some ⟨1, core / 12, l.ctx, T.l2s, ⟨[], []⟩⟩) ∧
    (∀ (p : Nat) (P : Plot) (grant : Bool), b.what = .plot p → s.plot? p = some P → P.id = p →
      (P.place ≠ .saved → exec (.admission core grant) s = .next (s.dropEntry b.ord)) ∧
      (P.place = .saved → (∀ c, P.moveTo = some c → c = core / 12) →
        (∀ s1, s.readSave P = (.error .wait, s1) → exec (.admission core grant) s = .next s1) ∧
        (∀ s1, s.readSave P = (.error .denied, s1) → exec (.admission core grant) s = .next (s1.dropEntry b.ord)) ∧
        (∀ r s1, s.readSave P = (.ok r, s1) →
          let good : Prop := fieldAt r 0 4 = 1 ∧ fieldAt r (fieldAt r 24 8 - 8) 8 = fieldAt r 32 8
          (¬ good → exec (.admission core grant) s = .next (s1.dropEntry b.ord)) ∧
          -- what the record's sections say: the plot `Q`, then its gangs, and the tiles and the bower behind them
          (good → s1.plots = s.plots → s1.gangs = s.gangs → P.pav = none → P.cons = none →
            (∀ g < 16, ∀ G, s.gang? p g = some G → G.plot = p ∧ G.idx = g) →
            let x := s1.savedPlot P ((r.take (r.length - 64)).drop 64)
            let Q := x.1.P
            let loaded := (s1.retarget x.1).loadGangs P (natOf (x.2.take 1)) (x.2.drop 1)
            let tiles := tileCodec.times Q.tmpl.tiles loaded.2
            (¬ holds s1 (s1.placesOf Q) Q.budget Q.tmpl.l1s Q.tmpl.tiles Q.circles.length → exec (.admission core grant) s = .next s1) ∧
            (holds s1 (s1.placesOf Q) Q.budget Q.tmpl.l1s Q.tmpl.tiles Q.circles.length → ∃ (u : State) (P' : Plot),
              exec (.admission core grant) s = .next (u.sample core 4 (s1.time.toNat - b.since)) ∧
              u.plot? p = some P' ∧ P'.place = .resident ∧ P'.core = core ∧ P'.moveTo = none ∧ P'.tmpl = Q.tmpl ∧
              P'.budget = Q.budget ∧ P'.reserve = Q.reserve ∧ P'.claims = Q.claims ∧ P'.circles = Q.circles ∧ P'.req = Q.req ∧
              P'.dials = Q.dials ∧ P'.target = Q.target ∧ P'.handler = Q.handler ∧ P'.stream = { Q.stream with stop := false } ∧
              P'.late = [] ∧ P'.tiles = tiles.1 ∧
              (P.late = [] → P'.bower.mem = Memory.ofBytes 0 (tiles.2.take Q.tmpl.l1s)) ∧
              ∀ k < 16, ∀ H, loaded.1.gang? p k = some H → ∃ G', u.gang? p k = some G' ∧ slotView G'.a = slotView H.a ∧
                slotView G'.b = slotView H.b ∧ G'.v = H.v ∧ G'.s = H.s ∧ G'.p = H.p ∧ G'.shadow = H.shadow ∧ G'.tentry = H.tentry ∧
                G'.chentry = H.chentry ∧ G'.depth = H.depth ∧ G'.base = H.base ∧ G'.frames = H.frames ∧ G'.exited = H.exited ∧
                G'.sw = H.sw ∧ (∀ c < 4, G'.cls c = H.cls c) ∧ G'.latchA = none ∧ G'.latchB = none ∧ G'.latchC = none ∧
                (∀ S, G'.a = some S → S.spin = 0) ∧ ∀ S, G'.b = some S → S.spin = 0)))))

/-- R44, R221, R347, R353: what a restore takes from a record is what the next save writes: the sections of a plot and of a gang, read from
any bytes and written again, are read again the same, and so is a tile. A PC is read with its bits [1:0] at 0. Where a section's bytes hold a
field is log 8's choice. -/
def Claim.RecordSections : Prop :=
  (∀ (b r : List Byte) (x : SavedPlot),
    let y := (Field.decode savedPlotFields b x).1
    Field.decode savedPlotFields (Field.encode savedPlotFields y ++ r) y = (y, r)) ∧
  (∀ (b r : List Byte) (G : Gang), (G.engCp.map (·.num)).Nodup → G.engCp.length < 2 ^ 16 →
    let H := (Field.decode gangFields b G).1
    (∀ o ∈ H.engCp, o.kind = .tmovR → o.phase = .reserve → o.desc.length = 128 ∧ o.off < 2 ^ 32) →
    Field.decode gangFields (Field.encode gangFields H ++ r) H = (H, r)) ∧
  (∀ (T : Tile) (r : List Byte), T.mem.Within 16384 → tileCodec.get (tileCodec.put T ++ r) = (T, r)) ∧
  (∀ (S : PcSlot) (r : List Byte), S = { PcSlot.fresh S.pc S.mask with wait := S.wait, fid := S.fid } → (∀ f, S.fid = some f → f < 2 ^ 32) →
    (S.wait = .none ∨ S.wait = .vclaim ∨ (∃ c < 256, S.wait = .bar c) ∨ ∃ t < 2 ^ 64, S.wait = .join t) →
    pcSlotCodec.get (pcSlotCodec.put (some S) ++ r) = (some { S with pc := S.pc &&& ~~~ (3 : Word64) }, r))

/-- R171, R310, R336 to R338, R347, R348, R352 to R354, R376, R391: a head that has waited 20 µs evicts one plot of the lowest priority
that is 3 below it and whose core would hold it, the latest first; a head without room has the latest swap-eligible plot saved (that at
least one of its slots has waited in WAITC or CHWAIT is log 34's reading); the halt leaves its waits; the save writes its record line by
line, the header first and the marker last, and gives the core's resources back, and for a suspended plot writes its TRAP record; a
write at a watched address, a watch fire from outside and the runtime, through the supervisor interface, make a saved plot runnable.
Where a record's sections hold a field is log 8's choice, and the interface's answer is log 86's form of it. -/
def Claim.SavesAndSwaps : Prop :=
  let latest (C : Plot → Prop) (key : Plot → Nat) (P : Plot) : Prop :=
    C P ∧ ∀ Q, C Q → key P < key Q ∨ (key P = key Q ∧ Q.order ≤ P.order)
  -- the clusters that a head may use
  let ClustersOf (s : State) (e : Entry) (cs : List Nat) : Prop :=
    match e with
    | .launch l => cs = (s.context l.ctx).clusters
    | .plot p => ∃ P, s.plot? p = some P ∧ cs = (match P.moveTo with | some c => [c] | none => (s.context P.ctx).clusters)
  (∀ (s : State) (b : Backlog) (t : Nat) (cs : List Nat), headOf s.backlog = some b → s.headSince = some (b.ord, t) →
    ClustersOf s b.what cs →
    (s.ticks < t + 22000 → exec .preemptForHead s = .next s) ∧
    (t + 22000 ≤ s.ticks → ∀ n, s.entryNeed b.what = some n →
      ((∃ c ∈ cs, c < 32 ∧ ∃ k < 12, s.fits (12 * c + k) n none = true) → exec .preemptForHead s = .next s) ∧
      ((∀ c ∈ cs, c < 32 → ∀ k < 12, s.fits (12 * c + k) n none = false) →
        let C (P : Plot) : Prop := (∃ p, (p, P) ∈ s.plots) ∧ P.place = .resident ∧ P.core / 12 ∈ cs ∧ P.tmpl.prio + 3 ≤ b.prio ∧
          s.fits P.core n (some P.id) = true
        ((∀ P, ¬ C P) → exec .preemptForHead s = .next s) ∧
        ((∃ P, C P) → ∃ P, latest C (·.tmpl.prio) P ∧ exec .preemptForHead s =
          .next { s.setPlot { P with place := .halted, runnable := true } with headSince := some (b.ord, s.ticks) })))) ∧
  (∀ (s : State) (b : Backlog) (n : Need) (cs : List Nat), headOf s.backlog = some b → s.entryNeed b.what = some n →
    ClustersOf s b.what cs →
    let swap (S : PcSlot) : Prop := S.swap = true ∨ (∃ t, S.wait = .sleep t) ∨ ∃ a, S.wait = .psleep a
    let C (P : Plot) : Prop := (∃ p, (p, P) ∈ s.plots) ∧ P.core / 12 ∈ cs ∧ P.place = .resident ∧
      (∀ G ∈ s.gangsOf P.id, G.life ≠ .draining ∧ G.life ≠ .drained ∧ s.entryDue P G = false ∧
        (G.life = .running → (∀ S, G.a = some S → swap S) ∧ ∀ S, G.b = some S → swap S)) ∧
      (∃ G ∈ s.gangsOf P.id, ∃ S, (G.a = some S ∨ G.b = some S) ∧ S.swap = true) ∧ s.fits P.core n (some P.id) = true
    let watched (o : Option PcSlot) : List Nat := match o with
      | some S => (match S.wait with | .waitc _ a _ _ _ _ _ => [a] | _ => [])
      | none => []
    (∀ c ∈ cs, c < 32 → ∀ k < 12, s.fits (12 * c + k) n none = false) →
      ((∀ P, ¬ C P) → exec .swapSave s = .next s) ∧
      ((∃ P, C P) → ∃ P, latest C (fun _ => 0) P ∧ exec .swapSave s = .next (s.setPlot { P with
        place := .halted, runnable := false, watches := (s.gangsOf P.id).flatMap fun G => watched G.a ++ watched G.b }))) ∧
  (∀ (s : State) (core : Nat), (∀ q ∈ s.plots, q.2.id = q.1) → (s.plots.map (·.1)).Nodup →
    (∀ p, ∀ g < 16, ∀ G, s.gang? p g = some G → G.plot = p ∧ G.idx = g) →
    let view (S : PcSlot) : Word64 × Mask × Wait := match S.wait with
      | .sleep _ => (S.pc + 8, S.mask, .none)
      | .join _ => (S.pc, S.mask, S.wait)
      | .vclaim => (S.pc, S.mask, S.wait)
      | .bar _ => (S.pc, S.mask, S.wait)
      | .store .. => (S.pc, S.mask, S.wait)
      | .waitc .. => (S.pc, S.mask, if S.fid.isSome = true then S.wait else .none)
      | _ => (S.pc, S.mask, .none)
    ∃ t, exec (.preemptionHalt core) s = .next t ∧ t = { s with gangs := t.gangs } ∧
      ∀ p P, s.plot? p = some P → ∀ g < 16, ∀ G, s.gang? p g = some G → ∃ G', t.gang? p g = some G' ∧
        (if P.core = core ∧ P.place = .halted ∧ P.saving = none ∧ (P.stream.stop = true ∨ P.stream.state ≠ .run) ∧
            (∀ H ∈ s.gangsOf p, s.quiet P H = true) ∧ (P.suspended = true ∨ ∀ H ∈ s.gangsOf p, s.entryDue P H = false) then
          G' = { G with a := G'.a, b := G'.b } ∧ slotView G'.a = G.a.map view ∧ slotView G'.b = G.b.map view
        else G' = G)) ∧
  -- the save begins, once the buffers have drained
  (∀ (s : State) (p : Nat) (P : Plot), s.plot? p = some P → P.id = p → P.saving = none →
    (P.place ≠ .halted → exec (.saveRecord p) s = .next s) ∧
    (P.place = .halted → s.saveReady P = false → (∀ g < 16, ∀ G, s.gang? p g = some G → G.plot = p ∧ G.idx = g) →
      ∃ t, exec (.saveRecord p) s = .next t ∧ t = { s with gangs := t.gangs } ∧
        ∀ g < 16, ∀ G, s.gang? p g = some G → t.gang? p g = some { G with pend := G.boundaryFrom .save (G.seq + 1) }) ∧
    (P.place = .halted → s.saveReady P = true →
      let c := s.context P.ctx
      let addr := if P.emergency then c.emergencyEnd else c.saveArea
      let n := c.saveSeq + 1
      ∃ t r, exec (.saveRecord p) s = .next t ∧
        t = (s.setContext P.ctx (if P.emergency then { c with saveSeq := n, emergencyEnd := addr + r.length }
          else { c with saveSeq := n, saveArea := addr + r.length })).setPlot { P with saving := some ⟨addr, n, r, 0⟩ } ∧
        r.length % 64 = 0 ∧ 128 ≤ r.length ∧ fieldAt r 0 4 = 1 ∧ fieldAt r 4 4 = 1 ∧
        fieldAt r 8 4 = (if P.suspended then 1 else 0) + (if P.emergency then 2 else 0) ∧ fieldAt r 12 4 = 0 ∧
        fieldAt r 16 4 = P.ctx % 2 ^ 32 ∧ fieldAt r 20 4 = P.lid % 2 ^ 32 ∧ fieldAt r 24 8 = r.length % 2 ^ 64 ∧
        fieldAt r 32 8 = n % 2 ^ 64 ∧ (∀ k, 40 ≤ k → k < 64 → r.getD k 0 = 0) ∧
        (r.take (r.length - 64)).drop 64 = s.sections P ∧ fieldAt r (r.length - 8) 8 = n % 2 ^ 64)) ∧
  -- its lines are written one after the other; the last one frees the core
  (∀ (s : State) (p : Nat) (P : Plot) (v : Saving), s.plot? p = some P → P.id = p → P.saving = some v →
    (P.runnable = true ∨ P.suspended = true ∨ ((s.plots.map (·.1)).Nodup ∧ P.watches = [])) →
    let line := bytesAt v.bytes v.done 64
    let saved : Plot := { P with place := .saved, runnable := false, rec_ := v.at_, saveSeq := v.seq, saving := none }
    let Writes (t : State) : Prop :=
      (v.done + 64 < v.bytes.length →
        exec (.saveRecord p) s = .next (t.setPlot { P with saving := some { v with done := v.done + 64 } })) ∧
      (v.bytes.length ≤ v.done + 64 → P.target = none → P.pav = none → P.cons = none →
        (P.suspended = false → P.runnable = false → exec (.saveRecord p) s = .next (t.setPlot saved)) ∧
        (P.suspended = false → P.runnable = true → ∃ t', exec (.saveRecord p) s = .next t' ∧
          t'.plot? p = some { saved with runnable := true } ∧ t'.backlog = t.backlog ++ [⟨P.tmpl.prio, t.ordNext, .plot p, t.time.toNat⟩] ∧
          t'.gangs = s.gangs) ∧
        (∀ g nested G, P.suspended = true → P.trapper = some (g, nested) → s.gang? p g = some G →
          let pc : Word64 := (((if G.tcause.getLsbD 8 then G.b else G.a).map (·.pc)).getD 0)
          exec (.saveRecord p) s = .next ((t.setPlot saved).errRecord P.ctx 0x0001 P.lid ([G.tcause.toNat, G.tinfo.toNat % 2 ^ 32,
            pc.toNat % 2 ^ 32, P.lid, G.tinfo.toNat / 2 ^ 32, G.taddr.toNat % 2 ^ 32, G.taddr.toNat / 2 ^ 32,
            g + (if nested then 2 ^ 31 else 0), v.at_ % 2 ^ 32, v.at_ / 2 ^ 32].flatMap (leOf 4)))))
    (P.emergency = true → Writes ((s.writeLoc (.host (v.at_ + v.done)) line).fire (.host (v.at_ + v.done)) 64)) ∧
    (∀ l s1, P.emergency = false → s.partAccess P.ctx (v.at_ + v.done) .engWrite .governors (hubWho .engWrite) .other [p] = (.ok l, s1) →
      s1.plots = s.plots → s1.gangs = s.gangs → Writes ((s1.writeLoc l line).fire l 64)) ∧
    (∀ s1, P.emergency = false → s.partAccess P.ctx (v.at_ + v.done) .engWrite .governors (hubWho .engWrite) .other [p] = (.wait, s1) →
      exec (.saveRecord p) s = .next s1)) ∧
  -- a write of n bytes at a place fires the watches of the words that it meets
  (∀ (s : State) (l : Loc) (n : Nat), (s.plots.map (·.1)).Nodup → (∀ q ∈ s.plots, q.2.id = q.1) →
    let met (P : Plot) : Prop := ∃ a ∈ P.watches, ∃ h, s.homeOf P.ctx a = some h ∧ h.meets 8 l n = true
    ∀ p P, s.plot? p = some P →
      (P.place ≠ .resident → met P → P.suspended = false →
        (s.fire l n).plot? p = some { P with runnable := true } ∧
        (P.place = .saved → P.runnable = false → ∃ o, ⟨P.tmpl.prio, o, .plot p, s.time.toNat⟩ ∈ (s.fire l n).backlog)) ∧
      (P.place = .resident ∨ ¬ met P ∨ P.suspended = true → (s.fire l n).plot? p = some P)) ∧
  (∀ (s : State) (p addr : Nat) (P : Plot) (by_ : SupBy), s.plot? p = some P → P.id = p →
    let Enters (i : Instr) (P : Plot) (s : State) : Prop := ∃ t, exec i s = .next t ∧
      t.plot? p = some { P with runnable := true } ∧ t.backlog = s.backlog ++ [⟨P.tmpl.prio, s.ordNext, .plot p, s.time.toNat⟩] ∧ t.gangs = s.gangs
    (addr ∉ P.watches → exec (.waitcWatchFire p addr) s = .next s) ∧
    (∀ a, (s.homeOf P.ctx addr = some (.host a) ∨ s.homeOf P.ctx addr = some (.peer a)) → addr ∈ P.watches → P.place = .saved →
      P.suspended = false → P.runnable = false → Enters (.waitcWatchFire p addr) P s) ∧
    (addr ∈ P.watches → P.suspended = true → exec (.waitcWatchFire p addr) s = .next s) ∧
    -- the supervisor interface, to a writer that its table lets in (R357, R383)
    (s.fw.boot ≠ .running → exec (.suspendedPlotResume p by_) s = .next s) ∧
    (s.fw.boot = .running → s.supWrites by_ = false →
      exec (.suspendedPlotResume p by_) s = .next { s with fw := { s.fw with answer := .denied } }) ∧
    (P.place = .saved → P.suspended = true → P.runnable = false →
      (s.fw.boot = .running → s.supWrites by_ = true →
        Enters (.suspendedPlotResume p by_) { P with suspended := false, trapper := none } s) ∧
      ((s.plots.map (·.1)).Nodup → (s.gangs.map (·.1)).Nodup → (∀ g < 16, ∀ G, s.gang? p g = some G → G.plot = p) →
        ∃ t, exec (.plotDestroy p) s = .next t ∧ t.plot? p = none ∧ ∀ g < 16, t.gang? p g = none)) ∧
    ((P.place ≠ .saved ∨ P.suspended = false) → exec (.plotDestroy p) s = .next s ∧
      (s.fw.boot = .running → s.supWrites by_ = true →
        exec (.suspendedPlotResume p by_) s = .next { s with fw := { s.fw with answer := .ok } })))

/-- R44, R171, R221, R310, R336 to R338, R347, R348, R352 to R354, R376, R391: what a record holds, and how plots are halted, saved and
made runnable. -/
def Obligations.PreemptionAndSaves : Prop := Claim.RecordSections ∧ Claim.SavesAndSwaps

/-! ### The owners: walks, verdicts, extents, migration (R320 to R332, R369) -/

/-- R320 to R323, R331, R362, R383: a walk reads the tables from the root, sets A and, for a write, D in the leaf, and fills the TLB;
an entry that is not valid, malformed or without the right, a confidential frame that is not the context's, a master without the right
in the owner's table, and a write to a page that migrates leave everything as it is (a walk that faults so leaves no record: log entry 74);
an invalidation ends the entries that cover its offset, and waits while writes of checked operations lie there. -/
def Claim.TableWalks : Prop :=
  (∀ (s : State) (owner ctx off root lv : Nat) (k : AccKind) (tab : Nat → Nat), owner < 16 → off < 2 ^ 48 → s.partno < 16 →
    assoc s.roots (ctx, owner) = some root → s.hbm.poison = [] → lv < 4 →
    (∀ t ∈ s.tlb, ¬ (t.owner = owner ∧ t.ctx = ctx ∧ t.base ≤ off ∧ off < t.base + t.size)) →
    let base := if owner = 8 then 0 else owner * 2 ^ 37
    let index (j : Nat) : Nat := if j = 0 then off / 2 ^ 39 % 512 else if j = 1 then off / 2 ^ 30 % 512
      else if j = 2 then off / 2 ^ 21 % 512 else off / 2 ^ 16 % 32
    let at_ (j : Nat) : Nat := base + tab j + 8 * index j
    let e (j : Nat) : Nat := s.hbm.nat (at_ j) 8
    let pointer (j : Nat) : Prop := e j % 4 = 1 ∧ e j / 2 ^ 52 = 0 ∧ e j / 4 % 64 = 0 ∧ (j < 2 → e j / 256 % 16 = 0) ∧
      e j / 2 ^ 37 % 2 ^ 15 = 0
    tab 0 = root → (∀ j < lv, pointer j ∧ tab (j + 1) = e j / 256 % 2 ^ 44 * 256) →
    let size := if lv = 1 then 2 ^ 30 else if lv = 2 then 2 ^ 21 else 2 ^ 16
    let leaf : Prop := e lv % 4 = 3 ∧ 1 ≤ lv ∧ e lv / 2 ^ 52 = 0 ∧ e lv / 2 ^ 12 % 16 = 0 ∧ e lv / 4 % 2 = 0 ∧
      (owner ≠ 8 → e lv / 256 % 2 = 0 ∧ e lv / 2 ^ 37 % 2 ^ 15 = 0) ∧ (lv = 2 → e lv / 2 ^ 16 % 32 = 0) ∧
      (lv = 1 → e lv / 2 ^ 16 % 2 ^ 14 = 0)
    let rd := e lv / 8 % 2 = 1
    let w := e lv / 16 % 2 = 1
    let right : Prop := match k with
      | .load => rd | .waitc => rd | .engRead => rd | .store => w | .engWrite => w | .atomic => rd ∧ w | .decrement => rd ∧ w
      | .fetch => e lv / 32 % 2 = 1 | .seqFetch => e lv / 32 % 2 = 1 | .migCopy => True
    let i := Instr.tableWalk owner ctx off k
    (e lv % 2 = 0 → exec i s = .next s) ∧ (e lv % 2 = 1 → ¬ leaf → ¬ (pointer lv ∧ lv < 3) → exec i s = .next s) ∧
    (leaf → ¬ right → exec i s = .next s) ∧
    let frame := e lv / 2 ^ 16 % 2 ^ 36 + off % size / 2 ^ 16
    let mine : Prop := e lv / 2 ^ 10 % 2 = 0 ∨ assoc s.frames (owner, frame) = some ctx
    let held : Prop := e lv / 2 ^ 11 % 2 = 1 ∧ k.writes = true
    let lacks : Prop := owner = 8 ∧ (k = .atomic ∨ k = .decrement) ∧ e lv / 2 ^ 8 % 2 = 0
    (leaf → right → (¬ mine ∨ s.tableAllows owner .cores k = false ∨ held ∨ lacks) → exec i s = .next s) ∧
    (leaf → right → mine → ¬ held → ¬ lacks → s.tableAllows owner .cores k = true →
      let n := e lv ||| 0x40 ||| (if k.writes then 0x80 else 0)
      exec i s = .next { s with
        hbm := if n = e lv then s.hbm else s.hbm.writeN (at_ lv) (leOf 8 n)
        tlb := ⟨owner, ctx, off - off % size, size, BitVec.ofNat 64 n⟩ ::
          s.tlb.filter fun t => !(t.owner == owner && t.ctx == ctx && t.base == off - off % size) })) ∧
  (∀ (s : State) (owner ctx off : Nat),
    let covers (t : TlbEntry) : Prop := t.owner = owner ∧ t.ctx = ctx ∧ t.base ≤ off ∧ off < t.base + t.size
    let used : Prop := ∃ t ∈ s.tlb, covers t ∧ s.owes owner ctx t.base (t.base + t.size) = true
    (used → exec (.tlbInvalidate owner ctx off) s = .next s) ∧
    (¬ used → exec (.tlbInvalidate owner ctx off) s = .next { s with
      tlb := s.tlb.filter fun t => decide (¬ (t.owner = owner ∧ t.ctx = ctx ∧ t.base ≤ off ∧ off < t.base + t.size)) }))

/-- R325 to R327, R383: a verdict comes through the supervisor interface, which lets the harts write it. RETRY closes its fault, so
every access that waits walks again; DENY keeps the verdict against its FID and
writes a record of TYPE 7; the end of a context denies every fault it has outstanding. A deferred trap is taken at the gang's
boundary with its log entry, FID, address and lanes, and resumes past nothing. -/
def Claim.Verdicts : Prop :=
  (∀ (s : State) (fid : BitVec 32), Supervised (.verdictRetry fid) s [.harts] { s with
    faults := s.faults.filter fun f => decide (¬ (f.fid = fid.toNat ∧ f.denied = false)) }) ∧
  (∀ (s : State) (fid : BitVec 32), (∀ f ∈ s.faults, f.fid = fid.toNat → f.denied = true) → Supervised (.verdictDeny fid) s [.harts] s) ∧
  (∀ (s : State) (f : FaultRec), f ∈ s.faults → f.denied = false → f.fid < 2 ^ 32 → (s.faults.map (·.fid)).Nodup →
    let what := fieldAt f.payload 4 4
    Supervised (.verdictDeny (BitVec.ofNat 32 f.fid)) s [.harts] (State.errRecord
      { s with faults := s.faults.map fun x => if x.fid = f.fid then { x with denied := true } else x } f.ctx 0x0002 f.key
      (putAt f.payload 4 (leOf 4 (what / 16 * 16 + 7))))) ∧
  (∀ (s : State) (ctx : Nat), (s.faults.map (·.fid)).Nodup → ∃ t, exec (.contextDestroy ctx) s = .next t ∧
    (t.context ctx).alive = false ∧ t.faults = s.faults.map (fun f => if f.ctx = ctx then { f with denied := true } else f) ∧
    t.plots = s.plots ∧ t.gangs = s.gangs) ∧
  (∀ (s : State) (p g : Nat) (P : Plot) (G : Gang) (d : Deferred) (ds : List Deferred), s.plot? p = some P →
    s.gang? p g = some G → P.place = .resident → G.defer = d :: ds → G.life = .running → G.storing = false →
    (∀ sl S, G.slot sl = some S → S.wait = .none) →
    let inTrap : Prop := ∃ f ∈ G.frames, f.kind = .trap
    let cause : Nat := d.code + 256 * (if d.slot = .B then 1 else 0) + (if ∃ f ∈ G.frames, f.kind = .chime then 1024 else 0) + 2048
    let info : Nat := 3 + (if d.store = true then 4 else 0) + (if d.code = 0x07 then 48 else 0) + 256 + 512 * d.entry + 2 ^ 32 * d.fid
    let Recorded (G' : Gang) : Prop := G'.tcause = BitVec.ofNat 64 cause ∧ G'.tinfo = BitVec.ofNat 64 info ∧ G'.taddr = d.addr ∧
      G'.tlane0 = d.lanes.extractLsb' 0 64 ∧ G'.tlane1 = (d.lanes.extractLsb' 64 32).setWidth 64 ∧ G'.defer = ds
    let pcOf (o : Option PcSlot) : Word64 := (o.map (·.pc)).getD 0
    ((inTrap ∨ G.tentry = 0) → ∃ G' P', exec (.deferredTrap p g) s = .next ((s.setPlot P').setGang G') ∧ Recorded G' ∧
      G'.a = G.a ∧ G'.b = G.b ∧ P'.suspended = true ∧ P'.place = .halted) ∧
    (¬ inTrap → G.tentry ≠ 0 → ∃ G', exec (.deferredTrap p g) s = .next
        (((s.setPlot { P with claims := P.claims.filter fun c => c.gang != G.idx }).setGang G').settled P.id) ∧
      Recorded G' ∧ G'.tpca = pcOf G.a ∧ G'.tpcb = pcOf G.b ∧ slotView G'.a = some (G.tentry, ~~~ G.exited, .none) ∧
      G'.b = none ∧ (∃ f, G'.frames = f :: G.frames ∧ f.kind = .trap ∧ slotView f.a = slotView G.a ∧ slotView f.b = slotView G.b) ∧
      G'.s = ((((G.s.set 56 (BitVec.ofNat 64 cause)).set 57 (BitVec.ofNat 64 info)).set 58 d.addr).set 59 d.pc).set 60
        G.shadow[4] ∧ G'.v = G.v ∧ G'.p = G.p))

/-- R329 to R332, R369: an access from another die or a peer part raises its extent's counter; an extent counter at its threshold
appends an entry and is 0 again; a migration sets MIG, commits by one new leaf after the copy, and aborts to the old frame with a
record of TYPE 5 or 6; a part that leaves is absent, the pending collectives of its groups end with ABORT, and each context with
traffic to it has a record of TYPE 7. Whether a link fault is raised then is a free value. That a FID's count begins at 1 is log 11's
choice, a commit refused on poison log 76's reading, the counter and the SRC of an appended entry log 77's, and the contexts with
traffic log 78's. -/
def Claim.ExtentsAndMigrations : Prop :=
  (∀ (s : State) (ctx addr : Nat) (r : Requester),
    let c := s.context ctx
    let owner := addr / 2 ^ 48 % 16
    let key := (owner, addr % 2 ^ 48 / 2 ^ 21)
    let n := (assoc c.counters key).getD (0, 0)
    let far : Prop := (∃ d, r = .die d ∧ d ≠ owner) ∨ ∃ q, r = .peer q
    let n' : Nat × Nat := (n.1 + 1, if n.1 + 1 = 2 ^ c.extT then r.src s.partno else n.2)
    (far → c.extT ≠ 0 → s.countAccess ctx addr r = s.setContext ctx { c with counters := assocPut c.counters key n' }) ∧
    (¬ far ∨ c.extT = 0 → s.countAccess ctx addr r = s)) ∧
  (∀ (s : State) (owner ctx extent die part : Nat),
    let c := s.context ctx
    let n := (assoc c.counters (owner, extent)).getD (0, 0)
    let i := Instr.extentCounterAppend owner ctx extent die part
    ((c.extT = 0 ∨ n.1 < 2 ^ c.extT ∨ n.2 ≠ 4 * die + 64 * part) → exec i s = .next s) ∧
    (c.extT ≠ 0 → 2 ^ c.extT ≤ n.1 → n.2 = 4 * die + 64 * part →
      let s1 := s.setContext ctx { c with counters := assocPut c.counters (owner, extent) (0, 0) }
      (c.extN = 0 → exec i s = .next s1) ∧
      (∀ (h e p1 p2 : Nat) (hd tl : Nat), c.extN ≠ 0 → s.hbm.poison = [] → s.hbm.mem.wf = true →
        (∀ q ∈ s.plots, q.2.place = .resident ∨ q.2.watches = []) → hd = s.hbm.nat h 8 → tl = s.hbm.nat (h + 8) 8 → hd - tl < 2 ^ c.extN → hd + 1 < 2 ^ 64 → (e + 32 ≤ h ∨ h + 64 ≤ e) →
        (∀ m, ∀ k ∈ [AccKind.engRead, .engWrite], ({ s1 with hbm := m } : State).lookup ctx (c.extAddr - 64) k .governors =
          (.ok (.hbm h) p1, { s1 with hbm := m })) →
        (∀ m, ({ s1 with hbm := m } : State).lookup ctx (c.extAddr + 32 * (hd % 2 ^ c.extN)) .engWrite .governors =
          (.ok (.hbm e) p2, { s1 with hbm := m })) →
        ∃ st : Store, exec i s = .next { s1 with hbm := st } ∧ st.nat h 8 = hd + 1 ∧
          st.nat e 8 = (2 + n.2) % 2 ^ 64 ∧ st.nat (e + 8) 4 = 0 ∧ st.nat (e + 12) 4 = 2 ^ c.extT % 2 ^ 32 ∧
          st.nat (e + 16) 8 = (s.partno * 2 ^ 52 + owner * 2 ^ 48 + extent * 2 ^ 21) % 2 ^ 64 ∧ st.nat (e + 24) 8 = s.time.toNat ∧
          ∀ a, (a < e ∨ e + 32 ≤ a) → (a < h ∨ h + 8 ≤ a) → st.mem.read a = s.hbm.mem.read a))) ∧
  (∀ (s : State) (owner ctx off newPa lv a e : Nat), s.leafOf owner ctx off = some (lv, a, e) →
    let z := if lv = 1 then 2 ^ 30 else if lv = 2 then 2 ^ 21 else 2 ^ 16
    let taken : Prop := e / 2 ^ 11 % 2 = 1 ∨ newPa % z ≠ 0 ∨ (owner ≠ 8 ∧ 2 ^ 37 ≤ newPa)
    (taken → exec (.migrationStart owner ctx off newPa) s = .next s) ∧
    (¬ taken → exec (.migrationStart owner ctx off newPa) s = .next { s with
      hbm := s.hbm.writeN a (leOf 8 (e + 2 ^ 11))
      migrations := ⟨owner, ctx, off - off % z, z, a, newPa⟩ :: s.migrations
      tlb := s.tlb.filter fun t => decide (¬ (t.owner = owner ∧ t.ctx = ctx ∧ t.base ≤ off ∧ off < t.base + t.size)) })) ∧
  (∀ (s : State) (owner ctx off : Nat) (m : Migration), s.migration? owner ctx off = some m →
    let gone (t : TlbEntry) : Prop := t.owner = owner ∧ t.ctx = ctx ∧ t.base ≤ off ∧ off < t.base + t.size
    let old (e : Nat) : Nat := owner * 2 ^ 37 + e / 2 ^ 16 % 2 ^ 36 * 65536
    let new := owner * 2 ^ 37 + m.newPa
    (s.migLeaf m = none → exec (.migrationCommit owner ctx off) s = .next s) ∧
    (∀ e, s.migLeaf m = some e → owner ≠ 8 →
      (s.hbm.poisoned (old e) m.size = true → exec (.migrationCommit owner ctx off) s = .next s) ∧
      (s.hbm.poisoned (old e) m.size = false → s.hbm.mem.wf = true → m.newPa < 2 ^ 52 → m.newPa % 65536 = 0 →
        (m.leaf + 8 ≤ new ∨ new + m.size ≤ m.leaf) →
        ∃ (st : Store) (t : State), exec (.migrationCommit owner ctx off) s = .next t ∧
          t = { s with hbm := st, frames := t.frames, tlb := s.tlb.filter (fun t => decide (¬ gone t)),
                       migrations := s.migrations.filter (· != m) } ∧
          (e / 2 ^ 10 % 2 = 0 → t.frames = s.frames) ∧
          st.nat m.leaf 8 = e % 2 ^ 11 + e / 2 ^ 12 % 16 * 2 ^ 12 + m.newPa + e / 2 ^ 52 * 2 ^ 52 ∧
          (∀ k < m.size, st.mem.read (new + k) = s.hbm.mem.read (old e + k)) ∧
          ∀ a, (a < new ∨ new + m.size ≤ a) → (a < m.leaf ∨ m.leaf + 8 ≤ a) → st.mem.read a = s.hbm.mem.read a)) ∧
    (let n := (assoc s.fidNext owner).getD 0
     let e := s.hbm.nat m.leaf 8
     let Ends (poison : Bool) (st : Store) : Prop := exec (.migrationAbort owner ctx off poison) s = .next (State.errRecord
       { s with free := s.free + 1, hbm := st, tlb := s.tlb.filter (fun t => decide (¬ gone t)),
                migrations := s.migrations.filter (· != m), fidNext := assocPut s.fidNext owner (n + 1) } ctx 0x0002 0
       (leOf 4 (owner * 2 ^ 28 + (n % (2 ^ 28 - 1) + 1)) ++ leOf 4 ((if poison then 6 else 5) + 16 * 9) ++
         leOf 8 (s.partno * 2 ^ 52 + owner * 2 ^ 48 + m.off) ++ leOf 8 (Config.freeResult s.free).toNat ++ leOf 4 (7 * 2 ^ 21)))
     owner < 16 → s.partno < 16 → m.off < 2 ^ 48 →
     (s.migLeaf m = some e → owner ≠ 8 →
       (s.hbm.poisoned (old e) m.size = true → Ends true (s.hbm.writeN m.leaf (leOf 8 (e - 2 ^ 11)))) ∧
       (s.hbm.poisoned (old e) m.size = false → exec (.migrationAbort owner ctx off true) s = .next s) ∧
       exec (.migrationAbort owner ctx off false) s = .next s) ∧
     (s.migLeaf m = none → e % 2 = 0 → Ends false s.hbm))) ∧
  (∀ (s : State) (part : Nat),
    let busy (G : Gang) : Prop := G.trafficTo part = true ∨ (∃ o ∈ G.engCp ++ G.engGs ++ G.engCl ++ G.engEv, o.reaches part = true) ∨
      ∃ c ∈ G.chimes, ∃ t v w, c.what = .ring t v w ∧ t.toNat / 2 ^ 28 = part
    let traffic (c : Nat) : Prop := (∃ q ∈ s.plots, q.2.ctx = c ∧ ∃ G ∈ s.gangsOf q.1, busy G) ∨
      ∃ g ∈ s.groups, g.ctx = c ∧ ∃ r ∈ g.ranks, r.1 = part
    let record (s : State) (c : Nat) : State :=
      let n := (assoc s.fidNext 0).getD 0
      State.errRecord { s with fidNext := assocPut s.fidNext 0 (n + 1) } c 0x0002 0
        (leOf 4 (n % (2 ^ 28 - 1) + 1) ++ leOf 4 7 ++ leOf 8 (part * 2 ^ 52) ++ leOf 8 0 ++ leOf 4 (7 * 2 ^ 21))
    ((part = s.partno ∨ part ∉ s.domain) → exec (.partLeavesDomain part) s = .next s) ∧
    (part ≠ s.partno → part ∈ s.domain → ∃ (cs : List Nat) (gangs : Tbl Gang) (raised : List (RouteSrc × Word × Option Claimant)), cs.Nodup ∧
      (∀ c, c ∈ cs ↔ traffic c) ∧ (∀ x, x.1 ≠ .linkFault → (x ∈ raised ↔ x ∈ s.fw.raised)) ∧
      exec (.partLeavesDomain part) s = .next (cs.foldl record { s with
        domain := s.domain.filter (· != part), gangs := gangs, free := s.free + 1, fw := { s.fw with raised := raised } }) ∧
      ∀ p g G, s.gang? p g = some G → ∃ G', (({ s with gangs := gangs } : State).gang? p g) = some G' ∧
        { G' with engCl := G.engCl } = G ∧ G'.engCl = G.engCl.map fun o =>
          if (∃ x ∈ s.groups, x.handle = o.cGroup ∧ ∃ r ∈ x.ranks, r.1 = part) ∧ o.phase ≠ .finished
          then { o with phase := .finished, code := 0x0C, sub := 0, elem := 0, fid := none } else o))

/-- R320 to R323, R325 to R327, R329 to R332, R369: table walks and invalidations; verdicts on faults and what they
leave; extents, migrations and parts that leave. The request id of a migration abort's record is a number that the
statement leaves free. -/
def Obligations.OwnerSteps : Prop := Claim.TableWalks ∧ Claim.Verdicts ∧ Claim.ExtentsAndMigrations

/-! ### The host ports, trusted interfaces, the Orangery and the links (R357 to R368) -/

/-- R173, R357 to R359, R361, R364, R367, R368: a bus request is performed through its aperture at the owner as an access of the
aperture's context; one through no aperture, of another context, refused or denied is Unsupported Request, or is counted when it
writes; a write that waits is kept, and holds back what its function sends later. A hart's access is translated by its own MMU,
then performed likewise, or raises the family's fault (that entry and the MMU are log 20's presumption). A peer part's access is
performed at the owner. That a request across a 4 KiB boundary, an AtomicOp of another size or alignment, a poisoned place and a hub
window are Unsupported Requests is log 80's choice. -/
def Claim.BusRequests : Prop :=
  -- the bytes that a request answers, and what it leaves at its place
  let Does (s : State) (l : Loc) (r : BusReq) (ans : List Byte) (t : State) : Prop :=
    let put (bs : List Byte) (n : Nat) : State := (s.writeLoc l bs).fire l n
    match r with
    | .read n => ans = s.readLoc l n ∧ t = s
    | .write bs => ans = [] ∧ t = put bs bs.length
    | .fetchAdd n v => ans = s.readLoc l n ∧ t = put (leOf n (natOf (s.readLoc l n) + v.toNat)) n
    | .swap n v => ans = s.readLoc l n ∧ t = put (leOf n v.toNat) n
    | .cas n c v => ans = s.readLoc l n ∧
        t = if natOf (s.readLoc l n) = c.toNat % 2 ^ (8 * n) then put (leOf n v.toNat) n else s.fire l n
  let size (r : BusReq) : Nat := match r with
    | .read n => n | .write bs => bs.length | .fetchAdd n _ => n | .swap n _ => n | .cas n _ _ => n
  let kind (r : BusReq) : AccKind := match r with | .read _ => .load | .write _ => .store | _ => .atomic
  let fits (off : Nat) (r : BusReq) : Prop := off % 4096 + size r ≤ 4096 ∧
    (kind r = .atomic → (size r = 4 ∨ size r = 8) ∧ off % size r = 0)
  let Unsupported (s : State) (port : Nat) (r : BusReq) (t : State) : Prop :=
    if kind r = .store then t = { s with portErrors := assocPut s.portErrors port ((assoc s.portErrors port).getD 0 + 1) }
    else t = { s with lastRead := [] }
  let Answers (s : State) (l : Loc) (r : BusReq) (t : State) : Prop :=
    ∃ ans t0, Does s l r ans t0 ∧ t = if kind r = .store then t0 else { t0 with lastRead := ans }
  let held (s : State) (f : BusFn) (off : Nat) (r : BusReq) : State := match r with
    | .write bs => { s with posted := s.posted ++ [⟨some f, .aperture off bs⟩] }
    | _ => s
  (∀ (s : State) (f : BusFn) (off : Nat) (r : BusReq), s.fw.boot = .running →
    ((f.port = 0 ∧ ∀ v, f.vf = some v → v < 64) ∨ (f.port = 1 ∧ f.vf = none)) →
    let i := Instr.apertureAccess f.vf f.ide f.port off r
    let bound : Option Interface := f.vf.bind s.vfs.find
    let dropped : Prop := ∃ x, bound = some x ∧ x.tdisp = .run ∧ (f.ide = none ∨ f.ide ≠ x.ide)
    let behind : Prop := ∃ q ∈ s.posted, ∃ g, q.fn = some g ∧ g.port = f.port ∧ g.vf = f.vf
    let Fails (s : State) : Prop := ∃ t, exec i s = .next t ∧ Unsupported s f.port r t
    (dropped → exec i s = .next { s with ideDropped := s.ideDropped + 1 }) ∧
    (¬ dropped → behind → exec i s = .next (held s f off r)) ∧
    (¬ dropped → ¬ behind → s.apertures.find (off / 2 ^ 21) = none → Fails s) ∧
    ∀ ctx base, ¬ dropped → ¬ behind → s.apertures.find (off / 2 ^ 21) = some (ctx, base) →
      let addr := base + off % 2 ^ 21
      let master : Master := if f.vf ≠ none then .port0vf else if f.port = 0 then .port0pf else .port1
      let window : Prop := addr / 2 ^ 48 % 16 = 8 ∧ 0x800000000000 ≤ addr % 2 ^ 48
      let reaches : Prop := f.vf = none ∨ ∃ x, bound = some x ∧ x.ctx = ctx
      let acc := s.partAccess ctx addr (kind r) master (hubWho (kind r)) .other [f.port, (f.vf.map (· + 1)).getD 0]
      ((¬ reaches ∨ ¬ fits off r ∨ window) → Fails s) ∧
      (reaches → fits off r → ¬ window →
        (∀ s1, acc = (.denied, s1) → ∃ t, exec i s = .next t ∧ Unsupported s1 f.port r t) ∧
        (∀ s1, acc = (.wait, s1) → exec i s = .next (held s1 f off r)) ∧
        ∀ l s1, acc = (.ok l, s1) →
          (kind r ≠ .store → s1.poisonedLoc l (size r) = true → ∃ t, exec i s = .next t ∧ Unsupported s1 f.port r t) ∧
          ((kind r = .store ∨ s1.poisonedLoc l (size r) = false) → ∃ t, exec i s = .next t ∧ Answers s1 l r t))) ∧
  -- a held write that stands behind another of its function waits on
  (∀ (s : State) (k j : Nat) (q x : Posted) (f g : BusFn), s.posted[k]? = some q → s.posted[j]? = some x → j < k →
    q.fn = some f → x.fn = some g → g.port = f.port → g.vf = f.vf → s.postedTurn k = s) ∧
  (∀ (s : State) (h : Nat) (addr : Word64) (r : BusReq) (H : Hart), s.hart? h = some H →
    let i := Instr.orangeryMemoryAccess h addr r
    let refused : Nat := if kind r = .load then 5 else 7
    let Excepts (u : State) (cause : Nat) : Prop := exec i s = .next (u.setHart h (H.except cause addr))
    (∀ u, s.hartVa h H H.dataMode addr (kind r) = (.error .wait, u) → exec i s = .next u) ∧
    (∀ u c, s.hartVa h H H.dataMode addr (kind r) = (.error (.fault c), u) → Excepts u c) ∧
    ∀ u a, s.hartVa h H H.dataMode addr (kind r) = (.ok a, u) →
      let window : Prop := a / 2 ^ 48 % 16 = 8 ∧ 0x800000000000 ≤ a % 2 ^ 48
      let acc := u.partAccess (H.skctx.toNat % 65536) a (kind r) .harts (hubWho (kind r)) .other [h]
      let page := a % 2 ^ 32 / 65536
      (¬ window → ¬ fits a r → Excepts u (if kind r = .load then 4 else 6)) ∧
      (∀ s1, ¬ window → fits a r → acc = (.denied, s1) → Excepts s1 refused) ∧
      (∀ s1, ¬ window → fits a r → acc = (.wait, s1) → exec i s = .next s1) ∧
      (∀ l s1, ¬ window → fits a r → acc = (.ok l, s1) →
        (kind r ≠ .store → s1.poisonedLoc l (size r) = true → Excepts s1 refused) ∧
        ((kind r = .store ∨ s1.poisonedLoc l (size r) = false) → ∃ t, exec i s = .next t ∧ Answers s1 l r t)) ∧
      (window → a / 2 ^ 52 % 16 = u.partno →
        ((∀ bs, r ≠ .write bs) ∨ u.tableAllows targetHub .harts .store = false → Excepts u refused) ∧
        (∀ bs, r = .write bs → u.tableAllows targetHub .harts .store = true →
          (0x800000000000 ≤ a % 2 ^ 48 → a % 2 ^ 48 < 0x800100000000 → exec i s = .next (u.notifyWrite page (a % 65536) bs)) ∧
          (0x800100000000 ≤ a % 2 ^ 48 → a % 2 ^ 48 < 0x800200000000 → exec i s = .next (u.doorbellWrite page (a % 65536) bs))))) ∧
  -- M-mode, and a mode whose root is off, translate nothing
  (∀ (s : State) (h : Nat) (H : Hart) (p : Priv) (addr : Word64) (k : AccKind),
    let off (n : Nat) : Prop := ((H.csrs.find n).getD 0).toNat / 2 ^ 60 ≠ 9
    (p = .m ∨ ((p = .hs ∨ p = .u) ∧ off 0x180) ∨ ((p = .vs ∨ p = .vu) ∧ off 0x280 ∧ off 0x680)) →
    s.hartVa h H p addr k = (.ok addr.toNat, s)) ∧
  -- a peer part's accesses
  (∀ (s : State) (part ctx addr : Nat), s.fw.boot = .running → part ≠ s.partno → part ∈ s.domain →
    addr / 2 ^ 52 % 16 = s.partno →
    let Ends (q : PeerReq) (k : AccKind) (n : Nat) (put : Bool) (t : State → Loc → State) : Prop :=
      let acc := s.partAccess ctx addr k .links (hubWho k) (.peer part) [part]
      (∀ s1, acc = (.wait, s1) → s.peerTurn part q = s1) ∧ (∀ s1, acc = (.denied, s1) → s.peerTurn part q = { s1 with lastRead := [] }) ∧
      ∀ s1 l, acc = (.ok l, s1) → s.peerTurn part q =
        if put = true ∨ s1.poisonedLoc l n = false then t s1 l else { s1 with lastRead := [] }
    ∀ (n : Nat) (engine : Bool) (bs : List Byte) (fn : AtomFn) (c e : Word64),
      Ends (.load ctx addr n engine) (if engine then .engRead else .load) n false (fun s l => { s with lastRead := s.readLoc l n }) ∧
      Ends (.store ctx addr bs engine) (if engine then .engWrite else .store) bs.length true
        (fun s l => (s.writeLoc l bs).fire l bs.length) ∧
      Ends (.atomic ctx addr fn c e) .atomic fn.size false fun s l =>
        let r := s.rmw l fn c e
        { r.2.fire l fn.size with lastRead := leOf fn.size r.1 })

/-- R355, R358, R360, R361, R363, R365, R367, R368, R380, R383: an aperture binds a context and an aligned address, unless an interface
of its old or its new context has its configuration frozen, which is an error; the legal steps of the interface of a virtual function, and
the requests that are answered with the error response (a STOP of an interface that is locked only unlocks it, and one that is unlocked
takes a STOP: log 81's choices, with what ERROR keeps); ERROR suspends the context's plots (whose TRAP record log 38 describes) and erases
its keys; STOP wipes its confidential frames; a key install in RUN gives a new generation; no request is performed before the firmware
runs, or where the security engine's table refuses the governors; skctx is written in HS-mode only. -/
def Claim.InterfacesAndKeys : Prop :=
  -- a suspended plot of a context: its TRAP record names its trap, or its first gang that runs
  let down (s : State) (P : Plot) : Plot := { P with
    place := if P.place = .resident then .halted else P.place
    suspended := true
    runnable := false
    saving := none
    trapper := if P.trapper = none then ((s.gangsOf P.id).find? fun G => G.life == .running).map fun G => (G.idx, false) else P.trapper }
  -- the interface of a function has entered ERROR; a plot that is saved has its TRAP record written now
  let Error (s : State) (vf : Nat) (x : Interface) (t : State) : Prop := ∃ u : State,
    t = (s.plots.filter fun q => q.2.ctx == x.ctx && q.2.place == .saved && !q.2.suspended).foldl (fun t q => t.trapRecord (down s q.2)) u ∧
    u.vfs = s.vfs.put vf { x with tdisp := .error } ∧
    u.contexts = (s.setContext x.ctx { s.context x.ctx with keys := List.replicate 8 none }).contexts ∧
    u.plots = s.plots.map (fun q => if q.2.ctx = x.ctx then (q.1, down s q.2) else q) ∧
    u.gangs = s.gangs ∧ u.hbm = s.hbm ∧ u.host = s.host ∧ u.apertures = s.apertures ∧
    (∀ e ∈ u.backlog, e ∈ s.backlog) ∧ ∀ e ∈ s.backlog, e ∉ u.backlog → ∃ p P, e.what = .plot p ∧ s.plot? p = some P ∧ P.ctx = x.ctx
  let frozen (x : Interface) : Prop := x.tdisp = .locked ∨ x.tdisp = .run
  let Says (s : State) (a : Answer) : State := { s with fw := { s.fw with answer := a } }
  (∀ (s : State) (n ctx addr : Nat), (s.vfs.map (·.1)).Nodup →
    let i := Instr.apertureBind n ctx addr
    let ms := [Master.port0pf, .harts, .governors]
    -- the context, old or new, whose frozen interfaces enter ERROR
    let Stops (c : Nat) : Prop := ∃ t, Supervised i s ms t ∧ t.apertures = s.apertures ∧
      (∀ k x, s.vfs.find k = some x → x.ctx = c → frozen x → t.vfs.find k = some { x with tdisp := .error }) ∧
      ∀ k x, s.vfs.find k = some x → s.frozenOf c = [k] → Error s k x t
    let thaws (c : Nat) : Prop := ∀ q ∈ s.vfs, q.2.ctx = c → ¬ frozen q.2
    ((524288 ≤ n ∨ addr % 2 ^ 21 ≠ 0) → Supervised i s ms s) ∧
    (n < 524288 → addr % 2 ^ 21 = 0 →
      (∀ c a, s.apertures.find n = some (c, a) → ¬ thaws c → Stops c) ∧
      ((∀ c a, s.apertures.find n = some (c, a) → thaws c) → ¬ thaws ctx → Stops ctx) ∧
      ((∀ c a, s.apertures.find n = some (c, a) → thaws c) → thaws ctx →
        Supervised i s ms { s with apertures := s.apertures.put n (ctx, addr) }))) ∧
  (∀ (s : State) (vf : Nat) (slot : BitVec 3) (key : BitVec 256) (salt : Word), ∀ i ∈ [Instr.lockInterface vf, .startInterface vf,
      .stopInterface vf, .keyInstall vf slot key salt],
    (s.fw.boot ≠ .running → exec i s = .next s) ∧
    (s.fw.boot = .running → s.tableAllows targetSecurity .governors .store = false → exec i s = .next (Says s .denied)) ∧
    (s.fw.boot = .running → s.tableAllows targetSecurity .governors .store = true → s.vfs.find vf = none →
      exec i s = .next (Says s .tdispError))) ∧
  (∀ (s : State) (vf : Nat) (x : Interface), s.fw.boot = .running → s.tableAllows targetSecurity .governors .store = true →
    s.vfs.find vf = some x →
    let c := s.context x.ctx
    let To (d : Tdisp) (s : State) : State := Says { s with vfs := s.vfs.put vf { x with tdisp := d } } .ok
    (x.tdisp = .unlocked → exec (.lockInterface vf) s = .next (To .locked s)) ∧
    (x.tdisp ≠ .unlocked → exec (.lockInterface vf) s = .next (Says s .tdispError)) ∧
    (x.tdisp = .locked → exec (.startInterface vf) s = .next (To .run s)) ∧
    (x.tdisp ≠ .locked → exec (.startInterface vf) s = .next (Says s .tdispError)) ∧
    (x.tdisp = .locked ∨ x.tdisp = .unlocked → exec (.stopInterface vf) s = .next (To .unlocked s)) ∧
    ((x.tdisp = .run ∨ x.tdisp = .error) → ∃ st : Store, exec (.stopInterface vf) s =
        .next (To .unlocked { s.setContext x.ctx { c with keys := List.replicate 8 none } with hbm := st }) ∧
      let mine (a : Nat) : Prop := ∃ d < 4, ∃ f, ((d, f), x.ctx) ∈ s.frames ∧ d * 2 ^ 37 + f * 65536 ≤ a ∧ a < d * 2 ^ 37 + f * 65536 + 65536
      (∀ a, mine a → st.mem.read a = 0) ∧ ∀ a, ¬ mine a → st.mem.read a = s.hbm.mem.read a) ∧
    (frozen x → ∃ t, exec (.tdispError vf) s = .next t ∧ Error s vf x t) ∧
    (¬ frozen x → exec (.tdispError vf) s = .next s) ∧
    ∀ (slot : BitVec 3) (key : BitVec 256) (salt : Word),
      (c.conf = true → x.tdisp = .run → exec (.keyInstall vf slot key salt) s = .next (Says (s.setContext x.ctx { c with
        keys := c.keys.set slot.toNat (some ⟨key, salt, 0, 0, c.keyGen + 1⟩), keyGen := c.keyGen + 1 }) .ok)) ∧
      ((c.conf = false ∨ x.tdisp ≠ .run) → exec (.keyInstall vf slot key salt) s = .next (Says s .tdispError))) ∧
  (∀ (s : State) (ide : Nat), (s.vfs.map (·.1)).Nodup →
    let hit (c : Nat) : Bool := s.vfs.any fun q => q.2.ide == some ide && q.2.ctx == c
    (∀ q ∈ s.plots, hit q.2.ctx = true → q.2.place = .saved → q.2.suspended = true) →
    ∃ t, exec (.ideIntegrityFailure ide) s = .next t ∧
    (∀ k x, s.vfs.find k = some x → t.vfs.find k = some (if x.ide = some ide then { x with tdisp := .error } else x)) ∧
    (∀ c, t.context c = if hit c = true then { s.context c with keys := List.replicate 8 none } else s.context c) ∧
    t.plots = s.plots.map (fun q => if hit q.2.ctx = true then (q.1, down s q.2) else q) ∧
    t.gangs = s.gangs ∧ t.hbm = s.hbm) ∧
  (∀ (s : State) (h : Nat) (v : Word64) (H : Hart), s.hart? h = some H →
    (H.priv = .hs → exec (.skctxWrite h v) s = .next (s.setHart h { H with
      skctx := BitVec.ofNat 64 (v.toNat / 2 ^ 63 * 2 ^ 63 + v.toNat % 65536), pc := H.pc + 4 })) ∧
    (H.priv ≠ .hs → exec (.skctxWrite h v) s = .next (s.setHart h (H.except 2 0)))) ∧
  (∀ (s : State) (link : Nat), exec (.flitCrcRetry link) s = .next s) ∧
  (∀ (s : State) (n : BitVec 4) (parts : List Nat),
    (s.booted = false → exec (.domainForm n parts) s = .next s) ∧
    (s.booted = true → ∃ d : List Nat, exec (.domainForm n parts) s = .next { s with partno := n.toNat, domain := d } ∧ d.Nodup ∧
      ∀ p, p ∈ d ↔ p = n.toNat ∨ (p ∈ parts ∧ p < 16)))

/-- R364, R365: a hart's own instructions. An exception goes to M-mode, HS-mode or VS-mode as it is delegated, saves the pc, the cause and
its value there, and stacks the mode and the interrupt enable; MRET takes them back; ECALL, EBREAK and WFI; register arithmetic, branches
and jumps; loads and stores through the hart's MMU and the owner; an AMO; and the custom CSR, which every mode reads and HS-mode alone
writes. That the harts are RISC-V harts is R364's; what RISC-V's instructions and traps do is log 20's and log 21's presumption. -/
def Claim.HartInstructions : Prop :=
  -- exceptions
  (∀ (H : Hart) (cause : Nat) (tval : Word64), cause < 64 →
    let guest : Prop := H.priv = .vs ∨ H.priv = .vu
    let mode : Nat := match H.priv with | .m => 3 | .hs => 1 | .vs => 1 | _ => 0
    let toM : Prop := H.priv = .m ∨ (H.raw 0x302).getLsbD cause = false
    let toVS : Prop := ¬ toM ∧ guest ∧ (H.raw 0x602).getLsbD cause = true
    let t := H.except cause tval
    t.x = H.x ∧ t.f = H.f ∧ t.skctx = H.skctx ∧ t.resv = H.resv ∧
    (toM → t.priv = .m ∧ t.pc = H.raw 0x305 &&& ~~~ (3 : Word64) ∧ t.raw 0x341 = H.pc ∧ t.raw 0x342 = BitVec.ofNat 64 cause ∧
      t.raw 0x343 = tval ∧ (t.raw 0x300).toNat / 2 ^ 11 % 4 = mode ∧ ((t.raw 0x300).getLsbD 39 = true ↔ guest) ∧
      (t.raw 0x300).getLsbD 7 = (H.raw 0x300).getLsbD 3 ∧ (t.raw 0x300).getLsbD 3 = false) ∧
    (toVS → t.priv = .vs ∧ t.pc = H.raw 0x205 &&& ~~~ (3 : Word64) ∧ t.raw 0x241 = H.pc ∧ t.raw 0x242 = BitVec.ofNat 64 cause ∧
      t.raw 0x243 = tval ∧ ((t.raw 0x200).getLsbD 8 = true ↔ mode = 1) ∧
      (t.raw 0x200).getLsbD 5 = (H.raw 0x200).getLsbD 1 ∧ (t.raw 0x200).getLsbD 1 = false) ∧
    (¬ toM → ¬ toVS → t.priv = .hs ∧ t.pc = H.raw 0x105 &&& ~~~ (3 : Word64) ∧ t.raw 0x141 = H.pc ∧ t.raw 0x142 = BitVec.ofNat 64 cause ∧
      t.raw 0x143 = tval ∧ ((t.raw 0x300).getLsbD 8 = true ↔ mode = 1) ∧ ((t.raw 0x600).getLsbD 7 = true ↔ guest) ∧
      (t.raw 0x300).getLsbD 5 = (H.raw 0x300).getLsbD 1 ∧ (t.raw 0x300).getLsbD 1 = false)) ∧
  -- the instructions that change the mode
  (∀ (s : State) (h : Nat) (H : Hart) (tval : Word64),
    let Ends (w : BitVec 32) (t : Hart) : Prop := s.rvStep h H w 4 tval = s.setHart h t
    let call : Nat := match H.priv with | .u => 8 | .vu => 8 | .hs => 9 | .vs => 10 | .m => 11
    let old : Nat := (H.raw 0x300).toNat / 2 ^ 11 % 4
    let v := (H.raw 0x300).getLsbD 39
    Ends 0x00000073 (H.except call 0) ∧ Ends 0x00100073 (H.except 3 H.pc) ∧ Ends 0x10500073 { H with pc := H.pc + 4 } ∧
    (H.priv ≠ .m → Ends 0x30200073 (H.except 2 tval)) ∧
    (H.priv = .m → ∃ t : Hart, Ends 0x30200073 t ∧ t.pc = H.raw 0x341 ∧ t.x = H.x ∧ t.f = H.f ∧ t.skctx = H.skctx ∧
      (old = 3 → t.priv = .m) ∧ (old = 1 → t.priv = if v = true then .vs else .hs) ∧
      (old = 0 → t.priv = if v = true then .vu else .u) ∧ (t.raw 0x300).toNat / 2 ^ 11 % 4 = 0 ∧
      (t.raw 0x300).getLsbD 3 = (H.raw 0x300).getLsbD 7 ∧ (t.raw 0x300).getLsbD 7 = true)) ∧
  (∀ (s : State) (h : Nat) (H : Hart) (w : BitVec 32) (tval : Word64),
    let op := (w.extractLsb' 0 7).toNat
    let rd := w.extractLsb' 7 5
    let f3 := (w.extractLsb' 12 3).toNat
    let rs1 := w.extractLsb' 15 5
    let f7 := (w.extractLsb' 25 7).toNat
    let a := H.reg rs1
    let b := H.reg (w.extractLsb' 20 5)
    let imm : Word64 := (w.extractLsb' 20 12).signExtend 64
    let upper : Word64 := (w.extractLsb' 12 20 ++ (0 : BitVec 12)).signExtend 64
    let Puts (u : State) (v : Word64) : Prop := s.rvStep h H w 4 tval = u.setHart h { H.setReg rd v with pc := H.pc + 4 }
    -- register arithmetic, jumps and branches
    (op = 0x13 → f3 = 0 → Puts s (a + imm)) ∧ (op = 0x37 → Puts s upper) ∧ (op = 0x17 → Puts s (H.pc + upper)) ∧
    (op = 0x33 → f7 = 0 → (f3 = 0 → Puts s (a + b)) ∧ (f3 = 1 → Puts s (a <<< (b.toNat % 64))) ∧
      (f3 = 2 → Puts s (if a.toInt < b.toInt then 1 else 0)) ∧ (f3 = 3 → Puts s (if a.toNat < b.toNat then 1 else 0)) ∧
      (f3 = 4 → Puts s (a ^^^ b)) ∧ (f3 = 5 → Puts s (a >>> (b.toNat % 64))) ∧ (f3 = 6 → Puts s (a ||| b)) ∧ (f3 = 7 → Puts s (a &&& b))) ∧
    (op = 0x33 → f7 = 0x20 → (f3 = 0 → Puts s (a - b)) ∧ (f3 = 5 → Puts s (a.sshiftRight (b.toNat % 64)))) ∧
    (op = 0x33 → f7 = 1 → (f3 = 0 → Puts s (a * b)) ∧ (f3 = 3 → Puts s (BitVec.ofNat 64 (a.toNat * b.toNat / 2 ^ 64))) ∧
      (f3 = 5 → Puts s (if b = 0 then BitVec.allOnes 64 else BitVec.ofNat 64 (a.toNat / b.toNat))) ∧
      (f3 = 7 → Puts s (BitVec.ofNat 64 (a.toNat % b.toNat)))) ∧
    (op = 0x3B → f7 = 0 → f3 = 0 → Puts s (((a + b).setWidth 32).signExtend 64)) ∧
    (op = 0x67 → f3 = 0 → s.rvStep h H w 4 tval = s.setHart h { H.setReg rd (H.pc + 4) with pc := (a + imm) &&& ~~~ (1 : Word64) }) ∧
    (op = 0x63 → ∀ t : Word64, t = (w.extractLsb' 31 1 ++ w.extractLsb' 7 1 ++ w.extractLsb' 25 6 ++ w.extractLsb' 8 4 ++ (0 : BitVec 1)).signExtend 64 →
      let Goes (c : Prop) : Prop := (c → s.rvStep h H w 4 tval = s.setHart h { H with pc := H.pc + t }) ∧
        (¬ c → s.rvStep h H w 4 tval = s.setHart h { H with pc := H.pc + 4 })
      (f3 = 0 → Goes (a = b)) ∧ (f3 = 1 → Goes (a ≠ b)) ∧ (f3 = 4 → Goes (a.toInt < b.toInt)) ∧ (f3 = 7 → Goes (b.toNat ≤ a.toNat))) ∧
    -- loads and stores
    (let Faults (r : Except HartEnd (List Byte) × State) (va : Word64) : Prop := ∀ u,
        (r = (.error .wait, u) → s.rvStep h H w 4 tval = u) ∧
        ∀ c, r = (.error (.fault c), u) → s.rvStep h H w 4 tval = u.setHart h (H.except c va)
     let n := 2 ^ (f3 % 4)
     (op = 0x03 → f3 ≠ 7 →
       let r := s.hartDo h H H.dataMode (a + imm) (.read n)
       Faults r (a + imm) ∧ ∀ bs u, r = (.ok bs, u) →
         Puts u (if f3 < 3 then (BitVec.ofNat (8 * n) (natOf bs)).signExtend 64 else BitVec.ofNat 64 (natOf bs))) ∧
     (op = 0x23 → f3 < 4 →
       let va := a + (w.extractLsb' 25 7 ++ w.extractLsb' 7 5).signExtend 64
       let r := s.hartDo h H H.dataMode va (.write (leOf n b.toNat))
       Faults r va ∧ ∀ bs u, r = (.ok bs, u) → s.rvStep h H w 4 tval = u.setHart h { H with pc := H.pc + 4 })) ∧
    -- AMOADD.W and AMOADD.D at a place in memory
    (op = 0x2F → f7 / 4 = 0 → ∀ n l u, ((f3 = 2 ∧ n = 4) ∨ (f3 = 3 ∧ n = 8)) → a.toNat % n = 0 →
      s.hartReach h H H.dataMode a n .atomic = (.ok (.mem l), u) →
      let old := natOf (u.readLoc l n)
      let v : Word64 := if n = 4 then (BitVec.ofNat 32 old).signExtend 64 else BitVec.ofNat 64 old
      s.rvStep h H w 4 tval = ((u.writeLoc l (leOf n (old + b.toNat))).setHart h { H.setReg rd v with pc := H.pc + 4 }).fire l n) ∧
    -- the words on skctx
    (op = 0x73 → f3 % 4 ≠ 0 → w.extractLsb' 20 12 = 0x5C0 →
      let v : Word64 := if f3 < 4 then a else rs1.setWidth 64
      let Ends (H1 : Hart) : Prop := s.rvStep h H w 4 tval =
        State.setHart { s with free := s.free + 1 } h { H1.setReg rd H.skctx with pc := H.pc + 4 }
      let Writes (x : Word64) : Prop := (H.priv = .hs → Ends { H with skctx := x &&& 0x800000000000FFFF }) ∧
        (H.priv ≠ .hs → s.rvStep h H w 4 tval = s.setHart h (H.except 2 tval))
      (f3 % 4 = 1 → Writes v) ∧
      (f3 % 4 = 2 → (rs1 = 0 → Ends H) ∧ (rs1 ≠ 0 → Writes (H.skctx ||| v))) ∧
      (f3 % 4 = 3 → (rs1 = 0 → Ends H) ∧ (rs1 ≠ 0 → Writes (H.skctx &&& ~~~v)))))

/-- R357, R358, R360, R361, R363 to R365, R367, R368: bus requests and a hart's accesses; apertures, interfaces, keys
and skctx; a hart's own instructions, which are presumed (log entries 20 and 21). -/
def Obligations.HostAndOrangery : Prop := Claim.BusRequests ∧ Claim.InterfacesAndKeys ∧ Claim.HartInstructions

/-! ### Clocks, current and heat (R370 to R376, R388, R389) -/

/-- R12, R371 to R376, R387 to R389: PERFCLASS sets its plot's request and reads the ceiling, PERFQ reads the cluster; a change
of class pauses the cluster's vector and sequencer words until its lane arrays and queues are empty; grants go by the lowest draw within
the module's budget (an input, log entry 85), at most 8 under full matrix load; pairing and the hold follow the accumulator over the
cycles that have passed; heat trips the part, moves one plot, or lowers every ceiling; there are 32 clusters. That each request is
bounded by its own context's ceiling is log 83's reading, that event 7 is sampled at core 0's scope and the cluster's log 87's, and a
supervisor ceiling that nothing has set is the part's own (log entry 9). -/
def Claim.ClassesAndHeat : Prop :=
  let ceiling (s : State) (ctx c : Nat) : Nat :=
    min (min (((assoc (s.context ctx).ceilings c)).getD (min (Config.freeCeiling (32 * ctx + c)).toNat 2)) (s.cluster c).grant)
      (s.cluster c).therm
  let here (s : State) (c : Nat) : List Plot := (s.plots.map (·.2)).filter fun P => P.core / 12 == c && P.place != .saved
  let most (l : List Nat) (m : Nat) : Prop := (∀ x ∈ l, x ≤ m) ∧ (m = 0 ∨ m ∈ l)
  -- pairing and the hold with the new sum A against the budget Q
  let Judged (was now : Cluster) : Prop :=
    let a := now.charges.sum
    let q := now.budget
    (4 * a < 3 * q → now.pairing = false ∧ now.hold = false) ∧
    (3 * q ≤ 4 * a → now.pairing = true ∧ (7 * q ≤ 8 * a → now.hold = true) ∧ (8 * a < 7 * q → now.hold = was.hold))
  (∀ (s : State) (x : Issuer) (d : SReg) (n : BitVec 2), Ready s x → CanIssue s x [] [d.toNat] →
    let c := x.P.core / 12
    let k := s.clusterNow c
    LeavesWith (.perfclass d n) s x (s.setPlot { x.P with req := n.toNat }) d (BitVec.ofNat 64 (ceiling s x.P.ctx c)) ∧
    Gives (.perfq d) s x d (BitVec.ofNat 64 (k.cls + 4 * x.P.req + 16 * ceiling s x.P.ctx c + 64 * k.therm +
      (if k.hold = true then 256 else 0) + (if k.pairing = true then 512 else 0) + 65536 * min k.temp 255))) ∧
  (∀ (s : State) (c : Nat),
    let x := s.cluster c
    let busy : Prop := s.ticks < x.lanesTill ∨ ∃ k < 12, (s.core (12 * c + k)).sfq ≠ []
    ∀ m : Nat, most ((here s c).map fun P => min P.req (ceiling s P.ctx c)) m →
      (c < 32 → m ≠ x.cls → busy → exec (.classChange c) s = .next (s.setCluster c { x with pausing := true })) ∧
      (c < 32 → (m = x.cls ∨ ¬ busy) → exec (.classChange c) s = .next (s.setCluster c { x with cls := m, pausing := false })) ∧
      (32 ≤ c → exec (.classChange c) s = .next s)) ∧
  -- a word that has issued is charged at the start of each of its three beats, and holds its lane array for all of them; a cycle at
  -- class 1 is two of the cluster's at class 0, and two at class 2 are one
  (∀ (s : State) (P : Plot) (G : Gang) (S : PcSlot) (w : BitVec 128),
    let c := P.core / 12
    let cls := (s.cluster c).cls
    let halves (n : Nat) : Nat := if cls = 0 then 4 * n else if cls = 1 then 2 * n else n
    let t := s.charge P.core (chargeOf cls G S w)
    let start (b : Nat) : Nat := halves (b * beatCycles G w) / 2
    (∀ k, (chargeOf cls G S w).getD k 0 = (((List.range 3).filter fun b => start b == k).map (beatCharge G S w)).sum) ∧
    (arraysOf w = 0 → s.chargeWord P G S w = t) ∧
    (arraysOf w ≠ 0 → s.chargeWord P G S w = t.setCluster c { t.cluster c with
      lanesTill := max (t.cluster c).lanesTill (s.ticks + (halves (3 * beatCycles G w) + 1) / 2) }) ∧
    (0x111 ≤ (w.extractLsb' 2 9).toNat → (w.extractLsb' 2 9).toNat ≤ 0x113 → beatCycles G w = 8)) ∧
  -- while a change of class pends, words that name a vector register stay back, and heavy ones do under the hold
  (∀ (x : Cluster) (w : BitVec 128), x.holdsBack w = true ↔
    (x.hold = true ∧ heavy w = true) ∨ (x.pausing = true ∧ (namesVector w = true ∨ isPair w = true))) ∧
  (∀ (s : State) (budget : Nat), ∃ t, exec (.currentGrantEval budget) s = .next t ∧ t = { s with clusters := t.clusters } ∧
    let full : Prop := ∀ c < 32, ∃ P ∈ here s c, P.place = .resident ∧ P.stream.mat ≠ none
    ∀ granted : Nat, (full → granted = min budget 8) → (¬ full → granted = budget) → ∀ c < 32,
      let wants (k : Nat) : Prop := most ((here s k).map (·.req)) 2
      let before (k : Nat) : Prop := wants k ∧ ((s.cluster k).drawn < (s.cluster c).drawn ∨
        ((s.cluster k).drawn = (s.cluster c).drawn ∧ k < c))
      ∀ earlier : List Nat, earlier.Nodup → (∀ k, k ∈ earlier ↔ k < 32 ∧ before k) →
        t.cluster c = { s.cluster c with drawn := 0, grant := t.cluster c |>.grant } ∧
        (wants c → granted ≤ earlier.length → (t.cluster c).grant = 1) ∧
        ((¬ wants c ∨ earlier.length < granted) → (t.cluster c).grant = 2)) ∧
  -- the window of the last 32 cycles, cycle by cycle from the one at which it was last looked at
  (∀ (s : State) (c : Nat),
    let x := s.cluster c
    ∃ y : Nat → Cluster, y 0 = x ∧ s.clusterNow c = { y (s.ticks - x.winAt) with winAt := s.ticks } ∧
      ∀ k, y (k + 1) = { x with charges := (x.coming.getD k 0 :: (y k).charges).take 32, coming := x.coming.drop (k + 1)
                                pairing := (y (k + 1)).pairing, hold := (y (k + 1)).hold } ∧ Judged (y k) (y (k + 1))) ∧
  -- the charge of a word's beats: the first beat in this cycle, the others in those that follow
  (∀ (s : State) (core b0 : Nat) (later : List Nat),
    let k := s.clusterNow (core / 12)
    let k' := (s.charge core (b0 :: later)).cluster (core / 12)
    Judged k k' ∧ k'.charges.sum = k.charges.sum + b0 ∧ k'.charges.tail = k.charges.tail ∧ k'.drawn = k.drawn + b0 + later.sum ∧
    ∀ j, k'.coming.getD j 0 = k.coming.getD j 0 + later.getD j 0) ∧
  (∀ (s : State) (c : Nat),
    let k := s.clusterNow c
    let a := k.charges.sum
    (32 ≤ c → exec (.drawAccumulatorWindow c) s = .next s) ∧
    (c < 32 → ∃ x', exec (.drawAccumulatorWindow c) s = .next { s with clusters := s.clusters.put c x' } ∧
      x' = { k with mons := x'.mons } ∧
      x'.mons = (s.cluster c).mons.map fun m =>
        let on := m.ctl.toNat % 2 = 1 ∧ m.ctl.toNat / 256 % 256 = 7 ∧ (m.ctl.toNat / 16 % 16 = 0 ∨ m.ctl.toNat / 16 % 16 = 15)
        let b := if a = 0 then 0 else min (a.log2 + 1) 15
        if on then { m with
          min := min m.min a, max := min (max m.max a) (2 ^ 32 - 1), count := min (m.count + 1) (2 ^ 64 - 1)
          bins := m.bins.set b (min (m.bins.getD b 0 + 1) (2 ^ 32 - 1)) } else m)) ∧
  (∀ (s : State) (c temp : Nat), 32 ≤ c → exec (.temperatureReport c temp) s = .next s) ∧
  (∀ (s : State) (c temp : Nat), c < 32 →
    let s1 := s.setCluster c { s.cluster c with temp := temp }
    (115 ≤ temp → exec (.temperatureReport c temp) s = exec .hardTrip s1) ∧
    (105 ≤ temp → temp < 115 → exec (.temperatureReport c temp) s = exec .softTrip s1) ∧
    (temp < 105 → temp ≤ (s.cluster c).limit → exec (.temperatureReport c temp) s = .next s1) ∧
    (temp < 105 → (s.cluster c).limit < temp →
      let H (P : Plot) : Prop := P ∈ here s c ∧ P.place = .resident
      let hottest (P : Plot) : Prop := H P ∧ ∀ Q, H Q → Q.req < P.req ∨ (Q.req = P.req ∧ Q.order ≤ P.order)
      let target (P : Plot) (d : Nat) : Prop := d ∈ (s.context P.ctx).clusters ∧ d ≠ c ∧ (s.cluster d).temp < (s.cluster d).limit ∧
        (s.cluster d).temp + 6 ≤ temp
      ((∀ P, ¬ H P) → exec (.temperatureReport c temp) s = .next s1) ∧
      ((∃ P, H P) → ∃ P, hottest P ∧
        ((∃ m, P.lastMove = some m ∧ s.ticks < m + 11000000) → exec (.temperatureReport c temp) s = .next s1) ∧
        ((∀ m, P.lastMove = some m → m + 11000000 ≤ s.ticks) →
          ((∀ d, ¬ target P d) → exec (.temperatureReport c temp) s = .next s1) ∧
          ((∃ d, target P d) → ∃ d, target P d ∧ (∀ e, target P e → (s.cluster d).temp ≤ (s.cluster e).temp) ∧
            exec (.temperatureReport c temp) s = .next (s1.setPlot { P with
              place := .halted, runnable := true, moveTo := some d, lastMove := some s.ticks })))))) ∧
  (∀ (s : State),
    let hot : Prop := ∀ c < 32, (s.cluster c).limit < (s.cluster c).temp
    ∃ t, exec .thermalCeilingStep s = .next t ∧ t = { s with clusters := t.clusters } ∧ ∀ c < 32,
      (hot → t.cluster c = { s.cluster c with therm := (s.cluster c).therm - 1 }) ∧
      (¬ hot → (s.cluster c).temp + 6 ≤ (s.cluster c).limit →
        t.cluster c = { s.cluster c with therm := min ((s.cluster c).therm + 1) 2 }) ∧
      (¬ hot → (s.cluster c).limit < (s.cluster c).temp + 6 → t.cluster c = s.cluster c))

/-- R216, R278, R307, R320, R329, R330, R334, R353, R354, R357, R360, R361, R371, R375, R376, R380, R383: who may write the supervisor
interface, and what each setting sets; a value outside its rule's range changes nothing, and a change to frozen configuration is an
error of its interface. That a write which the tables refuse, or that only the governors may make, is answered as denied is the
model's form of it (log entry 86); a threshold's write clears the context's counters by log 77's choice, and an interface in ERROR keeps
its binding and its IDE stream by log 81's. -/
def Claim.SupervisorSettings : Prop :=
  ∀ (s : State) (ctx : Nat) (by_ : SupBy),
    let c := s.context ctx
    let bit (m : Master) : Bool := ((assoc s.fw.access (targetSupervisor, m.num)).getD 0).getLsbD 1
    let isAccess (w : Setting) : Prop := ∃ t m b, w = .access t m b
    let Allowed (w : Setting) : Prop := match by_ with
      | .governor => isAccess w ∨ bit .governors = true
      | .orangery => ¬ isAccess w ∧ bit .harts = true
      | .host f => ¬ isAccess w ∧ f.port = 0 ∧ f.vf = none ∧ bit .port0pf = true
    let Answered (t : State) (a : Answer) : State := { t with fw := { t.fw with answer := a } }
    let Sets (w : Setting) (t : State) : Prop := s.fw.boot = .running → Allowed w →
      exec (.supervisorRegisterWrite ⟨by_, w⟩) s = .next (Answered t .ok)
    let frozen (x : Interface) : Prop := x.tdisp = .locked ∨ x.tdisp = .run
    -- the setting is not made: these interfaces enter ERROR, and the keys of their contexts are gone
    let Fails (w : Setting) (hit : Nat → Interface → Prop) : Prop := (s.vfs.map (·.1)).Nodup → ∃ t, Sets w t ∧ t.roots = s.roots ∧
      (∀ k, (t.context k).conf = (s.context k).conf) ∧
      ∀ k x, s.vfs.find k = some x → (¬ hit k x → t.vfs.find k = some x) ∧
        (hit k x → t.vfs.find k = some { x with tdisp := .error } ∧ (t.context x.ctx).keys = List.replicate 8 none)
    let Frozen (w : Setting) (t : State) : Prop :=
      let mine (_ : Nat) (x : Interface) : Prop := x.ctx = ctx ∧ frozen x
      ((∃ q ∈ s.vfs, mine q.1 q.2) → Fails w mine) ∧ ((∀ q ∈ s.vfs, ¬ mine q.1 q.2) → Sets w t)
    -- the configuration of one interface
    let Configures (n : Nat) (x : Interface) (w : Setting) (x' : Interface) : Prop :=
      (frozen x → Fails w fun k _ => k = n) ∧ (x.tdisp = .error → Sets w s) ∧
      (x.tdisp = .unlocked → Sets w { s with vfs := s.vfs.put n x' })
    (∀ w, (s.fw.boot ≠ .running → exec (.supervisorRegisterWrite ⟨by_, w⟩) s = .next s) ∧
      (s.fw.boot = .running → ¬ Allowed w → exec (.supervisorRegisterWrite ⟨by_, w⟩) s = .next (Answered s .denied))) ∧
    (∀ owner pa, Frozen (.root ctx owner pa) { s with roots := assocPut s.roots (ctx, owner) pa }) ∧
    (∀ cs, Sets (.clusterSet ctx cs) (s.setContext ctx { c with clusters := cs.filter fun k => decide (k < 32) })) ∧
    (∀ k v, Sets (.ceiling ctx k v) (s.setContext ctx { c with ceilings := assocPut c.ceilings k (min v 2) })) ∧
    (∀ k q, 32 ≤ k → Sets (.budget k q) s ∧ Sets (.threshold k q) s) ∧
    (∀ k q, k < 32 → Sets (.threshold k q) (s.setCluster k { s.cluster k with limit := q })) ∧
    -- the window moves up to the write under the old budget, and is judged against the new one
    (∀ k q, k < 32 →
      let x := s.clusterNow k
      let a := x.charges.sum
      ∃ y : Cluster, Sets (.budget k q) (s.setCluster k y) ∧ y = { x with budget := q, pairing := y.pairing, hold := y.hold } ∧
        (4 * a < 3 * q → y.pairing = false ∧ y.hold = false) ∧
        (3 * q ≤ 4 * a → y.pairing = true ∧ (7 * q ≤ 8 * a → y.hold = true) ∧ (8 * a < 7 * q → y.hold = x.hold))) ∧
    (∀ t, Sets (.extentThreshold ctx t) (if t = 0 ∨ (8 ≤ t ∧ t ≤ 24) then s.setContext ctx { c with extT := t, counters := [] } else s)) ∧
    (∀ a n, Sets (.extentList ctx a n) (if 6 ≤ n ∧ n ≤ 16 then s.setContext ctx { c with extAddr := a, extN := n } else s)) ∧
    (∀ a, Sets (.saveArea ctx a) (if a % 64 = 0 then s.setContext ctx { c with saveArea := a } else s)) ∧
    (∀ a, Sets (.emergencyArea ctx a) (s.setContext ctx { c with emergency := a, emergencyEnd := a })) ∧
    (∀ p, Sets (.notifyPage p ctx) (if p < 65536 then { s with notifyPages := s.notifyPages.put p ctx } else s)) ∧
    (∀ p sid, Sets (.doorbellPage p ctx sid) (if p < 65536 then { s with doorbells := s.doorbells.put p (ctx, sid) } else s)) ∧
    (∀ t m b, Sets (.access t m b) { s with fw := { s.fw with access := assocPut s.fw.access (t, m) b } }) ∧
    (∀ b, Frozen (.confidential ctx b) (s.setContext ctx { c with conf := b })) ∧
    (∀ n ide, (8 ≤ ide ∨ s.vfs.find n = none) → Sets (.ide n ide) s) ∧
    (∀ n ide x, ide < 8 → s.vfs.find n = some x → Configures n x (.ide n ide) { x with ide := some ide }) ∧
    (∀ n, 64 ≤ n → Sets (.vf n ctx) s) ∧
    (∀ n, n < 64 → s.vfs.find n = none → Sets (.vf n ctx) { s with vfs := s.vfs.put n ⟨ctx, .unlocked, none⟩ }) ∧
    (∀ n x, n < 64 → s.vfs.find n = some x → Configures n x (.vf n ctx) { x with ctx := ctx }) ∧
    (∀ o n, Sets (.frame o n ctx) { s with frames := assocPut s.frames (o, n) ctx }) ∧
    (∀ h ranks, Sets (.group ctx h ranks) { s with
      groups := ⟨ctx, h, ranks, ranks.map fun _ => 0⟩ :: s.groups.filter fun g => g.handle != h })

/-- R216, R278, R307, R320, R329, R330, R334, R353, R354, R360, R361, R371, R373 to R376, R383, R388, R389: classes,
grants, pairing and heat; what each supervisor setting sets. -/
def Obligations.ClocksAndSupervisor : Prop := Claim.ClassesAndHeat ∧ Claim.SupervisorSettings

/-! ### Firmware, security and monitoring (R354, R355, R378 to R389) -/

/-- R354, R378 to R382, R387: a reset wipes the part and keeps the fuses, the flash and what lies outside it; the image is
checked in order, its signature by ECDSA over SHA-384, and the first failure names the loader's reason (the keys are free values, log
entry 7); firmware that starts first since the power came up reads each emergency area and writes the recovery log (how it walks the
records is log 26's reading); the loader takes an image (what a failed write leaves in flash is log 24's free value), life-cycle
transitions go in their order, the minimum SVN only rises, a governors' mismatch loses every context; a soft trip halts
every plot for an emergency save, and a hard trip cuts power. -/
def Claim.BootAndTrips : Prop :=
  -- what a reset makes of a state
  let Boots (i : Instr) (s s' : State) : Prop :=
    let img := s'.fw.flash
    let len := fieldAt img 8 8
    let f := s'.fw
    let by_ (key : Nat × Nat) : Prop := ecdsaOk key (bytesAt img 0 32 ++ bytesAt img 128 len) (bytesAt img 32 96) = true
    let signed : Prop := match f.life with
      | .blank => by_ Config.developmentKey ∨ by_ Config.productionKey
      | .develop => by_ Config.developmentKey ∨ by_ Config.productionKey
      | .production => by_ Config.productionKey
      | .decommissioned => False
    let fails (r : Nat) : Prop := (r = 1 ∧ fieldAt img 0 4 ≠ 0x57464B53) ∨ (r = 2 ∧ fieldAt img 16 16 ≠ 0) ∨
      (r = 3 ∧ ¬ (64 ≤ len ∧ len ≤ 2 ^ 26)) ∨ (r = 4 ∧ fieldAt img 4 4 < f.minSvn) ∨ (r = 5 ∧ ¬ signed)
    let areas := if s'.power = true then f.areas else some (s'.contexts.map fun c => (c.1, c.2.emergency))
    let w (fw : Firmware) : State := { State.reset with host := s'.host, peers := s'.peers, agenda := s'.agenda, free := s'.free, fw := fw }
    let kept : Firmware := { Firmware.reset with
      flash := img, life := f.life, minSvn := f.minSvn, streamKey := f.streamKey, recovery := f.recovery, areas := areas
      identity := f.identity }
    ((∀ r ∈ [1, 2, 3, 4, 5], ¬ fails r) → exec i s = .next (w { kept with
      boot := .running, runSvn := fieldAt img 4 4, areas := none
      recovery := match areas with | some l => recoveryLog s'.host l | none => f.recovery })) ∧
    (∀ r ∈ [1, 2, 3, 4, 5], fails r → (∀ q ∈ [1, 2, 3, 4, 5], q < r → ¬ fails q) → exec i s = .next (w { kept with boot := .loader, reason := r }))
  let after : LifeCycle → Option LifeCycle := fun l => match l with
    | .blank => some .develop | .develop => some .production | .production => some .decommissioned | .decommissioned => none
  -- the record of R353 at an address of host memory, and whether its marker repeats its number
  let state (m : Store) (a : Nat) : Nat := natOf (m.readN a 4)
  let long (m : Store) (a : Nat) : Nat := natOf (m.readN (a + 24) 8)
  let whole (m : Store) (a : Nat) : Prop := natOf (m.readN (a + long m a - 8) 8) = natOf (m.readN (a + 32) 8)
  -- records that are not restored (1) and restored ones (3) follow each other up to one that neither begins, or has no length
  (∀ (m : Store) (ctx area n : Nat) (rec : Nat → Nat), rec 0 = area → n < 512 → (∀ k < n, rec (k + 1) = rec k + long m (rec k)) →
    (∀ k < n, (state m (rec k) = 1 ∨ state m (rec k) = 3) ∧ long m (rec k) ≠ 0) →
    ((state m (rec n) ≠ 1 ∧ state m (rec n) ≠ 3) ∨ long m (rec n) = 0) →
    let open_ (k : Nat) : Prop := state m (rec k) = 1
    let lost (k : Nat) : Prop := open_ k ∧ (k < n → ¬ whole m (rec k))
    ((∀ k ≤ n, ¬ open_ k) → recoveryLog m [(ctx, area)] = []) ∧
    ((∃ k ≤ n, open_ k) → (∀ k ≤ n, ¬ lost k) → recoveryLog m [(ctx, area)] = [(ctx, .restorable)]) ∧
    ((∃ k ≤ n, lost k) → recoveryLog m [(ctx, area)] = [(ctx, .lost)])) ∧
  (∀ (m : Store) (x : Nat × Nat) (l : List (Nat × Nat)), recoveryLog m (x :: l) = recoveryLog m [x] ++ recoveryLog m l) ∧
  (∀ s : State, Boots .resetBoot s s) ∧
  (∀ (s : State) (img : List Byte) (ok : Bool),
    ((s.fw.boot ≠ .loader ∨ s.fw.life = .decommissioned) → exec (.recoveryImageWrite img ok) s = .next s) ∧
    (s.fw.boot = .loader → s.fw.life ≠ .decommissioned →
      Boots (.recoveryImageWrite img true) s { s with fw := { s.fw with flash := img } }) ∧
    (s.fw.boot = .loader → s.fw.life ≠ .decommissioned → ∃ n ≤ img.length,
      exec (.recoveryImageWrite img false) s = .next { s with
        free := s.free + 1, fw := { s.fw with flash := img.take n ++ s.fw.flash.drop n } })) ∧
  (∀ s : State, (∀ l, after s.fw.life = some l → Boots (.lifecycleTransition true) s
      { s with fw := { s.fw with life := l, identity := decide (l = .develop ∨ l = .production) } }) ∧
    exec (.lifecycleTransition false) s = .next s ∧
    (s.fw.life = .decommissioned → exec (.lifecycleTransition true) s = .next s) ∧
    Supervised .svnRaise s [.port0pf] { s with fw := { s.fw with minSvn := max s.fw.minSvn s.fw.runSvn } } ∧
    -- every context that the part holds or that stands in the log is lost
    (s.fw.boot = .running → ∃ l : List Nat, l.Nodup ∧ (∀ c, c ∈ l ↔ (∃ r, (c, r) ∈ s.fw.recovery) ∨ ∃ x, (c, x) ∈ s.contexts) ∧
      Boots .lockstepMismatch s { s with fw := { s.fw with recovery := l.map fun c => (c, Recovery.lost) } }) ∧
    (s.fw.boot ≠ .running → exec .lockstepMismatch s = .next s)) ∧
  (∀ s : State,
    -- the source goes, with its entry's vector, to the entry's owner
    let x := (RouteSrc.thermal, s.fw.route .thermal)
    let raised := if x ∈ s.fw.raised then s.fw.raised else s.fw.raised ++ [x]
    let halted (P : Plot) : Plot := { P with place := .halted, emergency := true, runnable := false }
    let hot (t : Nat) : Prop := ∃ q ∈ s.clusters, q.1 < 32 ∧ t ≤ q.2.temp
    (hot 105 → exec .softTrip s = .next { s with
      fw := { s.fw with raised := raised }
      plots := s.plots.map fun q => if q.2.place = .saved ∨ q.2.saving ≠ none then q else (q.1, halted q.2) }) ∧
    (¬ hot 105 → exec .softTrip s = .next s) ∧
    (hot 115 → exec .hardTrip s = .next { s with fw := { s.fw with raised := raised }, power := false }) ∧
    (¬ hot 115 → exec .hardTrip s = .next s))

/-- R355, R380, R383 to R386, R388: a routing entry goes to the first claimant and only its owner writes or releases it (that another
write of its owner's is answered as denied is the model's, log entry 86); a write of a monitor's control word keeps its fields and clears
on CLR; scrubbing changes no data; a soft error is corrected and counted, poisons the two words of its 64 bits, or drops a line of the
instruction cache; an uncorrectable error in registers or tiles suspends the plot at the word that reads it (the slot or gang that a
stream's word names is the model's, log entry 25); a report, whose byte layout is log 23's choice, is signed in DEVELOP and PRODUCTION
only. -/
def Claim.RoutingMonitorsReports : Prop :=
  let Says (s : State) (a : Answer) : State := { s with fw := { s.fw with answer := a } }
  let bit (s : State) (target : Nat) (m : Master) (b : Nat) : Bool := ((assoc s.fw.access (target, m.num)).getD 0).getLsbD b
  (∀ (s : State) (src : RouteSrc) (who : Claimant) (v : Word),
    let e := s.fw.route src
    let m : Master := match who with | .host => .port0pf | .orangery => .harts
    (s.fw.boot ≠ .running → ∀ i ∈ [Instr.routingClaim src who, .routingVecWrite src who v, .routingRelease src who],
      exec i s = .next s) ∧
    (s.fw.boot = .running → bit s targetSupervisor m 1 = false →
      ∀ i ∈ [Instr.routingClaim src who, .routingVecWrite src who v, .routingRelease src who], exec i s = .next (Says s .denied)) ∧
    (s.fw.boot = .running → bit s targetSupervisor m 1 = true →
      let Sets (i : Instr) (x : Word × Option Claimant) : Prop :=
        exec i s = .next (Says { s with fw := { s.fw with routing := assocPut s.fw.routing src x } } .ok)
      (e.2 = none → Sets (.routingClaim src who) (e.1, some who)) ∧
      (e.2 ≠ none → exec (.routingClaim src who) s = .next (Says s .busy)) ∧
      (e.2 = some who → Sets (.routingVecWrite src who v) (v, some who) ∧ Sets (.routingRelease src who) (e.1, none)) ∧
      (e.2 ≠ some who → exec (.routingVecWrite src who v) s = .next (Says s .denied) ∧
        exec (.routingRelease src who) s = .next (Says s .denied)))) ∧
  (∀ (s : State) (c n : Nat) (v : Word64), 32 ≤ c → Supervised (.monitorControlWrite c n v) s [.port0pf, .harts, .governors] s) ∧
  (∀ (s : State) (c n : Nat) (v : Word64) (m : Monitor), c < 32 → (s.cluster c).mons[n]? = some m →
    let ctl : Word64 := BitVec.ofNat 64 (v.toNat % 65536 / 16 * 16 + v.toNat % 2)
    let m' : Monitor := if v.toNat / 2 % 2 = 1 then ⟨ctl, 2 ^ 32 - 1, 0, 0, List.replicate 16 0⟩ else { m with ctl := ctl }
    Supervised (.monitorControlWrite c n v) s [.port0pf, .harts, .governors]
      (s.setCluster c { s.cluster c with mons := (s.cluster c).mons.set n m' })) ∧
  (∀ s : State, exec .scrubPass s = .next s) ∧
  (∀ (s : State) (a : Nat), a < 4 * 2 ^ 37 →
    ∃ st : Store, s.softError (.hbm a) = { s with hbm := st } ∧ st.mem = s.hbm.mem ∧
      ∀ w, w ∈ st.poison ↔ w ∈ s.hbm.poison ∨ 8 * (a / 8) ≤ 4 * w ∧ 4 * w < 8 * (a / 8) + 8) ∧
  (∀ s : State, s.softError .corrected = { s with fw := { s.fw with corrected := s.fw.corrected + 1 } }) ∧
  (∀ (s : State) (core ctx line : Nat) (c : Core), s.cores.find core = some c →
    let t := s.softError (.icache core ctx line)
    t = s.setCore core { c with icache := (t.core core).icache } ∧
    ∀ e, e ∈ (t.core core).icache ↔ e ∈ c.icache ∧ e.1 ≠ (ctx, line)) ∧
  (∀ (s : State) (p g : Nat) (tile : Bool) (P : Plot) (G : Gang), s.plot? p = some P → s.gang? p g = some G → P.place = .resident →
    -- what the suspension leaves: the trap state of R386, and every register
    let Suspended (i : Instr) : Prop := ∃ P' G', exec i s = .next ((s.setPlot P').setGang G') ∧
      P'.suspended = true ∧ P'.place = .halted ∧ P'.runnable = false ∧ P'.bower = P.bower ∧ P'.tiles = P.tiles ∧
      G'.tcause.toNat % 256 = 9 ∧ G'.tinfo = (if tile then 0xF1 else 0xF0) ∧ G'.taddr = 0 ∧ G'.a = G.a ∧ G'.b = G.b ∧
      G'.v = G.v ∧ G'.s = G.s ∧ G'.p = G.p
    (∀ (sl : SlotId) (S : PcSlot), G.slot sl = some S →
      let reads : Prop := s.mayIssue P G S = true ∧ ∃ w, s.wordOf P S = some w ∧
        if tile = true then (w.extractLsb' 2 9 = 0x1D2 ∨ w.extractLsb' 2 9 = 0x1D3) else wordSources w ≠ []
      (reads → Suspended (.uncorrectableStateError p g (some sl) tile)) ∧
      (¬ reads → exec (.uncorrectableStateError p g (some sl) tile) s = .next s)) ∧
    (let reads : Prop := tile = true ∧ G.life = .running ∧ P.stream.state = .run ∧ P.stream.stop = false ∧
       ∃ w, P.stream.cached = some w ∧ ((w.extractLsb' 2 6).toNat = 7 ∨ (9 ≤ (w.extractLsb' 2 6).toNat ∧ (w.extractLsb' 2 6).toNat ≤ 26))
     (reads → Suspended (.uncorrectableStateError p g none tile)) ∧
     (¬ reads → exec (.uncorrectableStateError p g none tile) s = .next s))) ∧
  (∀ (s : State) (vf : Nat) (nonce : BitVec 256),
    let code : Nat := match s.fw.life with | .blank => 0 | .develop => 1 | .production => 2 | .decommissioned => 3
    let tdisp : Nat := match (s.vfs.find vf).map Interface.tdisp with
      | some .locked => 1 | some .run => 2 | some .error => 3 | _ => 0
    let body := leOf 32 nonce.toNat ++ leOf 1 code ++ leOf 4 s.fw.minSvn ++ leOf 4 s.fw.runSvn ++
      sha384 (bytesAt s.fw.flash 0 (128 + fieldAt s.fw.flash 8 8)) ++ leOf 1 tdisp
    let Reports (r : List Byte) (a : Answer) : Prop :=
      exec (.getMeasurements vf nonce) s = .next (Says { s with fw := { s.fw with report := r } } a)
    (s.fw.boot ≠ .running → exec (.getMeasurements vf nonce) s = .next s) ∧
    (s.fw.boot = .running → bit s targetSecurity .governors 0 = false → exec (.getMeasurements vf nonce) s = .next (Says s .denied)) ∧
    (s.fw.boot = .running → bit s targetSecurity .governors 0 = true →
      ((s.fw.life = .develop ∨ s.fw.life = .production) → s.fw.identity = true →
        ∃ once, Reports (body ++ ecdsaSign Config.identityKey once body) .ok) ∧
      ((s.fw.life = .blank ∨ s.fw.life = .decommissioned) → Reports [] .denied)))

/-- R354, R355, R378 to R388: resets, the boot, life cycle and trips; routing, monitors, errors and
reports. -/
def Obligations.FirmwareSteps : Prop := Claim.BootAndTrips ∧ Claim.RoutingMonitorsReports

/-! ### Words, steps and the whole machine -/

/-- The words that the spec writes out in full, and what they stand for: a gang's, a tile stream's and a hart's. -/
def Obligations.WorkedWordsDecode : Prop :=
  let gang : List (Nat × Instr) :=
    [(0x0040_0002_8000_0034, .exitD ⟨0, false⟩ 10 1), (0x0000_7D00_0000_003C, .sleep 500),
     (0xFF40_0002_4260_0100, .vadd ⟨⟨0, false⟩, 9, ⟨9, false⟩, .e10 0x3FD⟩),
     (0x0000_0E45_0500_0300, .sadd ⟨20, 20, .reg 57⟩),
     (0x0001_8080_4180_840C, .fmaF32 ⟨⟨0, false⟩, 6, ⟨1, true⟩, .reg ⟨2, false⟩, ⟨6, false⟩⟩ .rn),
     (0x0101_81C1_0240_0580, .ldL1 ⟨0, false⟩ 9 ⟨4, .vec ⟨7, false⟩, 2, .k14 0x40⟩ .w4),
     (0x0C01_8602_8300_0640, .ldGm ⟨0, false⟩ 12 ⟨10, .vec ⟨24, false⟩, 2, .k14 768⟩ .w4),
     (0x0000_0001_C684_0678, .autoqAcc 26 7), (0x0140_0504_0540_0680, .chime 21 16 (.reg 20) 5),
     (0x0080_0001_8300_06C0, .tmov 12 6 2), (0x0000_0102_40C0_0744, .twr ⟨0, false⟩ 3 ⟨9, false⟩ 4),
     (0x0080_0001_8080_0780, .dialld 2 6 2)]
  let stream : List (BitVec 64 × Instr) :=
    [(0x0000_0000_0001_0224, .mmaT8 2 0 1 false), (0x0000_0001_0000_0008, .sqwt 0 1), (0x0000_0200_0000_0018, .tldq 0 0 0x200)]
  (∀ e ∈ gang, decodeGang (BitVec.ofNat 128 e.1) = .ok e.2) ∧ (∀ e ∈ stream, decodeSeq e.1 = .ok e.2) ∧
  decodeHart 0x0005_850B = .ok (.skEvpost 10 11)

/-- R37 to R43, R47 to R49: every gang word that the encoder writes for an instruction whose operands the encodings admit
has the length that it says, and decodes to that instruction, whatever stands above it in memory. -/
def Obligations.GangWordsRoundTrip : Prop :=
  ∀ (i : Instr) (len : Len) (w above : BitVec 128), i.wf = true → encodeGang i = some (len, w) →
    lenOf w = some len ∧ decodeGang (w ||| above <<< (8 * len.bytes)) = .ok i

/-- R54, R55, R366: the same of the words of a tile stream and of an Orangery hart. -/
def Obligations.StreamAndHartWordsRoundTrip : Prop :=
  (∀ (i : Instr) (w : BitVec 64), encodeSeq i = some w → decodeSeq w = .ok i) ∧
  (∀ (w : BitVec 64) (i : Instr), decodeSeq w = .ok i → encodeSeq i = some w) ∧
  (∀ (i : Instr) (w : BitVec 32), encodeHart i = some w → decodeHart w = .ok i) ∧
  (∀ (w : BitVec 32) (i : Instr), decodeHart w = .ok i → encodeHart i = some w)

/-- R8, R46, R295, R340, R364 to R366, R372, R375, R382, R385, R387: the turn at the head of the agenda is taken after time has passed. A gang's
turn fetches the word at its slot's PC, from the instruction cache or from memory into it (a full cache gives up a line, which one is
free, log entry 4), and executes what the word decodes to; under the hold a heavy word waits; the word's beats are charged when it has
issued, and its lane array is taken; while a change of class pends, words that name a vector register and a stream's next word wait.
While the gang is inside a store of its other slot, a word that would trap or return waits (log entry 105). A stream's turn
executes the matrix word under way or the word of its line, and charges each cycle of the engine, whose number is free (log entry 4). A
hart's turn takes an interrupt, or reads its instruction in parcels of two bytes, of which one that is compressed has only one (RISC-V is
PRESUMED, log entries 20 and 21). An event's turn executes the event; a worker
core hands a parsed request to the governors, which perform the oldest one. An empty agenda is filled with the part's own turns. A module
without power only starts again. -/
def Obligations.StepRunsDecodedWord : Prop :=
  ∀ (s : State),
    let passed (rest : List Turn) : State :=
      { s with agenda := rest, ticks := s.ticks + Config.freeCycles s.free,
               time := BitVec.ofNat 64 ((s.ticks + Config.freeCycles s.free) * 10 / 11), free := s.free + 1 }
    let Idle (t : State) : Prop := step s = .next { t with cur := .none }
    let Runs (i : Instr) (s1 : State) (charge : State → State) : Prop :=
      step s = Res.after (exec i s1) fun t => { charge t with cur := .none }
    (s.power = true → s.agenda = [] → ∃ l, step s = .next { passed [] with agenda := l }) ∧
    (s.power = false → (∀ rest, s.agenda ≠ .event .resetBoot :: rest) → step s = .fault .powerOff) ∧
    (∀ i rest, s.power = true ∨ i = .resetBoot → s.agenda = .event i :: rest → Runs i (passed rest) id) ∧
    -- a line comes into an instruction cache of 1,024 lines
    (∀ (core ctx n : Nat) (bs : List Byte),
      let c := s.core core
      (c.icache.length < 1024 → s.cacheLine core ctx n bs = s.setCore core { c with icache := ((ctx, n), bs) :: c.icache }) ∧
      (1024 ≤ c.icache.length → ∃ k < 1024, s.cacheLine core ctx n bs = ({ s with free := s.free + 1 } : State).setCore core
        { c with icache := ((ctx, n), bs) :: c.icache.eraseIdx k })) ∧
    (∀ (rest : List Turn) (p g : Nat) (sl : SlotId) (P : Plot) (G : Gang) (S : PcSlot) (line : List Byte) (s2 : State)
        (len : Len) (i : Instr), s.power = true → s.agenda = .issue p g sl :: rest →
      let s1 := passed rest
      let at_ := S.pc.toNat
      let w := lineWord line (at_ % 64)
      s.plot? p = some P → P.id = p → s.gang? p g = some G → G.plot = p → G.idx = g → G.slot sl = some S → S.fid = none →
      S.stored = none → P.suspended = false → P.saving = none → G.deferDue = none → s1.chimeNow P G = none →
      s1.mayIssue P G S = true → s1.fetchCheck at_ 4 = none →
      ((assoc (s.core P.core).icache (P.ctx, at_ / 64) = some line ∧ s2 = s1) ∨
        (assoc (s.core P.core).icache (P.ctx, at_ / 64) = none ∧ ∃ l pte s3,
          s1.lookup P.ctx (at_ - at_ % 64) .fetch .cores = (.ok l pte, s3) ∧
          let s4 := s3.countAccess P.ctx (at_ - at_ % 64) (.die (P.core / 96))
          s4.poisonedLoc l 64 = false ∧ line = s4.readLoc l 64 ∧ s2 = s4.cacheLine P.core P.ctx (at_ / 64) line)) →
      lenOf w = some len → at_ % 32 + len.bytes ≤ 32 → decodeGang w = .ok i →
      let held : Prop := (s2.clusterNow (P.core / 12)).holdsBack w = true
      let t1 : State := { s2.setGang G with cur := .gang p g sl }
      let turns : Prop := ∃ t, exec i t1 = .next t ∧ (t.afterIssue P G sl S w).turned P G = true
      (held → Idle (s2.setGang G)) ∧
      (¬ held → ¬ (G.storing = true ∧ turns) → Runs i t1 fun t => t.afterIssue P G sl S w) ∧
      (¬ held → G.storing = true → turns → Idle (s2.setGang G))) ∧
    -- a word that has issued is charged; one that waits on keeps its age
    (∀ (P : Plot) (G G1 : Gang) (sl : SlotId) (S : PcSlot) (w : BitVec 128), s.gang? P.id G.idx = some G1 → S.wait = .none →
      (∀ S1 d m, G1.slot sl = some S1 → S1.wait ≠ .dial d m) →
      (G1.seq ≠ G.seq → s.afterIssue P G sl S w = s.chargeWord P G S w) ∧
      (G1.seq = G.seq → s.afterIssue P G sl S w = s.keepAge P G sl S)) ∧
    (∀ (rest : List Turn) (p : Nat) (P P2 : Plot) (s2 : State) (w : BitVec 64),
      s.power = true → s.agenda = .stream p :: rest →
      let s1 := passed rest
      let at_ := P.stream.pc.toNat
      s.plot? p = some P → P.id = p → P.place = .resident → P.stream.state = .run → P.stream.stop = false → P.stream.fid = none →
      (P.stream.cached = some w ∧ P2 = P ∧ s2 = s1 ∨
        P.stream.cached = none ∧ s1.fetchCheck at_ 8 = none ∧ ∃ l pte s3,
          s1.lookup P.ctx (at_ - at_ % 64) .seqFetch .cores = (.ok l pte, s3) ∧
          let s4 := s3.countAccess P.ctx (at_ - at_ % 64) (.die (P.core / 96))
          s4.poisonedLoc l 64 = false ∧ w = BitVec.ofNat 64 (fieldAt (s4.readLoc l 64) (at_ % 64) 8) ∧
          P2 = { P with stream := { P.stream with line := some (at_ / 64, s4.readLoc l 64) } } ∧ s2 = s4.setPlot P2) →
      let held : Prop := ((s2.clusterNow (P.core / 12)).hold = true ∧ 384 ≤ seqCharge w) ∨
        ((s2.clusterNow (P.core / 12)).pausing = true ∧ P2.stream.mat = none)
      (∀ n, decodeSeq w = .error n → Idle (s2.setPlot (P2.stopAt ⟨0x13, n, 0⟩))) ∧
      (∀ i, decodeSeq w = .ok i → (held → Idle (s2.setPlot P2)) ∧
        (¬ held → ∃ cycles : Nat → Nat, (∀ n, 0 < cycles n) ∧ Runs i { s2.setPlot P2 with cur := .stream p } fun t =>
          let t1 := match t.plot? p with
            | some Q => if Q.stream.mat.isSome then t.setPlot { Q with stream := { Q.stream with word := some w } } else t
            | none => t
          ({ t1 with free := t1.free + 1 } : State).charge P.core (List.replicate (cycles t1.free) (seqCharge w))))) ∧
    -- a hart's turn: an interrupt first, else its instruction, whose word comes in two parcels
    (∀ (rest : List Turn) (h : Nat) (H : Hart), s.power = true → s.agenda = .hart h :: rest → s.hart? h = some H →
      let Parcel (s : State) (pc : Word64) (r : Except HartEnd Loc × State) : Prop := s.hartMem h H H.priv pc 2 .fetch = r
      let Ends (s : State) (pc : Word64) : Prop := ∀ s1, (Parcel s pc (.error .wait, s1) → Idle s1) ∧
        ∀ c, Parcel s pc (.error (.fault c), s1) → Idle (s1.setHart h (H.except c pc))
      (∀ k, H.interrupt = some k → Idle ((passed rest).setHart h (H.trap true k 0 false))) ∧
      (H.interrupt = none → Ends (passed rest) H.pc ∧ ∀ l1 s2, Parcel (passed rest) H.pc (.ok l1, s2) →
        let lo := natOf (s2.readLoc l1 2)
        (lo % 4 ≠ 3 → (∀ w, rvExpand (BitVec.ofNat 16 lo) = some w → Idle (s2.rvStep h H w 2 (BitVec.ofNat 64 lo))) ∧
          (rvExpand (BitVec.ofNat 16 lo) = none → Idle (s2.setHart h (H.except 2 (BitVec.ofNat 64 lo))))) ∧
        (lo % 4 = 3 → Ends s2 (H.pc + 2) ∧ ∀ l2 s3, Parcel s2 (H.pc + 2) (.ok l2, s3) →
          let w := BitVec.ofNat 32 (lo + 65536 * natOf (s3.readLoc l2 2))
          (∀ i, decodeHart w = .ok i → Runs i { s3 with cur := .hart h } id) ∧
          (decodeHart w = .base → Idle (s3.rvStep h H w 4 (w.setWidth 64))) ∧
          (decodeHart w = .illegal → Idle (s3.setHart h (H.except 2 (w.setWidth 64))))))) ∧
    (∀ (rest : List Turn), s.power = true →
      (∀ part q, s.agenda = .peer part q :: rest → Idle ((passed rest).peerTurn part q)) ∧
      (∀ k, s.agenda = .posted k :: rest → Idle ((passed rest).postedTurn k)) ∧
      (∀ e, s.agenda = .softError e :: rest → Idle ((passed rest).softError e)) ∧
      -- a failed service ends its pending calls with RESTART
      (∀ n, s.agenda = .serviceFail n :: rest → 1 ≤ n → n ≤ 4 → Idle { passed rest with
        gangs := s.gangs.map fun q => (q.1, { q.2 with engEv := q.2.engEv.map fun o =>
          if o.kind = .svcall ∧ o.service = n ∧ o.phase ≠ .finished then o.finish 0 0 0xFFFFFFF0 else o }) }) ∧
      (∀ i, s.agenda = .worker i :: rest →
        let asks : Prop := i = .svnRaise ∨ (∃ c n, i = .getMeasurements c n) ∨ (∃ b, i = .lifecycleTransition b) ∨
          (∃ c, i = .lockInterface c ∨ i = .startInterface c ∨ i = .stopInterface c) ∨ (∃ c k x y, i = .keyInstall c k x y) ∨
          (∃ n l, i = .domainForm n l) ∨ ∃ x, i = .partLeavesDomain x
        (s.fw.boot = .running → asks → Idle { passed rest with fw := { s.fw with queue := s.fw.queue ++ [i] } }) ∧
        ((s.fw.boot ≠ .running ∨ ¬ asks) → Idle (passed rest))) ∧
      (s.agenda = .governor :: rest →
        (s.fw.queue = [] → Idle (passed rest)) ∧
        ∀ i q, s.fw.queue = i :: q → Runs i { passed rest with fw := { s.fw with queue := q } } id))

/-- R43, R95, R96, R168, R184, R345, R348, R407: what stands before the effect of a gang's word: the slot's own store, which goes on; a
deferred trap that is due, then a chime, neither at a barrier; then the checks of decode, the other slot's fence or store for a word that
accesses global memory, the scoreboard, and the register bound; and with no latch that differs from its register, a word reads its
registers' values. That a global word waits for the other slot's store is the model's (log entry 97). -/
def Obligations.ChecksBeforeEffect : Prop :=
  (∀ (s : State) (p g : Nat) (sl : SlotId) (P : Plot) (G : Gang) (S : PcSlot), s.plot? p = some P → s.gang? p g = some G →
    P.place ≠ .saved → P.saving = none → G.life = .running → G.slot sl = some S →
    (∀ size len lanes, S.wait = .store false size len lanes →
      s.issueTurn p g sl = .next (s.advanceStore P G sl S size len lanes)) ∧
    (S.wait.atBarrier = true → s.issueTurn p g sl = .next s) ∧
    (P.suspended = false → G.storing = false → G.atBarrier = false →
      (∀ d ds, G.defer = d :: ds → s.issueTurn p g sl = .next (s.takeDeferred P { G with defer := ds } d)) ∧
      (∀ tid t v, G.defer = [] → s.denialDue G = false → s.chimeDue P G = some (tid, t, v) →
        s.issueTurn p g sl = .next (s.deliver P G tid t v)))) ∧
  (∀ (s : State) (x : Issuer) (g : Guard) (v : VReg) (h : HReg) (d : SReg) (m : MemRef) (w : Width) (f : FenceSel) (o : WaitcOps),
    Ready s x → (x.G.fencing x.sl = true ∨ x.G.storing = true) →
    ∀ i ∈ [Instr.ldGm g v m w, .ldGmAcq g v m w, .lduGm d m w, .stGm g h m w, .stGmRel g h m w, .phase, .fenceR d f, .waitcEq o, .waitcNe o,
      .waitcGe o], exec i s = .next s) ∧
  (∀ (s : State) (P : Plot) (G : Gang) (sl : SlotId) (S : PcSlot) (w : BitVec 128), G.storing = false →
    let Illegal (reason : Nat) (half : Bool) : Prop := s.issueWord P G sl S w = .next (s.trap P (G.stamp sl s.ticks) sl S
      { code := 0x01, info := BitVec.ofNat 64 reason, addr := S.pc, half := half })
    (w.extractLsb' 0 2 = 3 → Illegal 2 false) ∧
    (∀ len, lenOf w = some len → 32 < S.pc.toNat % 32 + len.bytes → Illegal 3 false) ∧
    (∀ len e, lenOf w = some len → S.pc.toNat % 32 + len.bytes ≤ 32 → decodeGang w = .error e →
      Illegal e.reason e.half)) ∧
  (∀ (s : State) (x : Issuer) (vs ss : List Nat) (f : Issuer → State), Ready s x →
    (s.settledRegs x vs ss = false → s.issue vs ss f = .next s) ∧
    (∀ v ∈ vs, s.settledRegs x vs ss = true → x.G.nv ≤ v → (∀ u ∈ vs, x.G.nv ≤ u → v ≤ u) →
      s.issue vs ss f = .next (s.trap x.P (x.G.stamp x.sl s.ticks) x.sl { x.S with issued := some s.ticks }
        { code := 0x03, info := BitVec.ofNat 64 (v + 256 * x.G.nv) })) ∧
    (CanIssue s x vs ss → ∃ y : Issuer, s.issue vs ss f = .next (f y) ∧ y.P = x.P ∧ y.sl = x.sl ∧ y.G.v = x.G.v ∧
      y.G.s = x.G.s ∧ y.G.p = x.G.p ∧ y.S.pc = x.S.pc ∧ y.S.mask = x.S.mask)) ∧
  (∀ (x : Issuer) (r : HReg) (i : Nat), x.G.LatchesAgree →
    x.srcA r i = laneAt (x.G.vreg r.n.toNat) i ∧ x.srcB r i = laneAt (x.G.vreg r.n.toNat) i ∧
    x.srcC r i = laneAt (x.G.vreg r.n.toNat) i)

/-- R4, R6, R355, R378, R381: after reset TIME is 0, no plot, gang, stream, target or fault exists, every byte of memory is
0 and sound, the routing table is unclaimed, and the firmware has not started. That the tables and the agenda are empty lists
is the model's form of it (log entries 1, 11 and 12). -/
def Obligations.ResetState : Prop :=
  let s := State.reset
  s.time = 0 ∧ s.plots = [] ∧ s.gangs = [] ∧ s.streams = [] ∧ s.autos = [] ∧ s.backlog = [] ∧ s.targets = [] ∧
  s.contexts = [] ∧ s.faults = [] ∧ s.tlb = [] ∧ s.pads = [] ∧ s.agenda = [] ∧ (∀ a, s.hbm.mem.read a = 0) ∧
  s.hbm.poison = [] ∧ s.MemWf ∧ (∀ q ∈ s.gangs, q.2.LatchesAgree) ∧ s.fw.boot = .reset ∧
  s.fw.routing.map (·.1) = [.errorStream, .thermal, .power, .linkFault, .monitor] ∧
  (∀ e ∈ s.fw.routing, e.2 = (0, none)) ∧ ∀ c, (s.cluster c).charges = [] ∧ (s.cluster c).hold = false

/-- The memories stay in canonical form in every step, whoever acts: HBM, host memory and the other parts' memory, every plot's bower and
tiles, and every granted region. -/
def Obligations.MemoryStaysCanonical : Prop :=
  ∀ s t : State, s.MemWf → step s = .next t → t.MemWf

/-- R95: in every step, a valid operand latch holds the value of its register. -/
def Obligations.LatchesStayTrue : Prop :=
  ∀ s t : State, (∀ q ∈ s.gangs, q.2.LatchesAgree) → step s = .next t → ∀ q ∈ t.gangs, q.2.LatchesAgree
end

