-- ==== Sys2Proof/Laws/Crypto.lean ====
section
/-! SUPPORT. Laws/Crypto.lean: the lengths of the cipher's results: a block is 16 bytes and a seal is 12. -/

namespace Sys2Proof.Machine

theorem xorBytes_length (a b : List Byte) : (xorBytes a b).length = min a.length b.length := by simp [xorBytes]

theorem subShift_length (s : List Byte) : (subShift s).length = 16 := by simp [subShift]

/-- A step of the key schedule keeps every word at four bytes. -/
theorem nextKeyWord_length (ws : List (List Byte)) (h : 8 ≤ ws.length) (hw : ∀ w ∈ ws, w.length = 4) : (nextKeyWord ws).length = 4 := by
  have hl : (ws.headD []).length = 4 := by
    cases ws with
    | nil => simp at h
    | cons w _ => exact hw w (by simp)
  have ho : (ws.getD 7 []).length = 4 := by
    rw [List.getD_eq_getElem?_getD, List.getElem?_eq_getElem (by omega)]
    exact hw _ (List.getElem_mem _)
  unfold nextKeyWord
  generalize ws.headD [] = last at hl ⊢
  simp only [xorBytes_length, ho]
  match last, hl with
  | [a, b, c, d], _ =>
    split
    · rfl
    · split <;> rfl

theorem growKey_words (n : Nat) : ∀ ws : List (List Byte), 8 ≤ ws.length → (∀ w ∈ ws, w.length = 4) →
    (growKey ws n).length = ws.length + n ∧ ∀ w ∈ growKey ws n, w.length = 4 := by
  induction n with
  | zero => intro ws _ hw; exact ⟨rfl, hw⟩
  | succ n ih =>
    intro ws h hw
    obtain ⟨hl, ha⟩ := ih (nextKeyWord ws :: ws) (by simp; omega) (by
      intro w m
      rcases List.mem_cons.1 m with rfl | m
      · exact nextKeyWord_length ws h hw
      · exact hw w m)
    exact ⟨by simp only [growKey, hl, List.length_cons]; omega, ha⟩

/-- The last round key has 16 bytes. -/
theorem roundKeys_last_length (key : List Byte) : ((roundKeys key).getD 14 []).length = 16 := by
  obtain ⟨hl, ha⟩ := growKey_words 52 ((List.range 8).map fun i => bytesAt key (4 * i) 4).reverse (by simp) (by
    intro w m
    simp only [List.mem_reverse, List.mem_map] at m
    obtain ⟨i, -, rfl⟩ := m
    simp [bytesAt])
  have word : ∀ k, k < 60 → (((growKey ((List.range 8).map fun i => bytesAt key (4 * i) 4).reverse 52).reverse).getD k []).length = 4 := by
    intro k hk
    simp only [List.length_reverse, List.length_map, List.length_range] at hl
    rw [List.getD_eq_getElem?_getD, List.getElem?_eq_getElem (by simp [hl]; omega)]
    exact ha _ (List.mem_reverse.1 (List.getElem_mem _))
  have e : (roundKeys key).getD 14 [] = (List.range 4).flatMap fun k =>
      ((growKey ((List.range 8).map fun i => bytesAt key (4 * i) 4).reverse 52).reverse).getD (4 * 14 + k) [] := rfl
  rw [e]
  simp only [List.length_flatMap, show List.range 4 = [0, 1, 2, 3] from rfl, List.map_cons, List.map_nil, word _ (by omega : 4 * 14 + 0 < 60),
    word _ (by omega : 4 * 14 + 1 < 60), word _ (by omega : 4 * 14 + 2 < 60), word _ (by omega : 4 * 14 + 3 < 60)]
  rfl

/-- A block's cipher text has 16 bytes, whatever the block. -/
theorem aesBlock_length (key b : List Byte) : (aesBlock (roundKeys key) b).length = 16 := by
  simp only [aesBlock, xorBytes_length, subShift_length, roundKeys_last_length, Nat.min_self]

theorem cmac_length (key msg : List Byte) : (cmac key msg).length = 16 := by
  simp only [cmac, List.foldl_append, List.foldl_cons, List.foldl_nil, aesBlock_length]

/-- A capability's seal has 12 bytes (R277). -/
theorem State.seal_length (s : State) (c : List Byte) : (s.seal c).length = 12 := by simp [State.seal, cmac_length]

end Sys2Proof.Machine
end

