-- ==== Sys2Proof/Laws/Dispatch.lean ====
section
/-! SUPPORT. Laws/Dispatch.lean: each arm of `exec`, by name: what an instruction does is what its meaning says. -/

namespace Sys2Proof.Machine

@[simp] theorem exec_nop (len g s) : exec (.nop len g) s = execNop len g s := rfl
@[simp] theorem exec_bra (k s) : exec (.bra k) s = execBra k s := rfl
@[simp] theorem exec_brc (g k s) : exec (.brc g k) s = execBrc g k s := rfl
@[simp] theorem exec_brcAny (g k s) : exec (.brcAny g k) s = execBrcAny g k s := rfl
@[simp] theorem exec_brcAll (g k s) : exec (.brcAll g k) s = execBrcAll g k s := rfl
@[simp] theorem exec_brsZ (a k s) : exec (.brsZ a k) s = execBrsZ a k s := rfl
@[simp] theorem exec_brsNz (a k s) : exec (.brsNz a k) s = execBrsNz a k s := rfl
@[simp] theorem exec_brx (a s) : exec (.brx a) s = execBrx a s := rfl
@[simp] theorem exec_call (d k s) : exec (.call d k) s = execCall d k s := rfl
@[simp] theorem exec_callx (d a s) : exec (.callx d a) s = execCallx d a s := rfl
@[simp] theorem exec_ret (a s) : exec (.ret a) s = execRet a s := rfl
@[simp] theorem exec_join (s) : exec .join s = execJoin s := rfl
@[simp] theorem exec_exit (g s) : exec (.exit g) s = execExit g s := rfl
@[simp] theorem exec_exitD (g a e s) : exec (.exitD g a e) s = execExitD g a e s := rfl
@[simp] theorem exec_exitH (g a s) : exec (.exitH g a) s = execExitH g a s := rfl
@[simp] theorem exec_sleep (k s) : exec (.sleep k) s = execSleep k s := rfl
@[simp] theorem exec_waitcEq (o s) : exec (.waitcEq o) s = execWaitcEq o s := rfl
@[simp] theorem exec_waitcNe (o s) : exec (.waitcNe o) s = execWaitcNe o s := rfl
@[simp] theorem exec_waitcGe (o s) : exec (.waitcGe o) s = execWaitcGe o s := rfl
@[simp] theorem exec_bar (c s) : exec (.bar c) s = execBar c s := rfl
@[simp] theorem exec_barPh (c s) : exec (.barPh c) s = execBarPh c s := rfl
@[simp] theorem exec_bararr (c s) : exec (.bararr c) s = execBararr c s := rfl
@[simp] theorem exec_barwait (c s) : exec (.barwait c) s = execBarwait c s := rfl
@[simp] theorem exec_barredAdd (d a c s) : exec (.barredAdd d a c) s = execBarredAdd d a c s := rfl
@[simp] theorem exec_barredMin (d a c s) : exec (.barredMin d a c) s = execBarredMin d a c s := rfl
@[simp] theorem exec_barredMax (d a c s) : exec (.barredMax d a c) s = execBarredMax d a c s := rfl
@[simp] theorem exec_barredAnd (d a c s) : exec (.barredAnd d a c) s = execBarredAnd d a c s := rfl
@[simp] theorem exec_barredOr (d a c s) : exec (.barredOr d a c) s = execBarredOr d a c s := rfl
@[simp] theorem exec_barredFadd (d a c s) : exec (.barredFadd d a c) s = execBarredFadd d a c s := rfl
@[simp] theorem exec_barscanAdd (d a c s) : exec (.barscanAdd d a c) s = execBarscanAdd d a c s := rfl
@[simp] theorem exec_barscanFadd (d a c s) : exec (.barscanFadd d a c) s = execBarscanFadd d a c s := rfl
@[simp] theorem exec_yield (s) : exec .yield s = execYield s := rfl
@[simp] theorem exec_trap (k s) : exec (.trap k) s = execTrap k s := rfl
@[simp] theorem exec_tret (s) : exec .tret s = execTret s := rfl
@[simp] theorem exec_vadd (o s) : exec (.vadd o) s = execVadd o s := rfl
@[simp] theorem exec_vsub (o s) : exec (.vsub o) s = execVsub o s := rfl
@[simp] theorem exec_vaddc (o s) : exec (.vaddc o) s = execVaddc o s := rfl
@[simp] theorem exec_vaddsI32 (o s) : exec (.vaddsI32 o) s = execVaddsI32 o s := rfl
@[simp] theorem exec_vsubsI32 (o s) : exec (.vsubsI32 o) s = execVsubsI32 o s := rfl
@[simp] theorem exec_vmul (o s) : exec (.vmul o) s = execVmul o s := rfl
@[simp] theorem exec_vmulhI32 (o s) : exec (.vmulhI32 o) s = execVmulhI32 o s := rfl
@[simp] theorem exec_vmulhN32 (o s) : exec (.vmulhN32 o) s = execVmulhN32 o s := rfl
@[simp] theorem exec_vmulwI32 (o s) : exec (.vmulwI32 o) s = execVmulwI32 o s := rfl
@[simp] theorem exec_vmad (o s) : exec (.vmad o) s = execVmad o s := rfl
@[simp] theorem exec_vminI32 (o s) : exec (.vminI32 o) s = execVminI32 o s := rfl
@[simp] theorem exec_vminN32 (o s) : exec (.vminN32 o) s = execVminN32 o s := rfl
@[simp] theorem exec_vmaxI32 (o s) : exec (.vmaxI32 o) s = execVmaxI32 o s := rfl
@[simp] theorem exec_vmaxN32 (o s) : exec (.vmaxN32 o) s = execVmaxN32 o s := rfl
@[simp] theorem exec_vabs (o s) : exec (.vabs o) s = execVabs o s := rfl
@[simp] theorem exec_vneg (o s) : exec (.vneg o) s = execVneg o s := rfl
@[simp] theorem exec_vand (o s) : exec (.vand o) s = execVand o s := rfl
@[simp] theorem exec_vor (o s) : exec (.vor o) s = execVor o s := rfl
@[simp] theorem exec_vxor (o s) : exec (.vxor o) s = execVxor o s := rfl
@[simp] theorem exec_vnot (o s) : exec (.vnot o) s = execVnot o s := rfl
@[simp] theorem exec_vshl (o s) : exec (.vshl o) s = execVshl o s := rfl
@[simp] theorem exec_vshr (o s) : exec (.vshr o) s = execVshr o s := rfl
@[simp] theorem exec_vsra (o s) : exec (.vsra o) s = execVsra o s := rfl
@[simp] theorem exec_vrot (o s) : exec (.vrot o) s = execVrot o s := rfl
@[simp] theorem exec_vpopc (o s) : exec (.vpopc o) s = execVpopc o s := rfl
@[simp] theorem exec_vclz (o s) : exec (.vclz o) s = execVclz o s := rfl
@[simp] theorem exec_vbrev (o s) : exec (.vbrev o) s = execVbrev o s := rfl
@[simp] theorem exec_vaddI16x2 (o s) : exec (.vaddI16x2 o) s = execVaddI16x2 o s := rfl
@[simp] theorem exec_vsubI16x2 (o s) : exec (.vsubI16x2 o) s = execVsubI16x2 o s := rfl
@[simp] theorem exec_vmulI16x2 (o s) : exec (.vmulI16x2 o) s = execVmulI16x2 o s := rfl
@[simp] theorem exec_vdot4I8 (o s) : exec (.vdot4I8 o) s = execVdot4I8 o s := rfl
@[simp] theorem exec_vdot4N8 (o s) : exec (.vdot4N8 o) s = execVdot4N8 o s := rfl
@[simp] theorem exec_vcmpEq (o s) : exec (.vcmpEq o) s = execVcmpEq o s := rfl
@[simp] theorem exec_vcmpNe (o s) : exec (.vcmpNe o) s = execVcmpNe o s := rfl
@[simp] theorem exec_vcmpLtI32 (o s) : exec (.vcmpLtI32 o) s = execVcmpLtI32 o s := rfl
@[simp] theorem exec_vcmpLeI32 (o s) : exec (.vcmpLeI32 o) s = execVcmpLeI32 o s := rfl
@[simp] theorem exec_vcmpLtN32 (o s) : exec (.vcmpLtN32 o) s = execVcmpLtN32 o s := rfl
@[simp] theorem exec_vcmpLeN32 (o s) : exec (.vcmpLeN32 o) s = execVcmpLeN32 o s := rfl
@[simp] theorem exec_vsel (o s) : exec (.vsel o) s = execVsel o s := rfl
@[simp] theorem exec_vmov (o s) : exec (.vmov o) s = execVmov o s := rfl
@[simp] theorem exec_vmovi (g d k s) : exec (.vmovi g d k) s = execVmovi g d k s := rfl
@[simp] theorem exec_vbcast (g d a s) : exec (.vbcast g d a) s = execVbcast g d a s := rfl
@[simp] theorem exec_vlane (g d s) : exec (.vlane g d) s = execVlane g d s := rfl
@[simp] theorem exec_vshflIdx (o s) : exec (.vshflIdx o) s = execVshflIdx o s := rfl
@[simp] theorem exec_vshflXor (o s) : exec (.vshflXor o) s = execVshflXor o s := rfl
@[simp] theorem exec_vshflUp (o s) : exec (.vshflUp o) s = execVshflUp o s := rfl
@[simp] theorem exec_vshflDn (o s) : exec (.vshflDn o) s = execVshflDn o s := rfl
@[simp] theorem exec_vshflRot (o s) : exec (.vshflRot o) s = execVshflRot o s := rfl
@[simp] theorem exec_vredAdd (g d a s) : exec (.vredAdd g d a) s = execVredAdd g d a s := rfl
@[simp] theorem exec_vredMinI32 (g d a s) : exec (.vredMinI32 g d a) s = execVredMinI32 g d a s := rfl
@[simp] theorem exec_vredMaxI32 (g d a s) : exec (.vredMaxI32 g d a) s = execVredMaxI32 g d a s := rfl
@[simp] theorem exec_vredAnd (g d a s) : exec (.vredAnd g d a) s = execVredAnd g d a s := rfl
@[simp] theorem exec_vredOr (g d a s) : exec (.vredOr g d a) s = execVredOr g d a s := rfl
@[simp] theorem exec_vext (d a b s) : exec (.vext d a b) s = execVext d a b s := rfl
@[simp] theorem exec_vins (d a b s) : exec (.vins d a b) s = execVins d a b s := rfl
@[simp] theorem exec_vrel (n s) : exec (.vrel n) s = execVrel n s := rfl
@[simp] theorem exec_vclaim (n s) : exec (.vclaim n) s = execVclaim n s := rfl
@[simp] theorem exec_vclaimNb (d n s) : exec (.vclaimNb d n) s = execVclaimNb d n s := rfl
@[simp] theorem exec_vquery (d s) : exec (.vquery d) s = execVquery d s := rfl
@[simp] theorem exec_sadd (o s) : exec (.sadd o) s = execSadd o s := rfl
@[simp] theorem exec_ssub (o s) : exec (.ssub o) s = execSsub o s := rfl
@[simp] theorem exec_smul (o s) : exec (.smul o) s = execSmul o s := rfl
@[simp] theorem exec_smulhI64 (o s) : exec (.smulhI64 o) s = execSmulhI64 o s := rfl
@[simp] theorem exec_smulhN64 (o s) : exec (.smulhN64 o) s = execSmulhN64 o s := rfl
@[simp] theorem exec_sdivI64 (o s) : exec (.sdivI64 o) s = execSdivI64 o s := rfl
@[simp] theorem exec_sdivN64 (o s) : exec (.sdivN64 o) s = execSdivN64 o s := rfl
@[simp] theorem exec_sremI64 (o s) : exec (.sremI64 o) s = execSremI64 o s := rfl
@[simp] theorem exec_sremN64 (o s) : exec (.sremN64 o) s = execSremN64 o s := rfl
@[simp] theorem exec_sand (o s) : exec (.sand o) s = execSand o s := rfl
@[simp] theorem exec_sor (o s) : exec (.sor o) s = execSor o s := rfl
@[simp] theorem exec_sxor (o s) : exec (.sxor o) s = execSxor o s := rfl
@[simp] theorem exec_snot (d a s) : exec (.snot d a) s = execSnot d a s := rfl
@[simp] theorem exec_sshl (o s) : exec (.sshl o) s = execSshl o s := rfl
@[simp] theorem exec_sshr (o s) : exec (.sshr o) s = execSshr o s := rfl
@[simp] theorem exec_ssra (o s) : exec (.ssra o) s = execSsra o s := rfl
@[simp] theorem exec_srot (o s) : exec (.srot o) s = execSrot o s := rfl
@[simp] theorem exec_sbfe (d a b c s) : exec (.sbfe d a b c) s = execSbfe d a b c s := rfl
@[simp] theorem exec_sbfi (d a b c s) : exec (.sbfi d a b c) s = execSbfi d a b c s := rfl
@[simp] theorem exec_sminI64 (o s) : exec (.sminI64 o) s = execSminI64 o s := rfl
@[simp] theorem exec_sminN64 (o s) : exec (.sminN64 o) s = execSminN64 o s := rfl
@[simp] theorem exec_smaxI64 (o s) : exec (.smaxI64 o) s = execSmaxI64 o s := rfl
@[simp] theorem exec_smaxN64 (o s) : exec (.smaxN64 o) s = execSmaxN64 o s := rfl
@[simp] theorem exec_scmpEq (o s) : exec (.scmpEq o) s = execScmpEq o s := rfl
@[simp] theorem exec_scmpNe (o s) : exec (.scmpNe o) s = execScmpNe o s := rfl
@[simp] theorem exec_scmpLtI64 (o s) : exec (.scmpLtI64 o) s = execScmpLtI64 o s := rfl
@[simp] theorem exec_scmpLeI64 (o s) : exec (.scmpLeI64 o) s = execScmpLeI64 o s := rfl
@[simp] theorem exec_scmpLtN64 (o s) : exec (.scmpLtN64 o) s = execScmpLtN64 o s := rfl
@[simp] theorem exec_scmpLeN64 (o s) : exec (.scmpLeN64 o) s = execScmpLeN64 o s := rfl
@[simp] theorem exec_ssel (d a b c s) : exec (.ssel d a b c) s = execSsel d a b c s := rfl
@[simp] theorem exec_smov (d a s) : exec (.smov d a) s = execSmov d a s := rfl
@[simp] theorem exec_smovi (d k s) : exec (.smovi d k) s = execSmovi d k s := rfl
@[simp] theorem exec_slea (o sh s) : exec (.slea o sh) s = execSlea o sh s := rfl
@[simp] theorem exec_spopc (d a s) : exec (.spopc d a) s = execSpopc d a s := rfl
@[simp] theorem exec_sclz (d a s) : exec (.sclz d a) s = execSclz d a s := rfl
@[simp] theorem exec_pand (g d a b s) : exec (.pand g d a b) s = execPand g d a b s := rfl
@[simp] theorem exec_por (g d a b s) : exec (.por g d a b) s = execPor g d a b s := rfl
@[simp] theorem exec_pxor (g d a b s) : exec (.pxor g d a b) s = execPxor g d a b s := rfl
@[simp] theorem exec_pnot (g d a s) : exec (.pnot g d a) s = execPnot g d a s := rfl
@[simp] theorem exec_pmovSp (d a e s) : exec (.pmovSp d a e) s = execPmovSp d a e s := rfl
@[simp] theorem exec_pmovPs (d a e s) : exec (.pmovPs d a e) s = execPmovPs d a e s := rfl
@[simp] theorem exec_ppopc (d a s) : exec (.ppopc d a) s = execPpopc d a s := rfl
@[simp] theorem exec_movsr (d sel s) : exec (.movsr d sel) s = execMovsr d sel s := rfl
@[simp] theorem exec_movrs (a sel s) : exec (.movrs a sel) s = execMovrs a sel s := rfl
@[simp] theorem exec_faddF32 (o rm s) : exec (.faddF32 o rm) s = execFaddF32 o rm s := rfl
@[simp] theorem exec_fsubF32 (o rm s) : exec (.fsubF32 o rm) s = execFsubF32 o rm s := rfl
@[simp] theorem exec_fmulF32 (o rm s) : exec (.fmulF32 o rm) s = execFmulF32 o rm s := rfl
@[simp] theorem exec_fmaF32 (o rm s) : exec (.fmaF32 o rm) s = execFmaF32 o rm s := rfl
@[simp] theorem exec_fnmaF32 (o rm s) : exec (.fnmaF32 o rm) s = execFnmaF32 o rm s := rfl
@[simp] theorem exec_fminF32 (o s) : exec (.fminF32 o) s = execFminF32 o s := rfl
@[simp] theorem exec_fmaxF32 (o s) : exec (.fmaxF32 o) s = execFmaxF32 o s := rfl
@[simp] theorem exec_fabsF32 (o s) : exec (.fabsF32 o) s = execFabsF32 o s := rfl
@[simp] theorem exec_fnegF32 (o s) : exec (.fnegF32 o) s = execFnegF32 o s := rfl
@[simp] theorem exec_fsatF32 (o s) : exec (.fsatF32 o) s = execFsatF32 o s := rfl
@[simp] theorem exec_fcmpEq (o s) : exec (.fcmpEq o) s = execFcmpEq o s := rfl
@[simp] theorem exec_fcmpLt (o s) : exec (.fcmpLt o) s = execFcmpLt o s := rfl
@[simp] theorem exec_fcmpLe (o s) : exec (.fcmpLe o) s = execFcmpLe o s := rfl
@[simp] theorem exec_fcmpUn (o s) : exec (.fcmpUn o) s = execFcmpUn o s := rfl
@[simp] theorem exec_fclass (o s) : exec (.fclass o) s = execFclass o s := rfl
@[simp] theorem exec_frnd (o rm s) : exec (.frnd o rm) s = execFrnd o rm s := rfl
@[simp] theorem exec_fscale (o rm s) : exec (.fscale o rm) s = execFscale o rm s := rfl
@[simp] theorem exec_faddF64 (g d a b rm s) : exec (.faddF64 g d a b rm) s = execFaddF64 g d a b rm s := rfl
@[simp] theorem exec_fmulF64 (g d a b rm s) : exec (.fmulF64 g d a b rm) s = execFmulF64 g d a b rm s := rfl
@[simp] theorem exec_fmaF64 (g d a b c rm s) : exec (.fmaF64 g d a b c rm) s = execFmaF64 g d a b c rm s := rfl
@[simp] theorem exec_faddF16x2 (o rm s) : exec (.faddF16x2 o rm) s = execFaddF16x2 o rm s := rfl
@[simp] theorem exec_fmulF16x2 (o rm s) : exec (.fmulF16x2 o rm) s = execFmulF16x2 o rm s := rfl
@[simp] theorem exec_fmaF16x2 (o rm s) : exec (.fmaF16x2 o rm) s = execFmaF16x2 o rm s := rfl
@[simp] theorem exec_fmaBf16x2 (o rm s) : exec (.fmaBf16x2 o rm) s = execFmaBf16x2 o rm s := rfl
@[simp] theorem exec_fdot2F16 (o rm s) : exec (.fdot2F16 o rm) s = execFdot2F16 o rm s := rfl
@[simp] theorem exec_fdot2Bf16 (o rm s) : exec (.fdot2Bf16 o rm) s = execFdot2Bf16 o rm s := rfl
@[simp] theorem exec_cvtF32I32 (o rm s) : exec (.cvtF32I32 o rm) s = execCvtF32I32 o rm s := rfl
@[simp] theorem exec_cvtF32N32 (o rm s) : exec (.cvtF32N32 o rm) s = execCvtF32N32 o rm s := rfl
@[simp] theorem exec_cvtI32F32 (o rm s) : exec (.cvtI32F32 o rm) s = execCvtI32F32 o rm s := rfl
@[simp] theorem exec_cvtN32F32 (o rm s) : exec (.cvtN32F32 o rm) s = execCvtN32F32 o rm s := rfl
@[simp] theorem exec_cvtF32F64 (g d a rm s) : exec (.cvtF32F64 g d a rm) s = execCvtF32F64 g d a rm s := rfl
@[simp] theorem exec_cvtF64F32 (o s) : exec (.cvtF64F32 o) s = execCvtF64F32 o s := rfl
@[simp] theorem exec_cvtF16x2F32 (o rm s) : exec (.cvtF16x2F32 o rm) s = execCvtF16x2F32 o rm s := rfl
@[simp] theorem exec_cvtF32F16 (o half s) : exec (.cvtF32F16 o half) s = execCvtF32F16 o half s := rfl
@[simp] theorem exec_cvtBf16x2F32 (o rm s) : exec (.cvtBf16x2F32 o rm) s = execCvtBf16x2F32 o rm s := rfl
@[simp] theorem exec_cvtF32Bf16 (o half s) : exec (.cvtF32Bf16 o half) s = execCvtF32Bf16 o half s := rfl
@[simp] theorem exec_cvtT8F32 (o s) : exec (.cvtT8F32 o) s = execCvtT8F32 o s := rfl
@[simp] theorem exec_cvtF32T8 (o rm s) : exec (.cvtF32T8 o rm) s = execCvtF32T8 o rm s := rfl
@[simp] theorem exec_cvtT6F32 (o s) : exec (.cvtT6F32 o) s = execCvtT6F32 o s := rfl
@[simp] theorem exec_cvtF32T6 (o rm s) : exec (.cvtF32T6 o rm) s = execCvtF32T6 o rm s := rfl
@[simp] theorem exec_blkpackT8 (g a e b c s) : exec (.blkpackT8 g a e b c) s = execBlkpackT8 g a e b c s := rfl
@[simp] theorem exec_blkpackT6 (g a e b c s) : exec (.blkpackT6 g a e b c) s = execBlkpackT6 g a e b c s := rfl
@[simp] theorem exec_blkunpk (g d a e rm s) : exec (.blkunpk g d a e rm) s = execBlkunpk g d a e rm s := rfl
@[simp] theorem exec_frcp (o s) : exec (.frcp o) s = execFrcp o s := rfl
@[simp] theorem exec_frsq (o s) : exec (.frsq o) s = execFrsq o s := rfl
@[simp] theorem exec_fsqrt (o s) : exec (.fsqrt o) s = execFsqrt o s := rfl
@[simp] theorem exec_fdiv (o s) : exec (.fdiv o) s = execFdiv o s := rfl
@[simp] theorem exec_fexp2 (o s) : exec (.fexp2 o) s = execFexp2 o s := rfl
@[simp] theorem exec_flog2 (o s) : exec (.flog2 o) s = execFlog2 o s := rfl
@[simp] theorem exec_fsin (o s) : exec (.fsin o) s = execFsin o s := rfl
@[simp] theorem exec_fcos (o s) : exec (.fcos o) s = execFcos o s := rfl
@[simp] theorem exec_ftanh (o s) : exec (.ftanh o) s = execFtanh o s := rfl
@[simp] theorem exec_fsigm (o s) : exec (.fsigm o) s = execFsigm o s := rfl
@[simp] theorem exec_idivI32 (o s) : exec (.idivI32 o) s = execIdivI32 o s := rfl
@[simp] theorem exec_idivN32 (o s) : exec (.idivN32 o) s = execIdivN32 o s := rfl
@[simp] theorem exec_iremI32 (o s) : exec (.iremI32 o) s = execIremI32 o s := rfl
@[simp] theorem exec_iremN32 (o s) : exec (.iremN32 o) s = execIremN32 o s := rfl
@[simp] theorem exec_ldL1 (g d m w s) : exec (.ldL1 g d m w) s = execLdL1 g d m w s := rfl
@[simp] theorem exec_ldL2 (g d m w s) : exec (.ldL2 g d m w) s = execLdL2 g d m w s := rfl
@[simp] theorem exec_ldL3 (g d m w s) : exec (.ldL3 g d m w) s = execLdL3 g d m w s := rfl
@[simp] theorem exec_stL1 (g d m w s) : exec (.stL1 g d m w) s = execStL1 g d m w s := rfl
@[simp] theorem exec_stL2 (g d m w s) : exec (.stL2 g d m w) s = execStL2 g d m w s := rfl
@[simp] theorem exec_stL3 (g d m w s) : exec (.stL3 g d m w) s = execStL3 g d m w s := rfl
@[simp] theorem exec_lduL1 (d m w s) : exec (.lduL1 d m w) s = execLduL1 d m w s := rfl
@[simp] theorem exec_lduL2 (d m w s) : exec (.lduL2 d m w) s = execLduL2 d m w s := rfl
@[simp] theorem exec_lduL3 (d m w s) : exec (.lduL3 d m w) s = execLduL3 d m w s := rfl
@[simp] theorem exec_atAdd (o s) : exec (.atAdd o) s = execAtAdd o s := rfl
@[simp] theorem exec_atMinI32 (o s) : exec (.atMinI32 o) s = execAtMinI32 o s := rfl
@[simp] theorem exec_atMaxI32 (o s) : exec (.atMaxI32 o) s = execAtMaxI32 o s := rfl
@[simp] theorem exec_atMinN32 (o s) : exec (.atMinN32 o) s = execAtMinN32 o s := rfl
@[simp] theorem exec_atMaxN32 (o s) : exec (.atMaxN32 o) s = execAtMaxN32 o s := rfl
@[simp] theorem exec_atAnd (o s) : exec (.atAnd o) s = execAtAnd o s := rfl
@[simp] theorem exec_atOr (o s) : exec (.atOr o) s = execAtOr o s := rfl
@[simp] theorem exec_atXor (o s) : exec (.atXor o) s = execAtXor o s := rfl
@[simp] theorem exec_atXchg (o s) : exec (.atXchg o) s = execAtXchg o s := rfl
@[simp] theorem exec_atXchg64 (o s) : exec (.atXchg64 o) s = execAtXchg64 o s := rfl
@[simp] theorem exec_atCas (o f s) : exec (.atCas o f) s = execAtCas o f s := rfl
@[simp] theorem exec_atCas64 (o f s) : exec (.atCas64 o f) s = execAtCas64 o f s := rfl
@[simp] theorem exec_atFadd (o s) : exec (.atFadd o) s = execAtFadd o s := rfl
@[simp] theorem exec_atAmaxx (o s) : exec (.atAmaxx o) s = execAtAmaxx o s := rfl
@[simp] theorem exec_spinfo (d n s) : exec (.spinfo d n) s = execSpinfo d n s := rfl
@[simp] theorem exec_ldGm (g d m w s) : exec (.ldGm g d m w) s = execLdGm g d m w s := rfl
@[simp] theorem exec_lduGm (d m w s) : exec (.lduGm d m w) s = execLduGm d m w s := rfl
@[simp] theorem exec_stGm (g d m w s) : exec (.stGm g d m w) s = execStGm g d m w s := rfl
@[simp] theorem exec_ldGmAcq (g d m w s) : exec (.ldGmAcq g d m w) s = execLdGmAcq g d m w s := rfl
@[simp] theorem exec_stGmRel (g d m w s) : exec (.stGmRel g d m w) s = execStGmRel g d m w s := rfl
@[simp] theorem exec_phase (s) : exec .phase s = execPhase s := rfl
@[simp] theorem exec_fenceO (s) : exec .fenceO s = execFenceO s := rfl
@[simp] theorem exec_fenceR (d m s) : exec (.fenceR d m) s = execFenceR d m s := rfl
@[simp] theorem exec_evpost (a e s) : exec (.evpost a e) s = execEvpost a e s := rfl
@[simp] theorem exec_evpostNb (d a e s) : exec (.evpostNb d a e) s = execEvpostNb d a e s := rfl
@[simp] theorem exec_evwm (a e s) : exec (.evwm a e) s = execEvwm a e s := rfl
@[simp] theorem exec_streamqTail (d a e s) : exec (.streamqTail d a e) s = execStreamqTail d a e s := rfl
@[simp] theorem exec_streamqRel (d a e s) : exec (.streamqRel d a e) s = execStreamqRel d a e s := rfl
@[simp] theorem exec_streamqWm (d a e s) : exec (.streamqWm d a e) s = execStreamqWm d a e s := rfl
@[simp] theorem exec_streamqLate (d a e s) : exec (.streamqLate d a e) s = execStreamqLate d a e s := rfl
@[simp] theorem exec_automap (a e s) : exec (.automap a e) s = execAutomap a e s := rfl
@[simp] theorem exec_autounmap (a e s) : exec (.autounmap a e) s = execAutounmap a e s := rfl
@[simp] theorem exec_autoqSt (d a s) : exec (.autoqSt d a) s = execAutoqSt d a s := rfl
@[simp] theorem exec_autoqAcc (d a s) : exec (.autoqAcc d a) s = execAutoqAcc d a s := rfl
@[simp] theorem exec_autoqOvf (d a s) : exec (.autoqOvf d a) s = execAutoqOvf d a s := rfl
@[simp] theorem exec_autoqExp (d a s) : exec (.autoqExp d a) s = execAutoqExp d a s := rfl
@[simp] theorem exec_svcall (a e s) : exec (.svcall a e) s = execSvcall a e s := rfl
@[simp] theorem exec_chime (d a b v s) : exec (.chime d a b v) s = execChime d a b v s := rfl
@[simp] theorem exec_chwait (s) : exec .chwait s = execChwait s := rfl
@[simp] theorem exec_chret (s) : exec .chret s = execChret s := rfl
@[simp] theorem exec_chpermDes (d a s) : exec (.chpermDes d a) s = execChpermDes d a s := rfl
@[simp] theorem exec_chpermSet (d a b n s) : exec (.chpermSet d a b n) s = execChpermSet d a b n s := rfl
@[simp] theorem exec_chpermVec (d a v s) : exec (.chpermVec d a v) s = execChpermVec d a v s := rfl
@[simp] theorem exec_chpermEn (d a s) : exec (.chpermEn d a) s = execChpermEn d a s := rfl
@[simp] theorem exec_chinfoPend (d s) : exec (.chinfoPend d) s = execChinfoPend d s := rfl
@[simp] theorem exec_chinfoEn (d s) : exec (.chinfoEn d) s = execChinfoEn d s := rfl
@[simp] theorem exec_chinfoDeny (d s) : exec (.chinfoDeny d) s = execChinfoDeny d s := rfl
@[simp] theorem exec_chinfoVec (d v s) : exec (.chinfoVec d v) s = execChinfoVec d v s := rfl
@[simp] theorem exec_chinfoVecTake (d v s) : exec (.chinfoVecTake d v) s = execChinfoVecTake d v s := rfl
@[simp] theorem exec_perfclass (d n s) : exec (.perfclass d n) s = execPerfclass d n s := rfl
@[simp] theorem exec_perfq (d s) : exec (.perfq d) s = execPerfq d s := rfl
@[simp] theorem exec_tmov (d a e s) : exec (.tmov d a e) s = execTmov d a e s := rfl
@[simp] theorem exec_tmovV (d a e s) : exec (.tmovV d a e) s = execTmovV d a e s := rfl
@[simp] theorem exec_tmovW (d a e s) : exec (.tmovW d a e) s = execTmovW d a e s := rfl
@[simp] theorem exec_tmovR (d a e s) : exec (.tmovR d a e) s = execTmovR d a e s := rfl
@[simp] theorem exec_tmovZ (d a e s) : exec (.tmovZ d a e) s = execTmovZ d a e s := rfl
@[simp] theorem exec_rainit (a b c n s) : exec (.rainit a b c n) s = execRainit a b c n s := rfl
@[simp] theorem exec_rawait (d a s) : exec (.rawait d a) s = execRawait d a s := rfl
@[simp] theorem exec_rarel (d a s) : exec (.rarel d a) s = execRarel d a s := rfl
@[simp] theorem exec_gath (a e s) : exec (.gath a e) s = execGath a e s := rfl
@[simp] theorem exec_scat (a e s) : exec (.scat a e) s = execScat a e s := rfl
@[simp] theorem exec_collAr (a e s) : exec (.collAr a e) s = execCollAr a e s := rfl
@[simp] theorem exec_collAg (a e s) : exec (.collAg a e) s = execCollAg a e s := rfl
@[simp] theorem exec_collRs (a e s) : exec (.collRs a e) s = execCollRs a e s := rfl
@[simp] theorem exec_collBc (a e s) : exec (.collBc a e) s = execCollBc a e s := rfl
@[simp] theorem exec_collA2a (a e s) : exec (.collA2a a e) s = execCollA2a a e s := rfl
@[simp] theorem exec_waitoc (cls n s) : exec (.waitoc cls n) s = execWaitoc cls n s := rfl
@[simp] theorem exec_ocrd (cls d s) : exec (.ocrd cls d) s = execOcrd cls d s := rfl
@[simp] theorem exec_psleep (a s) : exec (.psleep a) s = execPsleep a s := rfl
@[simp] theorem exec_cpydec (a e s) : exec (.cpydec a e) s = execCpydec a e s := rfl
@[simp] theorem exec_cpyenc (a e s) : exec (.cpyenc a e) s = execCpyenc a e s := rfl
@[simp] theorem exec_movts (d b s) : exec (.movts d b) s = execMovts d b s := rfl
@[simp] theorem exec_twr (g d a b s) : exec (.twr g d a b) s = execTwr g d a b s := rfl
@[simp] theorem exec_trd (g d a b s) : exec (.trd g d a b) s = execTrd g d a b s := rfl
@[simp] theorem exec_trdT (g d a b s) : exec (.trdT g d a b) s = execTrdT g d a b s := rfl
@[simp] theorem exec_tzero (d s) : exec (.tzero d) s = execTzero d s := rfl
@[simp] theorem exec_sqgo (d a s) : exec (.sqgo d a) s = execSqgo d a s := rfl
@[simp] theorem exec_sqsig (k s) : exec (.sqsig k) s = execSqsig k s := rfl
@[simp] theorem exec_sqwait (k s) : exec (.sqwait k) s = execSqwait k s := rfl
@[simp] theorem exec_sqstat (d s) : exec (.sqstat d) s = execSqstat d s := rfl
@[simp] theorem exec_dialld (d a e s) : exec (.dialld d a e) s = execDialld d a e s := rfl
@[simp] theorem exec_dialq (d a s) : exec (.dialq d a) s = execDialq d a s := rfl
@[simp] theorem exec_dsadd (o c s) : exec (.dsadd o c) s = execDsadd o c s := rfl
@[simp] theorem exec_dssub (o c s) : exec (.dssub o c) s = execDssub o c s := rfl
@[simp] theorem exec_dsmul (o c s) : exec (.dsmul o c) s = execDsmul o c s := rfl
@[simp] theorem exec_dsdiv (o c s) : exec (.dsdiv o c) s = execDsdiv o c s := rfl
@[simp] theorem exec_dsneg (o s) : exec (.dsneg o) s = execDsneg o s := rfl
@[simp] theorem exec_dsrcp (o c s) : exec (.dsrcp o c) s = execDsrcp o c s := rfl
@[simp] theorem exec_dssqr (o c s) : exec (.dssqr o c) s = execDssqr o c s := rfl
@[simp] theorem exec_dsuni (o s) : exec (.dsuni o) s = execDsuni o s := rfl
@[simp] theorem exec_dsint (o s) : exec (.dsint o) s = execDsint o s := rfl
@[simp] theorem exec_dscpl (o s) : exec (.dscpl o) s = execDscpl o s := rfl
@[simp] theorem exec_dshull (o s) : exec (.dshull o) s = execDshull o s := rfl
@[simp] theorem exec_dsexp (o s) : exec (.dsexp o) s = execDsexp o s := rfl
@[simp] theorem exec_dsexpBlock (g d a c e s) : exec (.dsexpBlock g d a c e) s = execDsexpBlock g d a c e s := rfl
@[simp] theorem exec_dsfrom (o c s) : exec (.dsfrom o c) s = execDsfrom o c s := rfl
@[simp] theorem exec_dsfromArc (o c s) : exec (.dsfromArc o c) s = execDsfromArc o c s := rfl
@[simp] theorem exec_dslo (o c s) : exec (.dslo o c) s = execDslo o c s := rfl
@[simp] theorem exec_dshi (o c s) : exec (.dshi o c) s = execDshi o c s := rfl
@[simp] theorem exec_dstestMeet (g d a b s) : exec (.dstestMeet g d a b) s = execDstestMeet g d a b s := rfl
@[simp] theorem exec_dstestIn (g d a b s) : exec (.dstestIn g d a b) s = execDstestIn g d a b s := rfl
@[simp] theorem exec_dsredUni (g d a s) : exec (.dsredUni g d a) s = execDsredUni g d a s := rfl
@[simp] theorem exec_dsredInt (g d a s) : exec (.dsredInt g d a) s = execDsredInt g d a s := rfl
@[simp] theorem exec_pair (h0 h1 s) : exec (.pair h0 h1) s = execPair h0 h1 s := rfl
@[simp] theorem exec_sqnop (s) : exec .sqnop s = execSqnop s := rfl
@[simp] theorem exec_sqarr (k s) : exec (.sqarr k) s = execSqarr k s := rfl
@[simp] theorem exec_sqwt (k n s) : exec (.sqwt k n) s = execSqwt k n s := rfl
@[simp] theorem exec_sqjmp (off s) : exec (.sqjmp off) s = execSqjmp off s := rfl
@[simp] theorem exec_sqloop (c off n s) : exec (.sqloop c off n) s = execSqloop c off n s := rfl
@[simp] theorem exec_sqend (s) : exec .sqend s = execSqend s := rfl
@[simp] theorem exec_tldq (td sm sk s) : exec (.tldq td sm sk) s = execTldq td sm sk s := rfl
@[simp] theorem exec_tstq (td sm sk s) : exec (.tstq td sm sk) s = execTstq td sm sk s := rfl
@[simp] theorem exec_tzq (td s) : exec (.tzq td) s = execTzq td s := rfl
@[simp] theorem exec_mmaT8 (td ta tb z s) : exec (.mmaT8 td ta tb z) s = execMmaT8 td ta tb z s := rfl
@[simp] theorem exec_mmaT6 (td ta tb z s) : exec (.mmaT6 td ta tb z) s = execMmaT6 td ta tb z s := rfl
@[simp] theorem exec_mmaF16 (td ta tb z s) : exec (.mmaF16 td ta tb z) s = execMmaF16 td ta tb z s := rfl
@[simp] theorem exec_mmaBf16 (td ta tb z s) : exec (.mmaBf16 td ta tb z) s = execMmaBf16 td ta tb z s := rfl
@[simp] theorem exec_mmaF32 (td ta tb z s) : exec (.mmaF32 td ta tb z) s = execMmaF32 td ta tb z s := rfl
@[simp] theorem exec_mmasT8 (td ta tb z s) : exec (.mmasT8 td ta tb z) s = execMmasT8 td ta tb z s := rfl
@[simp] theorem exec_mmasT6 (td ta tb z s) : exec (.mmasT6 td ta tb z) s = execMmasT6 td ta tb z s := rfl
@[simp] theorem exec_gmmaT8 (td ta tb tx z sk s) : exec (.gmmaT8 td ta tb tx z sk) s = execGmmaT8 td ta tb tx z sk s := rfl
@[simp] theorem exec_gmmaT6 (td ta tb tx z sk s) : exec (.gmmaT6 td ta tb tx z sk) s = execGmmaT6 td ta tb tx z sk s := rfl
@[simp] theorem exec_gmmaF16 (td ta tb tx z sk s) : exec (.gmmaF16 td ta tb tx z sk) s = execGmmaF16 td ta tb tx z sk s := rfl
@[simp] theorem exec_gmmaBf16 (td ta tb tx z sk s) : exec (.gmmaBf16 td ta tb tx z sk) s = execGmmaBf16 td ta tb tx z sk s := rfl
@[simp] theorem exec_tadd (td ta tb s) : exec (.tadd td ta tb) s = execTadd td ta tb s := rfl
@[simp] theorem exec_tscale (td ta sk s) : exec (.tscale td ta sk) s = execTscale td ta sk s := rfl
@[simp] theorem exec_tamax (ta sk s) : exec (.tamax ta sk) s = execTamax ta sk s := rfl
@[simp] theorem exec_tamaxRst (sk s) : exec (.tamaxRst sk) s = execTamaxRst sk s := rfl
@[simp] theorem exec_tcvtT8 (td ta q s) : exec (.tcvtT8 td ta q) s = execTcvtT8 td ta q s := rfl
@[simp] theorem exec_tcvtT6 (td ta q s) : exec (.tcvtT6 td ta q) s = execTcvtT6 td ta q s := rfl
@[simp] theorem exec_tcvtF16 (td ta q s) : exec (.tcvtF16 td ta q) s = execTcvtF16 td ta q s := rfl
@[simp] theorem exec_tcvtBf16 (td ta q s) : exec (.tcvtBf16 td ta q) s = execTcvtBf16 td ta q s := rfl
@[simp] theorem exec_skEvpost (d a s) : exec (.skEvpost d a) s = execSkEvpost d a s := rfl
@[simp] theorem exec_skEvwm (d a s) : exec (.skEvwm d a) s = execSkEvwm d a s := rfl
@[simp] theorem exec_skctxWrite (h v s) : exec (.skctxWrite h v) s = execSkctxWrite h v s := rfl
@[simp] theorem exec_globalLoadPerform (p g n lane s) : exec (.globalLoadPerform p g n lane) s = execGlobalLoadPerform p g n lane s := rfl
@[simp] theorem exec_bufferDrain (p g line s) : exec (.bufferDrain p g line) s = execBufferDrain p g line s := rfl
@[simp] theorem exec_boundaryAcknowledge (p g s) : exec (.boundaryAcknowledge p g) s = execBoundaryAcknowledge p g s := rfl
@[simp] theorem exec_gmAtomicPerform (p g s) : exec (.gmAtomicPerform p g) s = execGmAtomicPerform p g s := rfl
@[simp] theorem exec_engineAccess (p g cls n s) : exec (.engineAccess p g cls n) s = execEngineAccess p g cls n s := rfl
@[simp] theorem exec_engineComplete (p g cls s) : exec (.engineComplete p g cls) s = execEngineComplete p g cls s := rfl
@[simp] theorem exec_fenceRForcedPoint (p g s) : exec (.fenceRForcedPoint p g) s = execFenceRForcedPoint p g s := rfl
@[simp] theorem exec_tableWalk (owner ctx off k s) : exec (.tableWalk owner ctx off k) s = execTableWalk owner ctx off k s := rfl
@[simp] theorem exec_extentCounterAppend (owner ctx extent die part s) : exec (.extentCounterAppend owner ctx extent die part) s = execExtentCounterAppend owner ctx extent die part s := rfl
@[simp] theorem exec_verdictRetry (fid s) : exec (.verdictRetry fid) s = execVerdictRetry fid s := rfl
@[simp] theorem exec_verdictDeny (fid s) : exec (.verdictDeny fid) s = execVerdictDeny fid s := rfl
@[simp] theorem exec_deferredTrap (p g s) : exec (.deferredTrap p g) s = execDeferredTrap p g s := rfl
@[simp] theorem exec_tlbInvalidate (owner ctx off s) : exec (.tlbInvalidate owner ctx off) s = execTlbInvalidate owner ctx off s := rfl
@[simp] theorem exec_migrationStart (owner ctx off newPa s) : exec (.migrationStart owner ctx off newPa) s = execMigrationStart owner ctx off newPa s := rfl
@[simp] theorem exec_migrationCommit (owner ctx off s) : exec (.migrationCommit owner ctx off) s = execMigrationCommit owner ctx off s := rfl
@[simp] theorem exec_migrationAbort (owner ctx off poison s) : exec (.migrationAbort owner ctx off poison) s = execMigrationAbort owner ctx off poison s := rfl
@[simp] theorem exec_joinResolve (p g s) : exec (.joinResolve p g) s = execJoinResolve p g s := rfl
@[simp] theorem exec_barPhArrival (p g s) : exec (.barPhArrival p g) s = execBarPhArrival p g s := rfl
@[simp] theorem exec_sleepExpire (p g sl s) : exec (.sleepExpire p g sl) s = execSleepExpire p g sl s := rfl
@[simp] theorem exec_waitcRecheck (p g sl s) : exec (.waitcRecheck p g sl) s = execWaitcRecheck p g sl s := rfl
@[simp] theorem exec_claimGrant (p s) : exec (.claimGrant p) s = execClaimGrant p s := rfl
@[simp] theorem exec_sfqEntryComplete (core s) : exec (.sfqEntryComplete core) s = execSfqEntryComplete core s := rfl
@[simp] theorem exec_psleepWake (p g sl s) : exec (.psleepWake p g sl) s = execPsleepWake p g sl s := rfl
@[simp] theorem exec_spinDemote (p g sl s) : exec (.spinDemote p g sl) s = execSpinDemote p g sl s := rfl
@[simp] theorem exec_spinDemotionTimeout (p g sl s) : exec (.spinDemotionTimeout p g sl) s = execSpinDemotionTimeout p g sl s := rfl
@[simp] theorem exec_swapEligible (p g sl s) : exec (.swapEligible p g sl) s = execSwapEligible p g sl s := rfl
@[simp] theorem exec_gangDrainComplete (p g s) : exec (.gangDrainComplete p g) s = execGangDrainComplete p g s := rfl
@[simp] theorem exec_armedDecrement (p g s) : exec (.armedDecrement p g) s = execArmedDecrement p g s := rfl
@[simp] theorem exec_dialCompileComplete (core k s) : exec (.dialCompileComplete core k) s = execDialCompileComplete core k s := rfl
@[simp] theorem exec_tmovRReserve (p g n s) : exec (.tmovRReserve p g n) s = execTmovRReserve p g n s := rfl
@[simp] theorem exec_tmovRFill (p g n s) : exec (.tmovRFill p g n) s = execTmovRFill p g n s := rfl
@[simp] theorem exec_tmovVClaim (p g n s) : exec (.tmovVClaim p g n) s = execTmovVClaim p g n s := rfl
@[simp] theorem exec_cpydecCheck (p g n s) : exec (.cpydecCheck p g n) s = execCpydecCheck p g n s := rfl
@[simp] theorem exec_sqwtResume (p s) : exec (.sqwtResume p) s = execSqwtResume p s := rfl
@[simp] theorem exec_streamGranuleStop (p s) : exec (.streamGranuleStop p) s = execStreamGranuleStop p s := rfl
@[simp] theorem exec_notify (f off bytes s) : exec (.notify f off bytes) s = execNotify f off bytes s := rfl
@[simp] theorem exec_streamFetch (n s) : exec (.streamFetch n) s = execStreamFetch n s := rfl
@[simp] theorem exec_replayEmit (n s) : exec (.replayEmit n) s = execReplayEmit n s := rfl
@[simp] theorem exec_eventRelease (slot s) : exec (.eventRelease slot) s = execEventRelease slot s := rfl
@[simp] theorem exec_virtualEventFire (slot s) : exec (.virtualEventFire slot) s = execVirtualEventFire slot s := rfl
@[simp] theorem exec_launchBacklogEntry (slot s) : exec (.launchBacklogEntry slot) s = execLaunchBacklogEntry slot s := rfl
@[simp] theorem exec_postAction (slot s) : exec (.postAction slot) s = execPostAction slot s := rfl
@[simp] theorem exec_postAtHub (p g s) : exec (.postAtHub p g) s = execPostAtHub p g s := rfl
@[simp] theorem exec_errorOverflowRecord (n s) : exec (.errorOverflowRecord n) s = execErrorOverflowRecord n s := rfl
@[simp] theorem exec_admission (core grant s) : exec (.admission core grant) s = execAdmission core grant s := rfl
@[simp] theorem exec_preemptForHead (s) : exec .preemptForHead s = execPreemptForHead s := rfl
@[simp] theorem exec_preemptionHalt (core s) : exec (.preemptionHalt core) s = execPreemptionHalt core s := rfl
@[simp] theorem exec_saveRecord (p s) : exec (.saveRecord p) s = execSaveRecord p s := rfl
@[simp] theorem exec_swapSave (s) : exec .swapSave s = execSwapSave s := rfl
@[simp] theorem exec_waitcWatchFire (p addr s) : exec (.waitcWatchFire p addr) s = execWaitcWatchFire p addr s := rfl
@[simp] theorem exec_chimeStep (p g s) : exec (.chimeStep p g) s = execChimeStep p g s := rfl
@[simp] theorem exec_doorbellWrite (f off bytes s) : exec (.doorbellWrite f off bytes) s = execDoorbellWrite f off bytes s := rfl
@[simp] theorem exec_chimeDelivery (p g s) : exec (.chimeDelivery p g) s = execChimeDelivery p g s := rfl
@[simp] theorem exec_scratchGrant (p g n accept share s) : exec (.scratchGrant p g n accept share) s = execScratchGrant p g n accept share s := rfl
@[simp] theorem exec_grantRevoke (p level s) : exec (.grantRevoke p level) s = execGrantRevoke p level s := rfl
@[simp] theorem exec_streamCreate (n c s) : exec (.streamCreate n c) s = execStreamCreate n c s := rfl
@[simp] theorem exec_streamDelete (n s) : exec (.streamDelete n) s = execStreamDelete n s := rfl
@[simp] theorem exec_capabilityIssue (n rights ctx addr s) : exec (.capabilityIssue n rights ctx addr) s = execCapabilityIssue n rights ctx addr s := rfl
@[simp] theorem exec_genRaise (n s) : exec (.genRaise n) s = execGenRaise n s := rfl
@[simp] theorem exec_registrationDelete (ctx rid s) : exec (.registrationDelete ctx rid) s = execRegistrationDelete ctx rid s := rfl
@[simp] theorem exec_groupAbort (handle s) : exec (.groupAbort handle) s = execGroupAbort handle s := rfl
@[simp] theorem exec_codeLoad (ctx addr bytes s) : exec (.codeLoad ctx addr bytes) s = execCodeLoad ctx addr bytes s := rfl
@[simp] theorem exec_currentGrantEval (budget s) : exec (.currentGrantEval budget) s = execCurrentGrantEval budget s := rfl
@[simp] theorem exec_classChange (cluster s) : exec (.classChange cluster) s = execClassChange cluster s := rfl
@[simp] theorem exec_temperatureReport (cluster temp s) : exec (.temperatureReport cluster temp) s = execTemperatureReport cluster temp s := rfl
@[simp] theorem exec_thermalCeilingStep (s) : exec .thermalCeilingStep s = execThermalCeilingStep s := rfl
@[simp] theorem exec_softTrip (s) : exec .softTrip s = execSoftTrip s := rfl
@[simp] theorem exec_hardTrip (s) : exec .hardTrip s = execHardTrip s := rfl
@[simp] theorem exec_resetBoot (s) : exec .resetBoot s = execResetBoot s := rfl
@[simp] theorem exec_recoveryImageWrite (img ok s) : exec (.recoveryImageWrite img ok) s = execRecoveryImageWrite img ok s := rfl
@[simp] theorem exec_lifecycleTransition (signed s) : exec (.lifecycleTransition signed) s = execLifecycleTransition signed s := rfl
@[simp] theorem exec_svnRaise (s) : exec .svnRaise s = execSvnRaise s := rfl
@[simp] theorem exec_lockstepMismatch (s) : exec .lockstepMismatch s = execLockstepMismatch s := rfl
@[simp] theorem exec_routingClaim (src who s) : exec (.routingClaim src who) s = execRoutingClaim src who s := rfl
@[simp] theorem exec_routingVecWrite (src who v s) : exec (.routingVecWrite src who v) s = execRoutingVecWrite src who v s := rfl
@[simp] theorem exec_routingRelease (src who s) : exec (.routingRelease src who) s = execRoutingRelease src who s := rfl
@[simp] theorem exec_monitorControlWrite (cluster n v s) : exec (.monitorControlWrite cluster n v) s = execMonitorControlWrite cluster n v s := rfl
@[simp] theorem exec_scrubPass (s) : exec .scrubPass s = execScrubPass s := rfl
@[simp] theorem exec_uncorrectableStateError (p g sl tile s) : exec (.uncorrectableStateError p g sl tile) s = execUncorrectableStateError p g sl tile s := rfl
@[simp] theorem exec_lockInterface (ctx s) : exec (.lockInterface ctx) s = execLockInterface ctx s := rfl
@[simp] theorem exec_startInterface (ctx s) : exec (.startInterface ctx) s = execStartInterface ctx s := rfl
@[simp] theorem exec_stopInterface (ctx s) : exec (.stopInterface ctx) s = execStopInterface ctx s := rfl
@[simp] theorem exec_tdispError (ctx s) : exec (.tdispError ctx) s = execTdispError ctx s := rfl
@[simp] theorem exec_ideIntegrityFailure (ide s) : exec (.ideIntegrityFailure ide) s = execIdeIntegrityFailure ide s := rfl
@[simp] theorem exec_keyInstall (ctx slot key salt s) : exec (.keyInstall ctx slot key salt) s = execKeyInstall ctx slot key salt s := rfl
@[simp] theorem exec_getMeasurements (ctx nonce s) : exec (.getMeasurements ctx nonce) s = execGetMeasurements ctx nonce s := rfl
@[simp] theorem exec_apertureBind (n ctx addr s) : exec (.apertureBind n ctx addr) s = execApertureBind n ctx addr s := rfl
@[simp] theorem exec_apertureAccess (vf ide port off r s) : exec (.apertureAccess vf ide port off r) s = execApertureAccess vf ide port off r s := rfl
@[simp] theorem exec_flitCrcRetry (link s) : exec (.flitCrcRetry link) s = execFlitCrcRetry link s := rfl
@[simp] theorem exec_domainForm (partno parts s) : exec (.domainForm partno parts) s = execDomainForm partno parts s := rfl
@[simp] theorem exec_partLeavesDomain (part s) : exec (.partLeavesDomain part) s = execPartLeavesDomain part s := rfl
@[simp] theorem exec_supervisorRegisterWrite (w s) : exec (.supervisorRegisterWrite w) s = execSupervisorRegisterWrite w s := rfl
@[simp] theorem exec_suspendedPlotResume (p by_ s) : exec (.suspendedPlotResume p by_) s = execSuspendedPlotResume p by_ s := rfl
@[simp] theorem exec_plotDestroy (p s) : exec (.plotDestroy p) s = execPlotDestroy p s := rfl
@[simp] theorem exec_contextDestroy (ctx s) : exec (.contextDestroy ctx) s = execContextDestroy ctx s := rfl
@[simp] theorem exec_errorStreamAcknowledge (n idx clear s) : exec (.errorStreamAcknowledge n idx clear) s = execErrorStreamAcknowledge n idx clear s := rfl
@[simp] theorem exec_drawAccumulatorWindow (cluster s) : exec (.drawAccumulatorWindow cluster) s = execDrawAccumulatorWindow cluster s := rfl
@[simp] theorem exec_firmwareRecordRemap (slot newSlot s) : exec (.firmwareRecordRemap slot newSlot) s = execFirmwareRecordRemap slot newSlot s := rfl
@[simp] theorem exec_orangeryMemoryAccess (h addr r s) : exec (.orangeryMemoryAccess h addr r) s = execOrangeryMemoryAccess h addr r s := rfl

end Sys2Proof.Machine
end

