-- ==== Sys2Proof/Laws/Issue.lean ====
section
/-! SUPPORT. Laws/Issue.lean: what the operations on a gang do to each part of it, and what a word of a ready issuer
answers. -/

namespace Sys2Proof.Machine

/-! ### Slots -/

@[simp] theorem PcSlot.calm_pc (S : PcSlot) : S.calm.pc = S.pc := rfl
@[simp] theorem PcSlot.calm_mask (S : PcSlot) : S.calm.mask = S.mask := rfl
@[simp] theorem PcSlot.calm_wait (S : PcSlot) : S.calm.wait = S.wait := rfl
@[simp] theorem PcSlot.skip_pc (S : PcSlot) (n : Nat) : (S.skip n).pc = S.pc + BitVec.ofNat 64 n := rfl
@[simp] theorem PcSlot.skip_mask (S : PcSlot) (n : Nat) : (S.skip n).mask = S.mask := rfl
@[simp] theorem PcSlot.skip_wait (S : PcSlot) (n : Nat) : (S.skip n).wait = .none := rfl

@[simp] theorem otherSlot_ne (sl : SlotId) : (otherSlot sl = sl) = False := by cases sl <;> simp [otherSlot]

@[simp] theorem Gang.slot_setSlot (G : Gang) (sl : SlotId) (o : Option PcSlot) : (G.setSlot sl o).slot sl = o := by
  cases sl <;> rfl
@[simp] theorem Gang.slot_setSlot_other (G : Gang) (sl : SlotId) (o : Option PcSlot) :
    (G.setSlot sl o).slot (otherSlot sl) = G.slot (otherSlot sl) := by
  cases sl <;> rfl
theorem Gang.setSlot_slot (G : Gang) (sl : SlotId) : G.setSlot sl (G.slot sl) = G := by cases sl <;> rfl

@[simp] theorem Gang.setSlot_plot (G : Gang) (sl o) : (G.setSlot sl o).plot = G.plot := by cases sl <;> rfl
@[simp] theorem Gang.setSlot_idx (G : Gang) (sl o) : (G.setSlot sl o).idx = G.idx := by cases sl <;> rfl
@[simp] theorem Gang.setSlot_v (G : Gang) (sl o) : (G.setSlot sl o).v = G.v := by cases sl <;> rfl
@[simp] theorem Gang.setSlot_s (G : Gang) (sl o) : (G.setSlot sl o).s = G.s := by cases sl <;> rfl
@[simp] theorem Gang.setSlot_p (G : Gang) (sl o) : (G.setSlot sl o).p = G.p := by cases sl <;> rfl
@[simp] theorem Gang.setSlot_seq (G : Gang) (sl o) : (G.setSlot sl o).seq = G.seq := by cases sl <;> rfl
@[simp] theorem Gang.setSlot_lastIssue (G : Gang) (sl o) : (G.setSlot sl o).lastIssue = G.lastIssue := by cases sl <;> rfl
@[simp] theorem Gang.setSlot_aside (G : Gang) (sl o) : (G.setSlot sl o).aside = G.aside := by cases sl <;> rfl
@[simp] theorem Gang.setSlot_latchA (G : Gang) (sl o) : (G.setSlot sl o).latchA = G.latchA := by cases sl <;> rfl
@[simp] theorem Gang.setSlot_latchB (G : Gang) (sl o) : (G.setSlot sl o).latchB = G.latchB := by cases sl <;> rfl
@[simp] theorem Gang.setSlot_latchC (G : Gang) (sl o) : (G.setSlot sl o).latchC = G.latchC := by cases sl <;> rfl

/-! ### What a gang keeps through each operation -/

/-- Only registers, latches and spin state differ. -/
structure RegStep (G G' : Gang) : Prop where
  aside : G'.aside = G.aside
  seq   : G'.seq = G.seq
  last  : G'.lastIssue = G.lastIssue
  slots : ∀ sl, slotView (G'.slot sl) = slotView (G.slot sl)

theorem RegStep.refl (G : Gang) : RegStep G G := ⟨rfl, rfl, rfl, fun _ => rfl⟩
theorem RegStep.trans {G G' G'' : Gang} (h : RegStep G G') (h' : RegStep G' G'') : RegStep G G'' :=
  ⟨h'.aside.trans h.aside, h'.seq.trans h.seq, h'.last.trans h.last, fun sl => (h'.slots sl).trans (h.slots sl)⟩

theorem slotView_calm (o : Option PcSlot) : slotView (o.map PcSlot.calm) = slotView o := by cases o <;> rfl

theorem Gang.calm_step (G : Gang) : RegStep G G.calm :=
  ⟨rfl, rfl, rfl, fun sl => by cases sl <;> exact slotView_calm _⟩
theorem Gang.noteChange_step (G : Gang) (c : Bool) : RegStep G (G.noteChange c) := by
  cases c
  · exact .refl G
  · exact G.calm_step

/-- Registers and latches written over a gang. -/
theorem RegStep.with (G : Gang) (v : List Lanes) (s : Vector Word64 64) (p : Vector Mask 8) (a b c : Option Latch) :
    RegStep G { G with v := v, s := s, p := p, latchA := a, latchB := b, latchC := c } :=
  ⟨rfl, rfl, rfl, fun sl => by cases sl <;> rfl⟩

theorem Gang.wv_step (G : Gang) (n : Nat) (m : Mask) (x : Lanes) : RegStep G (G.wv n m x) := by
  unfold Gang.wv
  split
  · exact .refl G
  · exact (G.noteChange_step _).trans (.with _ _ _ _ _ _ _)

theorem Gang.ws_step (G : Gang) (n : SReg) (x : Word64) : RegStep G (G.ws n x) := by
  unfold Gang.ws
  split
  · exact .refl G
  · exact (G.noteChange_step _).trans (.with _ _ _ _ _ _ _)

theorem Gang.wp_step (G : Gang) (n : PReg) (x : Mask) : RegStep G (G.wp n x) := by
  unfold Gang.wp
  split
  · exact .refl G
  · exact (G.noteChange_step _).trans (.with _ _ _ _ _ _ _)

theorem Gang.wpIn_step (G : Gang) (n : PReg) (m x : Mask) : RegStep G (G.wpIn n m x) := G.wp_step _ _

@[simp] theorem Gang.noteChange_v (G : Gang) (c) : (G.noteChange c).v = G.v := by cases c <;> rfl
@[simp] theorem Gang.noteChange_s (G : Gang) (c) : (G.noteChange c).s = G.s := by cases c <;> rfl
@[simp] theorem Gang.noteChange_p (G : Gang) (c) : (G.noteChange c).p = G.p := by cases c <;> rfl

/-! ### Register writes -/

@[simp] theorem Gang.wv_s (G : Gang) (n m x) : (G.wv n m x).s = G.s := by unfold Gang.wv; split <;> simp
@[simp] theorem Gang.wv_p (G : Gang) (n m x) : (G.wv n m x).p = G.p := by unfold Gang.wv; split <;> simp
@[simp] theorem Gang.ws_v (G : Gang) (n x) : (G.ws n x).v = G.v := by unfold Gang.ws; split <;> simp
@[simp] theorem Gang.ws_p (G : Gang) (n x) : (G.ws n x).p = G.p := by unfold Gang.ws; split <;> simp
@[simp] theorem Gang.wp_v (G : Gang) (n x) : (G.wp n x).v = G.v := by unfold Gang.wp; split <;> simp
@[simp] theorem Gang.wp_s (G : Gang) (n x) : (G.wp n x).s = G.s := by unfold Gang.wp; split <;> simp
@[simp] theorem Gang.wv_nv (G : Gang) (n m x) : (G.wv n m x).nv = G.nv := by
  unfold Gang.wv; split <;> simp [Gang.nv]

theorem laneAt_of_lt (x : Lanes) (i : Nat) (h : i < 96) : laneAt x i = x[i] := by
  simp [laneAt, List.getD_eq_getElem?_getD, h]

@[simp] theorem laneAt_ofFn (f : Fin 96 → Word) (i : Nat) (h : i < 96) : laneAt (Vector.ofFn f) i = f ⟨i, h⟩ := by
  rw [laneAt_of_lt _ _ h]; simp

theorem laneAt_lanesOf (f : Nat → Word) (i : Nat) (h : i < 96) : laneAt (lanesOf f) i = f i := by
  simp [lanesOf, h]

theorem laneAt_replicate (w : Word) (i : Nat) (h : i < 96) : laneAt (Vector.replicate 96 w) i = w := by
  rw [laneAt_of_lt _ _ h]; simp

theorem laneAt_merge (m : Mask) (new old : Lanes) (i : Nat) (h : i < 96) :
    laneAt (lanesMerge m new old) i = if m.getLsbD i then laneAt new i else laneAt old i := by
  simp [lanesMerge, laneAt_of_lt, h]

theorem Gang.vreg_wv_self (G : Gang) (n : Nat) (m : Mask) (x : Lanes) (hn : n < G.nv) (i : Nat) (hi : i < 96) :
    laneAt ((G.wv n m x).vreg n) i = if m.getLsbD i then laneAt x i else laneAt (G.vreg n) i := by
  unfold Gang.wv
  split
  · rename_i h; simp [h]
  · simp [Gang.vreg, List.getD_eq_getElem?_getD, show n < G.v.length from hn, laneAt_merge, hi]

theorem Gang.vreg_wv_other (G : Gang) (n k : Nat) (m : Mask) (x : Lanes) (h : k ≠ n) :
    (G.wv n m x).vreg k = G.vreg k := by
  unfold Gang.wv
  split
  · rfl
  · simp [Gang.vreg, List.getD_eq_getElem?_getD, List.getElem?_set_ne (Ne.symm h)]

theorem Gang.rs_ws_self (G : Gang) (S : PcSlot) (n : SReg) (x : Word64) :
    (G.ws n x).rs S n = if n = 0 ∨ 61 ≤ n.toNat then G.rs S n else x := by
  unfold Gang.ws Gang.rs
  by_cases h : n = 0 ∨ 61 ≤ n.toNat
  · simp only [if_pos h]
  · rw [if_neg h, if_neg h]
    rw [not_or] at h
    rw [if_neg h.1, if_neg h.2]
    simp

theorem Gang.rs_ws_other (G : Gang) (S : PcSlot) (n k : SReg) (x : Word64) (h : k ≠ n) :
    (G.ws n x).rs S k = G.rs S k := by
  have hk : n.toNat ≠ k.toNat := fun e => h (BitVec.eq_of_toNat_eq e.symm)
  have e : (G.ws n x).s[k.toNat] = G.s[k.toNat] := by
    unfold Gang.ws
    split
    · rfl
    · simp [Vector.getElem_set_ne _ _ hk]
  simp only [Gang.rs, e]

theorem Gang.rp_wpIn_self (G : Gang) (n : PReg) (m x : Mask) (i : Nat) (hi : i < 96) :
    ((G.wpIn n m x).rp n).getLsbD i =
      if n = 0 then true else if m.getLsbD i then x.getLsbD i else (G.rp n).getLsbD i := by
  unfold Gang.wpIn Gang.wp
  by_cases h : n = 0
  · simp only [h, Gang.rp, if_true, BitVec.getLsbD_allOnes, hi, decide_true]
  · rw [if_neg h, if_neg h]
    generalize e : (x &&& m ||| G.rp n &&& ~~~m) = y
    have : ({ G.noteChange (G.p[n.toNat] != y) with p := G.p.set n.toNat y } : Gang).rp n = y := by
      simp only [Gang.rp, if_neg h, Vector.getElem_set_self]
    rw [this, ← e]
    simp only [BitVec.getLsbD_or, BitVec.getLsbD_and, BitVec.getLsbD_not, hi, decide_true, Bool.true_and]
    cases m.getLsbD i <;> simp

theorem Gang.rp_wp_other (G : Gang) (n k : PReg) (x : Mask) (h : k ≠ n) : (G.wp n x).rp k = G.rp k := by
  have hk : n.toNat ≠ k.toNat := fun e => h (BitVec.eq_of_toNat_eq e.symm)
  have e : (G.wp n x).p[k.toNat] = G.p[k.toNat] := by
    unfold Gang.wp
    split
    · rfl
    · simp [Vector.getElem_set_ne _ _ hk]
  simp only [Gang.rp, e]

/-- A bit of the mask of a test. -/
theorem maskNat_testBit (f : Nat → Bool) (n i : Nat) : (maskNat f n).testBit i = (decide (i < n) && f i) := by
  induction n with
  | zero => simp [maskNat]
  | succ n ih =>
    have hlt : maskNat f n < 2 ^ n := by
      clear ih
      induction n with
      | zero => simp [maskNat]
      | succ n ih => simp only [maskNat, Nat.pow_succ]; split <;> omega
    simp only [maskNat]
    by_cases hf : f n = true
    · simp only [hf, if_true]
      rw [Nat.add_comm]
      by_cases h : i = n
      · subst h; rw [Nat.testBit_two_pow_add_eq]; simp [ih, hf]
      · by_cases hi : i < n
        · rw [Nat.testBit_two_pow_add_gt hi, ih]; simp [hi, Nat.lt_succ_of_lt hi]
        · have : n < i := by omega
          have hb : 2 ^ n + maskNat f n < 2 ^ i := by
            have : 2 ^ (n + 1) ≤ 2 ^ i := Nat.pow_le_pow_right (by decide) this
            rw [Nat.pow_succ] at this; omega
          rw [Nat.testBit_lt_two_pow hb]
          simp; omega
    · simp only [hf]
      by_cases h : i = n
      · subst h; simp [ih, hf]
      · simp only [Bool.not_eq_true] at hf
        have : (decide (i < n + 1)) = decide (i < n) := decide_eq_decide.2 (by omega)
        simp only [Bool.false_eq_true, if_false, Nat.add_zero, ih, this]

theorem maskOf_getLsbD (f : Nat → Bool) (i : Nat) (hi : i < 96) : (maskOf f).getLsbD i = f i := by
  rw [maskOf, BitVec.getLsbD_ofNat, maskNat_testBit]
  simp [hi]

/-! ### Issue -/

/-- The issuer once its word is counted. -/
def Issuer.stamped (x : Issuer) (now : Nat) : Issuer :=
  { x with G := x.G.stamp x.sl now, S := { x.S with issued := some now } }

@[simp] theorem Gang.stamp_plot (G : Gang) (sl n) : (G.stamp sl n).plot = G.plot := by cases sl <;> rfl
@[simp] theorem Gang.stamp_idx (G : Gang) (sl n) : (G.stamp sl n).idx = G.idx := by cases sl <;> rfl
@[simp] theorem Gang.stamp_v (G : Gang) (sl n) : (G.stamp sl n).v = G.v := by cases sl <;> rfl
@[simp] theorem Gang.stamp_s (G : Gang) (sl n) : (G.stamp sl n).s = G.s := by cases sl <;> rfl
@[simp] theorem Gang.stamp_p (G : Gang) (sl n) : (G.stamp sl n).p = G.p := by cases sl <;> rfl
@[simp] theorem Gang.stamp_seq (G : Gang) (sl n) : (G.stamp sl n).seq = G.seq + 1 := by cases sl <;> rfl
@[simp] theorem Gang.stamp_last (G : Gang) (sl n) : (G.stamp sl n).lastIssue = some n := by cases sl <;> rfl
@[simp] theorem Gang.stamp_aside (G : Gang) (sl n) : (G.stamp sl n).aside = G.aside := by cases sl <;> rfl
@[simp] theorem Gang.stamp_nv (G : Gang) (sl n) : (G.stamp sl n).nv = G.nv := by cases sl <;> rfl
@[simp] theorem Gang.stamp_vreg (G : Gang) (sl n k) : (G.stamp sl n).vreg k = G.vreg k := by cases sl <;> rfl
@[simp] theorem Gang.stamp_rp (G : Gang) (sl n k) : (G.stamp sl n).rp k = G.rp k := by cases sl <;> rfl
@[simp] theorem Gang.stamp_latchA (G : Gang) (sl n) : (G.stamp sl n).latchA = G.latchA := by cases sl <;> rfl
@[simp] theorem Gang.stamp_latchB (G : Gang) (sl n) : (G.stamp sl n).latchB = G.latchB := by cases sl <;> rfl
@[simp] theorem Gang.stamp_latchC (G : Gang) (sl n) : (G.stamp sl n).latchC = G.latchC := by cases sl <;> rfl
@[simp] theorem Gang.stamp_operand (G : Gang) (sl n l r) : (G.stamp sl n).operand l r = G.operand l r := by
  cases sl <;> cases r <;> rfl
theorem Gang.stamp_view (G : Gang) (sl sl' n) : slotView ((G.stamp sl n).slot sl') = slotView (G.slot sl') := by
  cases sl <;> cases sl' <;> simp [Gang.stamp, Gang.setSlot, Gang.slot, slotView] <;> rfl
@[simp] theorem Gang.stamp_slot (G : Gang) (sl n) :
    (G.stamp sl n).slot sl = (G.slot sl).map fun S => { S with issued := some n } := by
  cases sl <;> rfl

@[simp] theorem Issuer.stamped_P (x : Issuer) (n) : (x.stamped n).P = x.P := rfl
@[simp] theorem Issuer.stamped_G (x : Issuer) (n) : (x.stamped n).G = x.G.stamp x.sl n := rfl
@[simp] theorem Issuer.stamped_sl (x : Issuer) (n) : (x.stamped n).sl = x.sl := rfl
@[simp] theorem Issuer.stamped_S (x : Issuer) (n) : (x.stamped n).S = { x.S with issued := some n } := rfl

@[simp] theorem Gang.stamp_rs (G : Gang) (sl n) (S : PcSlot) (o k) :
    (G.stamp sl n).rs { S with issued := o } k = G.rs S k := by cases sl <;> rfl
@[simp] theorem Gang.stamp_active (G : Gang) (sl n) (S : PcSlot) (o g) :
    (G.stamp sl n).active { S with issued := o } g = G.active S g := by cases sl <;> rfl

theorem Ready.issuer {s : State} {x : Issuer} (h : Ready s x) : s.issuer = some x := by
  simp [State.issuer, h.cur, h.plot, h.gang, h.slot]

theorem Gang.beyond_none (G : Gang) (vs : List Nat) (h : ∀ v ∈ vs, v < G.nv) : G.beyond vs = none := by
  have : (vs.filter fun v => decide (G.nv ≤ v)) = [] := by
    simp only [List.filter_eq_nil_iff, decide_eq_true_eq]
    exact fun v hv => by have := h v hv; omega
  simp [Gang.beyond, this]

/-- A word of a ready issuer whose registers are settled and bounded has its own effect. -/
theorem State.issue_ready {s : State} {x : Issuer} (h : Ready s x) {vs ss : List Nat} (hc : CanIssue s x vs ss)
    (f : Issuer → State) : s.issue vs ss f = .next (f (x.stamped s.ticks)) := by
  simp only [State.issue, h.issuer, hc.1, if_true]
  rw [Gang.beyond_none]
  · rfl
  · simpa using hc.2

/-- A word that names a busy register waits (R96). -/
theorem State.issue_busy {s : State} {x : Issuer} (h : Ready s x) {vs ss : List Nat}
    (hc : s.settledRegs x vs ss = false) (f : Issuer → State) : s.issue vs ss f = .next s := by
  simp [State.issue, h.issuer, hc]

/-- The registers' order does not matter to the scoreboard and the bound check. -/
theorem CanIssue.perm {s : State} {x : Issuer} {vs vs' ss : List Nat} (h : CanIssue s x vs ss)
    (hp : ∀ v, v ∈ vs' → v ∈ vs) : CanIssue s x vs' ss := by
  refine ⟨?_, fun v hv => h.2 v (hp v hv)⟩
  have h1 := h.1
  simp only [State.settledRegs, Bool.not_eq_true', Bool.or_eq_false_iff, List.any_eq_false] at h1 ⊢
  exact ⟨fun v hv => h1.1 v (hp v hv), h1.2⟩

theorem SameMemory.refl (s : State) : SameMemory s s :=
  ⟨fun _ => rfl, fun _ => rfl, fun _ => rfl, fun p P P' h h' => by simp_all, fun _ _ => rfl⟩

theorem SameMemory.setGang (s : State) (G : Gang) : SameMemory s (s.setGang G) :=
  ⟨fun _ => rfl, fun _ => rfl, fun _ => rfl, fun p P P' h h' => by
    have : s.plot? p = some P' := h'
    simp_all, fun _ _ => rfl⟩

/-- The gang's registers have moved on from the stamped gang's, and its slot goes past the word. -/
theorem GangDone.of_step {s : State} {x : Issuer} (h : Ready s x) {G : Gang} (hg : RegStep (x.stamped s.ticks).G G)
    (len : Nat) : GangDone s x len (G.skip x.sl len) where
  regs := ⟨by simp [Gang.skip, hg.aside], by simp [Gang.skip, hg.seq], by simp [Gang.skip, hg.last]⟩
  own := by
    have hv := hg.slots x.sl
    simp [slotView, h.slot] at hv
    obtain ⟨S', hs, e1, e2, e3⟩ := hv
    simp [SlotAt, Gang.skip, hs, e1, e2]
  other := by
    have hv := hg.slots (otherSlot x.sl)
    simp only [Issuer.stamped_G, Gang.stamp_view] at hv
    simpa [OtherKept, Gang.skip, slotView] using hv

/-- The word ends and has changed registers only. -/
theorem State.done_word {s : State} {x : Issuer} (h : Ready s x) {G : Gang} (hg : RegStep (x.stamped s.ticks).G G)
    (len : Nat) : WordDone s x len (s.done (x.stamped s.ticks) G len) (G.skip x.sl len) :=
  ⟨rfl, .of_step h hg len, SameMemory.setGang _ _⟩

/-- What `State.vec` answers for a ready issuer. -/
theorem State.vec_ready {s : State} {x : Issuer} (h : Ready s x) (len : Nat) (ra rb rc : Option HReg) (vs ss : List Nat)
    (hc : CanIssue s x ([ra, rb, rc].filterMap (·.map (·.n.toNat)) ++ vs) ss)
    (f : Issuer → Lanes → Lanes → Lanes → Gang → Gang) :
    s.vec len ra rb rc vs ss f =
      .next (s.done (x.stamped s.ticks)
        (f (x.stamped s.ticks) (x.G.operand x.G.latchA ra) (x.G.operand x.G.latchB rb) (x.G.operand x.G.latchC rc)
          { (x.stamped s.ticks).G with
            latchA := latchNext x.G.latchA ra (x.G.operand x.G.latchA ra)
            latchB := latchNext x.G.latchB rb (x.G.operand x.G.latchB rb)
            latchC := latchNext x.G.latchC rc (x.G.operand x.G.latchC rc) }) len) := by
  rw [State.vec, State.issue_ready h hc]
  simp

/-! ### Words of each shape -/

theorem VSrc.pick_lane (x : Issuer) (b : VSrc) (i : Nat) (hi : i < 96) :
    laneAt (b.pick (x.G.operand x.G.latchB b.reg?)) i = x.srcBI b i := by
  cases b with
  | reg r => rfl
  | e10 e => exact laneAt_replicate _ i hi
  | k32 k => exact laneAt_replicate _ i hi

/-- A word ends whose effect is one vector write. -/
theorem vecSet_wv {x : Issuer} {n : Nat} {d : VReg} {m : Mask} {y : Lanes} {val : Nat → Word} {G : Gang} (len : Nat)
    (hd : d.toNat < x.G.nv) (hG : G.v = x.G.v ∧ G.s = x.G.s ∧ G.p = x.G.p) (hy : ∀ i < 96, laneAt y i = val i)
    (hn : n = d.toNat) : VecSet x d m val ((G.wv n m y).skip x.sl len) := by
  subst hn
  have hv : ∀ k, ((G.wv d.toNat m y).skip x.sl len).vreg k = (G.wv d.toNat m y).vreg k := fun k => by
    simp [Gang.vreg, Gang.skip]
  have hk : ∀ k, G.vreg k = x.G.vreg k := fun k => by simp [Gang.vreg, hG.1]
  have hnv : G.nv = x.G.nv := by simp [Gang.nv, hG.1]
  refine ⟨?_, fun i hi => ?_, fun k h => ?_, ?_, ?_⟩
  · show ((G.wv d.toNat m y).skip x.sl len).v.length = _
    simp only [Gang.skip, Gang.setSlot_v]
    exact (G.wv_nv _ _ _).trans hnv
  · rw [hv, Gang.vreg_wv_self _ _ _ _ (hnv ▸ hd) i hi, hy i hi, hk]
  · rw [hv, Gang.vreg_wv_other _ _ _ _ _ h, hk]
  · simp [Gang.skip, hG.2.1]
  · simp [Gang.skip, hG.2.2]

/-- A word ends whose effect is one scalar write. -/
theorem sclSet_ws {x : Issuer} {d : SReg} {val : Word64} {G : Gang} (len : Nat)
    (hG : G.v = x.G.v ∧ G.s = x.G.s ∧ G.p = x.G.p) : SclSet x d val ((G.ws d val).skip x.sl len) := by
  have hv : ∀ k, ((G.ws d val).skip x.sl len).rs x.S k = (G.ws d val).rs x.S k := fun k => by
    simp [Gang.rs, Gang.skip]
  have hk : ∀ k, G.rs x.S k = x.G.rs x.S k := fun k => by simp [Gang.rs, hG.2.1]
  refine ⟨?_, fun k h => ?_, ?_, ?_⟩
  · rw [hv, Gang.rs_ws_self, hk]
  · rw [hv, Gang.rs_ws_other _ _ _ _ _ h, hk]
  · simp [Gang.skip, hG.1]
  · simp [Gang.skip, hG.2.2]

/-- A word ends whose effect is one predicate write in the lanes of a mask. -/
theorem predSet_wpIn {x : Issuer} {d : PReg} {m y : Mask} {bit : Nat → Bool} {G : Gang} (len : Nat)
    (hG : G.v = x.G.v ∧ G.s = x.G.s ∧ G.p = x.G.p) (hy : ∀ i < 96, y.getLsbD i = bit i) :
    PredSet x d m bit ((G.wpIn d m y).skip x.sl len) := by
  have hv : ∀ k, ((G.wpIn d m y).skip x.sl len).rp k = (G.wpIn d m y).rp k := fun k => by
    simp [Gang.rp, Gang.skip]
  have hk : ∀ k, G.rp k = x.G.rp k := fun k => by simp [Gang.rp, hG.2.2]
  refine ⟨fun i hi => ?_, fun k h => ?_, ?_, ?_⟩
  · rw [hv, Gang.rp_wpIn_self _ _ _ _ i hi, hy i hi, hk]
  · rw [hv, Gang.wpIn, Gang.rp_wp_other _ _ _ _ h, hk]
  · simp [Gang.skip, Gang.wpIn, hG.1]
  · simp [Gang.skip, Gang.wpIn, hG.2.1]

/-- The latches move on. -/
theorem RegStep.latches (G : Gang) (a b c : Option Latch) :
    RegStep G { G with latchA := a, latchB := b, latchC := c } := .with G G.v G.s G.p a b c

theorem vecBin_ready {s : State} {x : Issuer} {o : VBin} (h : Ready s x) (hc : CanIssue s x o.names [])
    (f : Word → Word → Word) : ∃ t G', vecBin o f s = .next t ∧ WordDone s x o.b.len t G' ∧
      VecSet x o.d (x.G.active x.S o.g) (fun i => f (x.srcA o.a i) (x.srcBI o.b i)) G' := by
  have hc' : CanIssue s x ([some o.a, o.b.reg?, none].filterMap (·.map (·.n.toNat)) ++ [o.d.toNat]) [] :=
    hc.perm fun v hv => by cases hb : o.b.reg? <;> simp_all [VBin.names, VSrc.names]
  refine ⟨_, _, State.vec_ready h _ _ _ _ _ _ hc' _, State.done_word h ?_ _, ?_⟩
  · exact (RegStep.latches _ _ _ _).trans (Gang.wv_step _ _ _ _)
  · rw [Issuer.stamped_G, Issuer.stamped_S, Gang.stamp_active]
    refine vecSet_wv _ (hc.2 _ (by simp [VBin.names])) (by simp) (fun i hi => ?_) rfl
    simp only [lanes2, laneAt_ofFn _ i hi, ← VSrc.pick_lane x o.b i hi]
    simp only [laneAt_of_lt _ i hi, Issuer.srcA]
    rfl

theorem vecUn_ready {s : State} {x : Issuer} {o : VUn} (h : Ready s x) (hc : CanIssue s x o.names [])
    (f : Word → Word) : ∃ t G', vecUn o f s = .next t ∧ WordDone s x 8 t G' ∧
      VecSet x o.d (x.G.active x.S o.g) (fun i => f (x.srcA o.a i)) G' := by
  refine ⟨_, _, State.vec_ready h _ _ _ _ _ _ hc _, State.done_word h ?_ _, ?_⟩
  · exact (RegStep.latches _ _ _ _).trans (Gang.wv_step _ _ _ _)
  · rw [Issuer.stamped_G, Issuer.stamped_S, Gang.stamp_active]
    refine vecSet_wv _ (hc.2 _ (by simp [VUn.names])) (by simp) (fun i hi => ?_) rfl
    simp only [lanes1, laneAt_ofFn _ i hi, laneAt_of_lt _ i hi, Issuer.srcA]
    rfl

theorem vec2_ready {s : State} {x : Issuer} {o : V2} (h : Ready s x) (hc : CanIssue s x o.names [])
    (f : Word → Word → Word) : ∃ t G', vec2 o f s = .next t ∧ WordDone s x 8 t G' ∧
      VecSet x o.d (x.G.active x.S o.g) (fun i => f (x.srcA o.a i) (x.srcB o.b i)) G' := by
  refine ⟨_, _, State.vec_ready h _ _ _ _ _ _ hc _, State.done_word h ?_ _, ?_⟩
  · exact (RegStep.latches _ _ _ _).trans (Gang.wv_step _ _ _ _)
  · rw [Issuer.stamped_G, Issuer.stamped_S, Gang.stamp_active]
    refine vecSet_wv _ (hc.2 _ (by simp [V2.names])) (by simp) (fun i hi => ?_) rfl
    simp only [lanes2, laneAt_ofFn _ i hi, laneAt_of_lt _ i hi, Issuer.srcA, Issuer.srcB]
    rfl

theorem vec3_ready {s : State} {x : Issuer} {o : V3} (h : Ready s x) (hc : CanIssue s x o.names [])
    (f : Word → Word → Word → Word) : ∃ t G', vec3 o f s = .next t ∧ WordDone s x 8 t G' ∧
      VecSet x o.d (x.G.active x.S o.g) (fun i => f (x.srcA o.a i) (x.srcB o.b i) (x.srcC o.c i)) G' := by
  refine ⟨_, _, State.vec_ready h _ _ _ _ _ _ hc _, State.done_word h ?_ _, ?_⟩
  · exact (RegStep.latches _ _ _ _).trans (Gang.wv_step _ _ _ _)
  · rw [Issuer.stamped_G, Issuer.stamped_S, Gang.stamp_active]
    refine vecSet_wv _ (hc.2 _ (by simp [V3.names])) (by simp) (fun i hi => ?_) rfl
    simp only [lanes3, laneAt_ofFn _ i hi, laneAt_of_lt _ i hi, Issuer.srcA, Issuer.srcB, Issuer.srcC]
    rfl

theorem vecTri_ready {s : State} {x : Issuer} {o : VTri} (h : Ready s x) (hc : CanIssue s x o.names [])
    (f : Word → Word → Word → Word) : ∃ t G', vecTri o f s = .next t ∧ WordDone s x o.b.len t G' ∧
      VecSet x o.d (x.G.active x.S o.g) (fun i => f (x.srcA o.a i) (x.srcBI o.b i) (x.srcC o.c i)) G' := by
  have hc' : CanIssue s x ([some o.a, o.b.reg?, some o.c].filterMap (·.map (·.n.toNat)) ++ [o.d.toNat]) [] :=
    hc.perm fun v hv => by cases hb : o.b.reg? <;> simp_all [VTri.names, VSrc.names]
  refine ⟨_, _, State.vec_ready h _ _ _ _ _ _ hc' _, State.done_word h ?_ _, ?_⟩
  · exact (RegStep.latches _ _ _ _).trans (Gang.wv_step _ _ _ _)
  · rw [Issuer.stamped_G, Issuer.stamped_S, Gang.stamp_active]
    refine vecSet_wv _ (hc.2 _ (by simp [VTri.names])) (by simp) (fun i hi => ?_) rfl
    simp only [lanes3, laneAt_ofFn _ i hi, ← VSrc.pick_lane x o.b i hi]
    simp only [laneAt_of_lt _ i hi, Issuer.srcA, Issuer.srcC]
    rfl

theorem vecCmp_ready {s : State} {x : Issuer} {o : VCmp} (h : Ready s x) (hc : CanIssue s x o.names [])
    (f : Word → Word → Bool) : ∃ t G', vecCmp o f s = .next t ∧ WordDone s x o.b.len t G' ∧
      PredSet x o.d (x.G.active x.S o.g) (fun i => f (x.srcA o.a i) (x.srcBI o.b i)) G' := by
  have hc' : CanIssue s x ([some o.a, o.b.reg?, none].filterMap (·.map (·.n.toNat)) ++ []) [] :=
    hc.perm fun v hv => by cases hb : o.b.reg? <;> simp_all [VCmp.names, VSrc.names]
  refine ⟨_, _, State.vec_ready h _ _ _ _ _ _ hc' _, State.done_word h ?_ _, ?_⟩
  · exact (RegStep.latches _ _ _ _).trans (Gang.wpIn_step _ _ _ _)
  · rw [Issuer.stamped_G, Issuer.stamped_S, Gang.stamp_active]
    refine predSet_wpIn _ (by simp) (fun i hi => ?_)
    rw [maskOf_getLsbD _ i hi, VSrc.pick_lane x o.b i hi]
    rfl

theorem sclBin_ready {s : State} {x : Issuer} {o : SBin} (h : Ready s x)
    (hc : CanIssue s x [] ([o.d.toNat, o.a.toNat] ++ o.b.uses)) (f : Word64 → Word64 → Word64) :
    ∃ t G', sclBin o f s = .next t ∧ WordDone s x o.b.len t G' ∧
      SclSet x o.d (f (x.G.rs x.S o.a) (o.b.read x.G x.S)) G' := by
  refine ⟨_, _, State.issue_ready h hc _, State.done_word h (Gang.ws_step _ _ _) _, ?_⟩
  have hb : o.b.read (x.stamped s.ticks).G (x.stamped s.ticks).S = o.b.read x.G x.S := by
    cases o.b <;> simp [SSrc.read]
  rw [hb, Issuer.stamped_G, Issuer.stamped_S, Gang.stamp_rs]
  exact sclSet_ws _ (by simp)

theorem sclUn_ready {s : State} {x : Issuer} {d a : SReg} (h : Ready s x) (hc : CanIssue s x [] [d.toNat, a.toNat])
    (f : Word64 → Word64) : ∃ t G', sclUn d a f s = .next t ∧ WordDone s x 8 t G' ∧ SclSet x d (f (x.G.rs x.S a)) G' := by
  refine ⟨_, _, State.issue_ready h hc _, State.done_word h (Gang.ws_step _ _ _) _, ?_⟩
  rw [Issuer.stamped_G, Issuer.stamped_S, Gang.stamp_rs]
  exact sclSet_ws _ (by simp)

/-- A word of this shape does what its meaning's lane function says. -/
theorem VecBinary.of {c : VBin → Instr} {f g : Word → Word → Word} (he : ∀ o s, exec (c o) s = vecBin o g s)
    (h : ∀ a b, g a b = f a b) : VecBinary c f := by
  have : g = f := by funext a b; exact h a b
  subst this
  intro s x o hr hc; rw [he]; exact vecBin_ready hr hc _
/-- A word of this shape does what its meaning's lane function says. -/
theorem VecUnary.of {c : VUn → Instr} {f g : Word → Word} (he : ∀ o s, exec (c o) s = vecUn o g s)
    (h : ∀ a, g a = f a) : VecUnary c f := by
  have : g = f := by funext a; exact h a
  subst this
  intro s x o hr hc; rw [he]; exact vecUn_ready hr hc _
/-- A word of this shape does what its meaning's lane function says. -/
theorem VecTest.of {c : VCmp → Instr} {f g : Word → Word → Bool} (he : ∀ o s, exec (c o) s = vecCmp o g s)
    (h : ∀ a b, g a b = f a b) : VecTest c f := by
  have : g = f := by funext a b; exact h a b
  subst this
  intro s x o hr hc; rw [he]; exact vecCmp_ready hr hc _
/-- A word of this shape does what its meaning's lane function says. -/
theorem VecThree.of {c : V3 → Instr} {f g : Word → Word → Word → Word} (he : ∀ o s, exec (c o) s = vec3 o g s)
    (h : ∀ a b d, g a b d = f a b d) : VecThree c f := by
  have : g = f := by funext a b d; exact h a b d
  subst this
  intro s x o hr hc; rw [he]; exact vec3_ready hr hc _
/-- A word of this shape does what its meaning's lane function says. -/
theorem VecTernary.of {c : VTri → Instr} {f g : Word → Word → Word → Word} (he : ∀ o s, exec (c o) s = vecTri o g s)
    (h : ∀ a b d, g a b d = f a b d) : VecTernary c f := by
  have : g = f := by funext a b d; exact h a b d
  subst this
  intro s x o hr hc; rw [he]; exact vecTri_ready hr hc _
/-- A word ends whose effect is on registers only. -/
theorem word_done {s : State} {x : Issuer} (h : Ready s x) {len : Nat} {ra rb rc : Option HReg} {vs ss : List Nat}
    (hc : CanIssue s x ([ra, rb, rc].filterMap (·.map (·.n.toNat)) ++ vs) ss)
    (f : Issuer → Lanes → Lanes → Lanes → Gang → Gang) (hf : ∀ y a b c G, RegStep G (f y a b c G)) (Q : Gang → Prop)
    (hQ : ∀ G : Gang, G.v = x.G.v ∧ G.s = x.G.s ∧ G.p = x.G.p →
      Q ((f (x.stamped s.ticks) (x.G.operand x.G.latchA ra) (x.G.operand x.G.latchB rb) (x.G.operand x.G.latchC rc) G).skip x.sl len)) :
    ∃ t G', s.vec len ra rb rc vs ss f = .next t ∧ WordDone s x len t G' ∧ Q G' := by
  refine ⟨_, _, State.vec_ready h _ _ _ _ _ _ hc _, State.done_word h ?_ _, ?_⟩
  · exact (RegStep.latches _ _ _ _).trans (hf _ _ _ _ _)
  · apply hQ; simp
end Sys2Proof.Machine
end

