-- ==== Sys2Proof/Laws/Memory.lean ====
section
/-! SUPPORT. Laws/Memory.lean: every memory operation keeps the canonical form, and what a byte reads as after a write. -/

namespace Sys2Proof.Machine

/-! ### The canonical form -/

theorem Memory.wfFrom_cons {lo a : Nat} {b : Byte} {m : Memory} :
    Memory.wfFrom lo ((a, b) :: m) = true ↔ lo ≤ a ∧ b ≠ 0 ∧ Memory.wfFrom (a + 1) m = true := by
  simp only [Memory.wfFrom, Bool.and_eq_true, decide_eq_true_eq, bne_iff_ne]; exact and_assoc

theorem Memory.wfFrom_le {m : Memory} {lo hi : Nat} (h : hi ≤ lo) (w : Memory.wfFrom lo m = true) :
    Memory.wfFrom hi m = true := by
  cases m with
  | nil => rfl
  | cons c m =>
    rw [Memory.wfFrom_cons] at w ⊢
    exact ⟨Nat.le_trans h w.1, w.2⟩

theorem Memory.wfFrom_write {m : Memory} {lo a : Nat} (b : Byte) (h : lo ≤ a) (w : Memory.wfFrom lo m = true) :
    Memory.wfFrom lo (m.write a b) = true := by
  induction m generalizing lo with
  | nil =>
    simp only [Memory.write]
    split
    · rfl
    · rename_i hb; exact Memory.wfFrom_cons.2 ⟨h, hb, rfl⟩
  | cons c m ih =>
    obtain ⟨k, v⟩ := c
    have w' := Memory.wfFrom_cons.1 w
    simp only [Memory.write]
    split
    · rename_i hk
      split
      · exact w
      · rename_i hb
        exact Memory.wfFrom_cons.2 ⟨h, hb, Memory.wfFrom_cons.2 ⟨hk, w'.2⟩⟩
    · split
      · rename_i hk hk'
        split
        · exact Memory.wfFrom_le (Nat.le_succ_of_le w'.1) w'.2.2
        · rename_i hb
          exact Memory.wfFrom_cons.2 ⟨h, hb, hk' ▸ w'.2.2⟩
      · rename_i hk hk'
        exact Memory.wfFrom_cons.2 ⟨w'.1, w'.2.1, ih (by omega) w'.2.2⟩

/-- Writing a byte keeps the canonical form. -/
theorem Memory.wf_write {m : Memory} (a : Nat) (b : Byte) (w : m.wf = true) : (m.write a b).wf = true :=
  Memory.wfFrom_write b (Nat.zero_le a) w

/-- Writing bytes keeps the canonical form. -/
theorem Memory.wf_writeN {m : Memory} (a : Nat) (bs : List Byte) (w : m.wf = true) : (m.writeN a bs).wf = true := by
  induction bs generalizing m a with
  | nil => exact w
  | cons b bs ih => exact ih (a + 1) (Memory.wf_write a b w)

theorem Memory.wfFrom_filter (f : Host.Cell → Bool) {m : Memory} {lo : Nat} (w : Memory.wfFrom lo m = true) :
    Memory.wfFrom lo (m.filter f) = true := by
  induction m generalizing lo with
  | nil => rfl
  | cons c m ih =>
    obtain ⟨k, v⟩ := c
    have w' := Memory.wfFrom_cons.1 w
    simp only [List.filter]
    split
    · exact Memory.wfFrom_cons.2 ⟨w'.1, w'.2.1, ih w'.2.2⟩
    · exact Memory.wfFrom_le (Nat.le_succ_of_le w'.1) (ih w'.2.2)

/-- Wiping a range keeps the canonical form. -/
theorem Memory.wf_wipe {m : Memory} (a n : Nat) (w : m.wf = true) : (m.wipe a n).wf = true := Memory.wfFrom_filter _ w

@[simp] theorem Store.writeN_mem (t : Store) (a : Nat) (bs : List Byte) : (t.writeN a bs).mem = t.mem.writeN a bs := rfl
@[simp] theorem Store.wipe_mem (t : Store) (a n : Nat) : (t.wipe a n).mem = t.mem.wipe a n := rfl

/-- Many writes keep the canonical form. -/
theorem Memory.wf_writes {m : Memory} (l : List (Nat × List Byte)) (w : m.wf = true) :
    Memory.wf (l.foldl (fun m w => m.writeN w.1 w.2) m) = true := by
  induction l generalizing m with
  | nil => exact w
  | cons c l ih => exact ih (Memory.wf_writeN _ _ w)

theorem Store.wf_writes {t : Store} (l : List (Nat × List Byte)) (w : t.mem.wf = true) : (t.writes l).mem.wf = true :=
  Memory.wf_writes l w

theorem Memory.wfFrom_ofBytes (a : Nat) (bs : List Byte) : Memory.wfFrom a (Memory.ofBytes a bs) = true := by
  induction bs generalizing a with
  | nil => rfl
  | cons b bs ih =>
    simp only [Memory.ofBytes]
    split
    · exact Memory.wfFrom_le (Nat.le_succ a) (ih (a + 1))
    · rename_i hb; exact Memory.wfFrom_cons.2 ⟨Nat.le_refl a, hb, ih (a + 1)⟩

/-- Memory made from bytes is canonical. -/
theorem Memory.wf_ofBytes (a : Nat) (bs : List Byte) : (Memory.ofBytes a bs).wf = true :=
  Memory.wfFrom_le (Nat.zero_le a) (Memory.wfFrom_ofBytes a bs)

/-- An entry of a table after a put is the new one or an old one. -/
theorem Tbl.mem_put {α : Type} {t : Tbl α} {k : Nat} {x : α} {q : Nat × α} (h : q ∈ t.put k x) : q = (k, x) ∨ q ∈ t := by
  induction t with
  | nil => exact Or.inl (List.mem_singleton.1 h)
  | cons c t ih =>
    simp only [Tbl.put] at h
    split at h
    · exact (List.mem_cons.1 h).imp id fun h => List.mem_cons_of_mem _ h
    · rcases List.mem_cons.1 h with h | h
      · exact Or.inr (h ▸ List.mem_cons_self ..)
      · exact (ih h).imp id fun h => List.mem_cons_of_mem _ h

/-- A write at its owner keeps the memories canonical. -/
theorem State.MemWf.writeLoc {s : State} (h : s.MemWf) (l : Loc) (bs : List Byte) : (s.writeLoc l bs).MemWf := by
  cases l
  · exact ⟨Memory.wf_writeN _ _ h.hbm, h.host, h.peers, h.plots, h.pads⟩
  · exact ⟨h.hbm, Memory.wf_writeN _ _ h.host, h.peers, h.plots, h.pads⟩
  · exact ⟨h.hbm, h.host, Memory.wf_writeN _ _ h.peers, h.plots, h.pads⟩

/-- A plot with canonical memories may be put. -/
theorem State.MemWf.setPlot {s : State} (h : s.MemWf) {P : Plot} (hP : P.MemWf) : (s.setPlot P).MemWf :=
  ⟨h.hbm, h.host, h.peers, fun q hq => (Tbl.mem_put hq).elim (fun e => e ▸ hP) (h.plots q), h.pads⟩
/-- A state with the same memories. -/
theorem State.MemWf.of_eq {s t : State} (h : s.MemWf) (e1 : t.hbm = s.hbm) (e2 : t.host = s.host) (e3 : t.peers = s.peers)
    (e4 : t.plots = s.plots) (e5 : t.pads = s.pads) : t.MemWf :=
  ⟨e1 ▸ h.hbm, e2 ▸ h.host, e3 ▸ h.peers, e4 ▸ h.plots, e5 ▸ h.pads⟩

theorem State.MemWf.setGang {s : State} (h : s.MemWf) (G : Gang) : (s.setGang G).MemWf := h.of_eq rfl rfl rfl rfl rfl
theorem State.MemWf.setCore {s : State} (h : s.MemWf) (c : Nat) (x : Core) : (s.setCore c x).MemWf := h.of_eq rfl rfl rfl rfl rfl
theorem State.MemWf.setContext {s : State} (h : s.MemWf) (c : Nat) (x : Context) : (s.setContext c x).MemWf := h.of_eq rfl rfl rfl rfl rfl
theorem State.MemWf.setCluster {s : State} (h : s.MemWf) (c : Nat) (x : Cluster) : (s.setCluster c x).MemWf := h.of_eq rfl rfl rfl rfl rfl
theorem State.MemWf.advance {s : State} (h : s.MemWf) : s.advance.MemWf := h.of_eq rfl rfl rfl rfl rfl

theorem reset_mem_wf : State.reset.MemWf :=
  ⟨rfl, rfl, rfl, fun _ h => absurd h List.not_mem_nil, fun _ h => absurd h List.not_mem_nil⟩

/-! ### Reading after writing -/

theorem Memory.read_below {m : Memory} {lo a : Nat} (h : a < lo) (w : Memory.wfFrom lo m = true) : m.read a = 0 := by
  induction m generalizing lo with
  | nil => rfl
  | cons c m ih =>
    obtain ⟨k, v⟩ := c
    simp only [Memory.wfFrom, Bool.and_eq_true, decide_eq_true_eq] at w
    have : k ≠ a := by omega
    simp only [Memory.read, this, if_false]
    exact ih (by omega) w.2

/-- In a canonical memory the byte written is the byte read. -/
theorem Memory.read_write_self {m : Memory} {lo : Nat} (a : Nat) (b : Byte) (w : Memory.wfFrom lo m = true) :
    (m.write a b).read a = b := by
  induction m generalizing lo with
  | nil => simp only [Memory.write]; split <;> simp_all [Memory.read]
  | cons c m ih =>
    obtain ⟨k, v⟩ := c
    simp only [Memory.wfFrom, Bool.and_eq_true, decide_eq_true_eq] at w
    simp only [Memory.write]
    split
    · rename_i hk
      split
      · rename_i hb
        have : k ≠ a := by omega
        simp only [Memory.read, this, if_false]
        rw [Memory.read_below (lo := k + 1) (by omega) w.2, hb]
      · simp [Memory.read]
    · split
      · rename_i hk'
        subst hk'
        split
        · rename_i hb
          rw [Memory.read_below (lo := a + 1) (by omega) w.2, hb]
        · simp [Memory.read]
      · rename_i hk'
        have : k ≠ a := fun e => hk' e.symm
        simp only [Memory.read, this, if_false]
        exact ih w.2

/-- A write changes no other byte, in any list of cells. -/
theorem Memory.read_write_other (m : Memory) {a c : Nat} (b : Byte) (h : c ≠ a) : (m.write a b).read c = m.read c := by
  have h' : a ≠ c := fun e => h e.symm
  induction m with
  | nil => simp only [Memory.write]; split <;> simp [Memory.read, h']
  | cons q m ih =>
    obtain ⟨k, v⟩ := q
    simp only [Memory.write]
    split
    · split <;> simp [Memory.read, h']
    · split
      · rename_i hk
        subst hk
        split <;> simp [Memory.read, h']
      · simp only [Memory.read, ih]

/-- Writing bytes changes no byte outside them. -/
theorem Memory.read_writeN_other (m : Memory) (a c : Nat) (bs : List Byte) (h : c < a ∨ a + bs.length ≤ c) :
    (m.writeN a bs).read c = m.read c := by
  induction bs generalizing m a with
  | nil => rfl
  | cons b bs ih =>
    simp only [List.length_cons] at h
    simp only [Memory.writeN]
    rw [ih _ _ (by omega), Memory.read_write_other _ _ (by omega)]

/-- Each byte written is the byte read. -/
theorem Memory.read_writeN_self {m : Memory} (w : m.wf = true) (a i : Nat) (bs : List Byte) (h : i < bs.length) :
    (m.writeN a bs).read (a + i) = bs[i] := by
  induction bs generalizing m a i with
  | nil => exact absurd h (Nat.not_lt_zero _)
  | cons b bs ih =>
    simp only [Memory.writeN]
    cases i with
    | zero => rw [Nat.add_zero, Memory.read_writeN_other _ _ _ _ (by omega)]; exact Memory.read_write_self a b w
    | succ i =>
      have := ih (Memory.wf_write a b w) (a + 1) i (by simpa using h)
      rw [show a + (i + 1) = a + 1 + i by omega, this]; rfl

end Sys2Proof.Machine
end

