-- ==== Sys2Proof/Laws/State.lean ====
section
/-! SUPPORT. Laws/State.lean: what each update of the state leaves alone, field by field, and what is found after it. -/

namespace Sys2Proof

theorem Tbl.find_put_self {α : Type} (t : Tbl α) (k : Nat) (v : α) : (t.put k v).find k = some v := by
  induction t with
  | nil => simp [Tbl.put, Tbl.find]
  | cons q t ih =>
    simp only [Tbl.put]
    split
    · simp [Tbl.find]
    · rename_i h; simp only [Tbl.find, h, if_false]; exact ih

theorem Tbl.find_put_other {α : Type} (t : Tbl α) {k q : Nat} (v : α) (h : q ≠ k) : (t.put k v).find q = t.find q := by
  have h' : k ≠ q := fun e => h e.symm
  induction t with
  | nil => simp [Tbl.put, Tbl.find, h']
  | cons c t ih =>
    simp only [Tbl.put]
    split
    · rename_i e; subst e; simp [Tbl.find, h']
    · simp only [Tbl.find, ih]

/-- Putting back what stands at a key changes nothing. -/
theorem Tbl.put_found {α : Type} (t : Tbl α) (k : Nat) (v : α) (h : t.find k = some v) : t.put k v = t := by
  induction t with
  | nil => exact absurd h (by simp [Tbl.find])
  | cons q t ih =>
    simp only [Tbl.find] at h
    simp only [Tbl.put]
    split at h
    · rename_i e; cases h; subst e; simp
    · rename_i e; simp [e, ih h]

/-- A value found in a table stands in it. -/
theorem Tbl.mem_of_find {α : Type} {t : Tbl α} {k : Nat} {v : α} (h : t.find k = some v) : (k, v) ∈ t := by
  induction t with
  | nil => exact absurd h (by simp [Tbl.find])
  | cons q t ih =>
    simp only [Tbl.find] at h
    split at h
    · rename_i e; cases h; subst e; exact List.mem_cons_self
    · exact List.mem_cons_of_mem _ (ih h)

/-- What stands in a table after a put is the value put or stood there before. -/
theorem Tbl.mem_put {α : Type} {t : Tbl α} {k : Nat} {v : α} {q : Nat × α} (h : q ∈ t.put k v) : q = (k, v) ∨ q ∈ t := by
  induction t with
  | nil => exact .inl (by simpa [Tbl.put] using h)
  | cons c t ih =>
    simp only [Tbl.put] at h
    split at h
    · rcases List.mem_cons.1 h with h | h
      · exact .inl h
      · exact .inr (List.mem_cons_of_mem _ h)
    · rcases List.mem_cons.1 h with h | h
      · exact .inr (h ▸ List.mem_cons_self)
      · rcases ih h with h | h
        · exact .inl h
        · exact .inr (List.mem_cons_of_mem _ h)

end Sys2Proof

namespace Sys2Proof.Machine

/-! ### setPlot -/

@[simp] theorem State.setPlot_time (s : State) (P : Plot) : (s.setPlot P).time = s.time := rfl
@[simp] theorem State.setPlot_ticks (s : State) (P : Plot) : (s.setPlot P).ticks = s.ticks := rfl
@[simp] theorem State.setPlot_cur (s : State) (P : Plot) : (s.setPlot P).cur = s.cur := rfl
@[simp] theorem State.setPlot_agenda (s : State) (P : Plot) : (s.setPlot P).agenda = s.agenda := rfl
@[simp] theorem State.setPlot_free (s : State) (P : Plot) : (s.setPlot P).free = s.free := rfl
@[simp] theorem State.setPlot_power (s : State) (P : Plot) : (s.setPlot P).power = s.power := rfl
@[simp] theorem State.setPlot_partno (s : State) (P : Plot) : (s.setPlot P).partno = s.partno := rfl
@[simp] theorem State.setPlot_domain (s : State) (P : Plot) : (s.setPlot P).domain = s.domain := rfl
@[simp] theorem State.setPlot_hbm (s : State) (P : Plot) : (s.setPlot P).hbm = s.hbm := rfl
@[simp] theorem State.setPlot_host (s : State) (P : Plot) : (s.setPlot P).host = s.host := rfl
@[simp] theorem State.setPlot_peers (s : State) (P : Plot) : (s.setPlot P).peers = s.peers := rfl
@[simp] theorem State.setPlot_roots (s : State) (P : Plot) : (s.setPlot P).roots = s.roots := rfl
@[simp] theorem State.setPlot_frames (s : State) (P : Plot) : (s.setPlot P).frames = s.frames := rfl
@[simp] theorem State.setPlot_tlb (s : State) (P : Plot) : (s.setPlot P).tlb = s.tlb := rfl
@[simp] theorem State.setPlot_faults (s : State) (P : Plot) : (s.setPlot P).faults = s.faults := rfl
@[simp] theorem State.setPlot_fidNext (s : State) (P : Plot) : (s.setPlot P).fidNext = s.fidNext := rfl
@[simp] theorem State.setPlot_migrations (s : State) (P : Plot) : (s.setPlot P).migrations = s.migrations := rfl
@[simp] theorem State.setPlot_gangs (s : State) (P : Plot) : (s.setPlot P).gangs = s.gangs := rfl
@[simp] theorem State.setPlot_nextKey (s : State) (P : Plot) : (s.setPlot P).nextKey = s.nextKey := rfl
@[simp] theorem State.setPlot_cores (s : State) (P : Plot) : (s.setPlot P).cores = s.cores := rfl
@[simp] theorem State.setPlot_clusters (s : State) (P : Plot) : (s.setPlot P).clusters = s.clusters := rfl
@[simp] theorem State.setPlot_pads (s : State) (P : Plot) : (s.setPlot P).pads = s.pads := rfl
@[simp] theorem State.setPlot_streams (s : State) (P : Plot) : (s.setPlot P).streams = s.streams := rfl
@[simp] theorem State.setPlot_scan (s : State) (P : Plot) : (s.setPlot P).scan = s.scan := rfl
@[simp] theorem State.setPlot_autos (s : State) (P : Plot) : (s.setPlot P).autos = s.autos := rfl
@[simp] theorem State.setPlot_members (s : State) (P : Plot) : (s.setPlot P).members = s.members := rfl
@[simp] theorem State.setPlot_orphans (s : State) (P : Plot) : (s.setPlot P).orphans = s.orphans := rfl
@[simp] theorem State.setPlot_backlog (s : State) (P : Plot) : (s.setPlot P).backlog = s.backlog := rfl
@[simp] theorem State.setPlot_ordNext (s : State) (P : Plot) : (s.setPlot P).ordNext = s.ordNext := rfl
@[simp] theorem State.setPlot_headSince (s : State) (P : Plot) : (s.setPlot P).headSince = s.headSince := rfl
@[simp] theorem State.setPlot_targets (s : State) (P : Plot) : (s.setPlot P).targets = s.targets := rfl
@[simp] theorem State.setPlot_contexts (s : State) (P : Plot) : (s.setPlot P).contexts = s.contexts := rfl
@[simp] theorem State.setPlot_groups (s : State) (P : Plot) : (s.setPlot P).groups = s.groups := rfl
@[simp] theorem State.setPlot_notifyPages (s : State) (P : Plot) : (s.setPlot P).notifyPages = s.notifyPages := rfl
@[simp] theorem State.setPlot_doorbells (s : State) (P : Plot) : (s.setPlot P).doorbells = s.doorbells := rfl
@[simp] theorem State.setPlot_doorbellErrors (s : State) (P : Plot) : (s.setPlot P).doorbellErrors = s.doorbellErrors := rfl
@[simp] theorem State.setPlot_apertures (s : State) (P : Plot) : (s.setPlot P).apertures = s.apertures := rfl
@[simp] theorem State.setPlot_vfs (s : State) (P : Plot) : (s.setPlot P).vfs = s.vfs := rfl
@[simp] theorem State.setPlot_posted (s : State) (P : Plot) : (s.setPlot P).posted = s.posted := rfl
@[simp] theorem State.setPlot_portErrors (s : State) (P : Plot) : (s.setPlot P).portErrors = s.portErrors := rfl
@[simp] theorem State.setPlot_ideDropped (s : State) (P : Plot) : (s.setPlot P).ideDropped = s.ideDropped := rfl
@[simp] theorem State.setPlot_lastRead (s : State) (P : Plot) : (s.setPlot P).lastRead = s.lastRead := rfl
@[simp] theorem State.setPlot_harts (s : State) (P : Plot) : (s.setPlot P).harts = s.harts := rfl
@[simp] theorem State.setPlot_fw (s : State) (P : Plot) : (s.setPlot P).fw = s.fw := rfl

/-! ### setGang -/

@[simp] theorem State.setGang_time (s : State) (G : Gang) : (s.setGang G).time = s.time := rfl
@[simp] theorem State.setGang_ticks (s : State) (G : Gang) : (s.setGang G).ticks = s.ticks := rfl
@[simp] theorem State.setGang_cur (s : State) (G : Gang) : (s.setGang G).cur = s.cur := rfl
@[simp] theorem State.setGang_agenda (s : State) (G : Gang) : (s.setGang G).agenda = s.agenda := rfl
@[simp] theorem State.setGang_free (s : State) (G : Gang) : (s.setGang G).free = s.free := rfl
@[simp] theorem State.setGang_power (s : State) (G : Gang) : (s.setGang G).power = s.power := rfl
@[simp] theorem State.setGang_partno (s : State) (G : Gang) : (s.setGang G).partno = s.partno := rfl
@[simp] theorem State.setGang_domain (s : State) (G : Gang) : (s.setGang G).domain = s.domain := rfl
@[simp] theorem State.setGang_hbm (s : State) (G : Gang) : (s.setGang G).hbm = s.hbm := rfl
@[simp] theorem State.setGang_host (s : State) (G : Gang) : (s.setGang G).host = s.host := rfl
@[simp] theorem State.setGang_peers (s : State) (G : Gang) : (s.setGang G).peers = s.peers := rfl
@[simp] theorem State.setGang_roots (s : State) (G : Gang) : (s.setGang G).roots = s.roots := rfl
@[simp] theorem State.setGang_frames (s : State) (G : Gang) : (s.setGang G).frames = s.frames := rfl
@[simp] theorem State.setGang_tlb (s : State) (G : Gang) : (s.setGang G).tlb = s.tlb := rfl
@[simp] theorem State.setGang_faults (s : State) (G : Gang) : (s.setGang G).faults = s.faults := rfl
@[simp] theorem State.setGang_fidNext (s : State) (G : Gang) : (s.setGang G).fidNext = s.fidNext := rfl
@[simp] theorem State.setGang_migrations (s : State) (G : Gang) : (s.setGang G).migrations = s.migrations := rfl
@[simp] theorem State.setGang_plots (s : State) (G : Gang) : (s.setGang G).plots = s.plots := rfl
@[simp] theorem State.setGang_nextKey (s : State) (G : Gang) : (s.setGang G).nextKey = s.nextKey := rfl
@[simp] theorem State.setGang_cores (s : State) (G : Gang) : (s.setGang G).cores = s.cores := rfl
@[simp] theorem State.setGang_clusters (s : State) (G : Gang) : (s.setGang G).clusters = s.clusters := rfl
@[simp] theorem State.setGang_pads (s : State) (G : Gang) : (s.setGang G).pads = s.pads := rfl
@[simp] theorem State.setGang_streams (s : State) (G : Gang) : (s.setGang G).streams = s.streams := rfl
@[simp] theorem State.setGang_scan (s : State) (G : Gang) : (s.setGang G).scan = s.scan := rfl
@[simp] theorem State.setGang_autos (s : State) (G : Gang) : (s.setGang G).autos = s.autos := rfl
@[simp] theorem State.setGang_members (s : State) (G : Gang) : (s.setGang G).members = s.members := rfl
@[simp] theorem State.setGang_orphans (s : State) (G : Gang) : (s.setGang G).orphans = s.orphans := rfl
@[simp] theorem State.setGang_backlog (s : State) (G : Gang) : (s.setGang G).backlog = s.backlog := rfl
@[simp] theorem State.setGang_ordNext (s : State) (G : Gang) : (s.setGang G).ordNext = s.ordNext := rfl
@[simp] theorem State.setGang_headSince (s : State) (G : Gang) : (s.setGang G).headSince = s.headSince := rfl
@[simp] theorem State.setGang_targets (s : State) (G : Gang) : (s.setGang G).targets = s.targets := rfl
@[simp] theorem State.setGang_contexts (s : State) (G : Gang) : (s.setGang G).contexts = s.contexts := rfl
@[simp] theorem State.setGang_groups (s : State) (G : Gang) : (s.setGang G).groups = s.groups := rfl
@[simp] theorem State.setGang_notifyPages (s : State) (G : Gang) : (s.setGang G).notifyPages = s.notifyPages := rfl
@[simp] theorem State.setGang_doorbells (s : State) (G : Gang) : (s.setGang G).doorbells = s.doorbells := rfl
@[simp] theorem State.setGang_doorbellErrors (s : State) (G : Gang) : (s.setGang G).doorbellErrors = s.doorbellErrors := rfl
@[simp] theorem State.setGang_apertures (s : State) (G : Gang) : (s.setGang G).apertures = s.apertures := rfl
@[simp] theorem State.setGang_vfs (s : State) (G : Gang) : (s.setGang G).vfs = s.vfs := rfl
@[simp] theorem State.setGang_posted (s : State) (G : Gang) : (s.setGang G).posted = s.posted := rfl
@[simp] theorem State.setGang_portErrors (s : State) (G : Gang) : (s.setGang G).portErrors = s.portErrors := rfl
@[simp] theorem State.setGang_ideDropped (s : State) (G : Gang) : (s.setGang G).ideDropped = s.ideDropped := rfl
@[simp] theorem State.setGang_lastRead (s : State) (G : Gang) : (s.setGang G).lastRead = s.lastRead := rfl
@[simp] theorem State.setGang_harts (s : State) (G : Gang) : (s.setGang G).harts = s.harts := rfl
@[simp] theorem State.setGang_fw (s : State) (G : Gang) : (s.setGang G).fw = s.fw := rfl

/-! ### setCore -/

@[simp] theorem State.setCore_time (s : State) (c : Nat) (x : Core) : (s.setCore c x).time = s.time := rfl
@[simp] theorem State.setCore_ticks (s : State) (c : Nat) (x : Core) : (s.setCore c x).ticks = s.ticks := rfl
@[simp] theorem State.setCore_cur (s : State) (c : Nat) (x : Core) : (s.setCore c x).cur = s.cur := rfl
@[simp] theorem State.setCore_agenda (s : State) (c : Nat) (x : Core) : (s.setCore c x).agenda = s.agenda := rfl
@[simp] theorem State.setCore_free (s : State) (c : Nat) (x : Core) : (s.setCore c x).free = s.free := rfl
@[simp] theorem State.setCore_power (s : State) (c : Nat) (x : Core) : (s.setCore c x).power = s.power := rfl
@[simp] theorem State.setCore_partno (s : State) (c : Nat) (x : Core) : (s.setCore c x).partno = s.partno := rfl
@[simp] theorem State.setCore_domain (s : State) (c : Nat) (x : Core) : (s.setCore c x).domain = s.domain := rfl
@[simp] theorem State.setCore_hbm (s : State) (c : Nat) (x : Core) : (s.setCore c x).hbm = s.hbm := rfl
@[simp] theorem State.setCore_host (s : State) (c : Nat) (x : Core) : (s.setCore c x).host = s.host := rfl
@[simp] theorem State.setCore_peers (s : State) (c : Nat) (x : Core) : (s.setCore c x).peers = s.peers := rfl
@[simp] theorem State.setCore_roots (s : State) (c : Nat) (x : Core) : (s.setCore c x).roots = s.roots := rfl
@[simp] theorem State.setCore_frames (s : State) (c : Nat) (x : Core) : (s.setCore c x).frames = s.frames := rfl
@[simp] theorem State.setCore_tlb (s : State) (c : Nat) (x : Core) : (s.setCore c x).tlb = s.tlb := rfl
@[simp] theorem State.setCore_faults (s : State) (c : Nat) (x : Core) : (s.setCore c x).faults = s.faults := rfl
@[simp] theorem State.setCore_fidNext (s : State) (c : Nat) (x : Core) : (s.setCore c x).fidNext = s.fidNext := rfl
@[simp] theorem State.setCore_migrations (s : State) (c : Nat) (x : Core) : (s.setCore c x).migrations = s.migrations := rfl
@[simp] theorem State.setCore_plots (s : State) (c : Nat) (x : Core) : (s.setCore c x).plots = s.plots := rfl
@[simp] theorem State.setCore_gangs (s : State) (c : Nat) (x : Core) : (s.setCore c x).gangs = s.gangs := rfl
@[simp] theorem State.setCore_nextKey (s : State) (c : Nat) (x : Core) : (s.setCore c x).nextKey = s.nextKey := rfl
@[simp] theorem State.setCore_clusters (s : State) (c : Nat) (x : Core) : (s.setCore c x).clusters = s.clusters := rfl
@[simp] theorem State.setCore_pads (s : State) (c : Nat) (x : Core) : (s.setCore c x).pads = s.pads := rfl
@[simp] theorem State.setCore_streams (s : State) (c : Nat) (x : Core) : (s.setCore c x).streams = s.streams := rfl
@[simp] theorem State.setCore_scan (s : State) (c : Nat) (x : Core) : (s.setCore c x).scan = s.scan := rfl
@[simp] theorem State.setCore_autos (s : State) (c : Nat) (x : Core) : (s.setCore c x).autos = s.autos := rfl
@[simp] theorem State.setCore_members (s : State) (c : Nat) (x : Core) : (s.setCore c x).members = s.members := rfl
@[simp] theorem State.setCore_orphans (s : State) (c : Nat) (x : Core) : (s.setCore c x).orphans = s.orphans := rfl
@[simp] theorem State.setCore_backlog (s : State) (c : Nat) (x : Core) : (s.setCore c x).backlog = s.backlog := rfl
@[simp] theorem State.setCore_ordNext (s : State) (c : Nat) (x : Core) : (s.setCore c x).ordNext = s.ordNext := rfl
@[simp] theorem State.setCore_headSince (s : State) (c : Nat) (x : Core) : (s.setCore c x).headSince = s.headSince := rfl
@[simp] theorem State.setCore_targets (s : State) (c : Nat) (x : Core) : (s.setCore c x).targets = s.targets := rfl
@[simp] theorem State.setCore_contexts (s : State) (c : Nat) (x : Core) : (s.setCore c x).contexts = s.contexts := rfl
@[simp] theorem State.setCore_groups (s : State) (c : Nat) (x : Core) : (s.setCore c x).groups = s.groups := rfl
@[simp] theorem State.setCore_notifyPages (s : State) (c : Nat) (x : Core) : (s.setCore c x).notifyPages = s.notifyPages := rfl
@[simp] theorem State.setCore_doorbells (s : State) (c : Nat) (x : Core) : (s.setCore c x).doorbells = s.doorbells := rfl
@[simp] theorem State.setCore_doorbellErrors (s : State) (c : Nat) (x : Core) : (s.setCore c x).doorbellErrors = s.doorbellErrors := rfl
@[simp] theorem State.setCore_apertures (s : State) (c : Nat) (x : Core) : (s.setCore c x).apertures = s.apertures := rfl
@[simp] theorem State.setCore_vfs (s : State) (c : Nat) (x : Core) : (s.setCore c x).vfs = s.vfs := rfl
@[simp] theorem State.setCore_posted (s : State) (c : Nat) (x : Core) : (s.setCore c x).posted = s.posted := rfl
@[simp] theorem State.setCore_portErrors (s : State) (c : Nat) (x : Core) : (s.setCore c x).portErrors = s.portErrors := rfl
@[simp] theorem State.setCore_ideDropped (s : State) (c : Nat) (x : Core) : (s.setCore c x).ideDropped = s.ideDropped := rfl
@[simp] theorem State.setCore_lastRead (s : State) (c : Nat) (x : Core) : (s.setCore c x).lastRead = s.lastRead := rfl
@[simp] theorem State.setCore_harts (s : State) (c : Nat) (x : Core) : (s.setCore c x).harts = s.harts := rfl
@[simp] theorem State.setCore_fw (s : State) (c : Nat) (x : Core) : (s.setCore c x).fw = s.fw := rfl

/-! ### setContext -/

@[simp] theorem State.setContext_time (s : State) (c : Nat) (x : Context) : (s.setContext c x).time = s.time := rfl
@[simp] theorem State.setContext_ticks (s : State) (c : Nat) (x : Context) : (s.setContext c x).ticks = s.ticks := rfl
@[simp] theorem State.setContext_cur (s : State) (c : Nat) (x : Context) : (s.setContext c x).cur = s.cur := rfl
@[simp] theorem State.setContext_agenda (s : State) (c : Nat) (x : Context) : (s.setContext c x).agenda = s.agenda := rfl
@[simp] theorem State.setContext_free (s : State) (c : Nat) (x : Context) : (s.setContext c x).free = s.free := rfl
@[simp] theorem State.setContext_power (s : State) (c : Nat) (x : Context) : (s.setContext c x).power = s.power := rfl
@[simp] theorem State.setContext_partno (s : State) (c : Nat) (x : Context) : (s.setContext c x).partno = s.partno := rfl
@[simp] theorem State.setContext_domain (s : State) (c : Nat) (x : Context) : (s.setContext c x).domain = s.domain := rfl
@[simp] theorem State.setContext_hbm (s : State) (c : Nat) (x : Context) : (s.setContext c x).hbm = s.hbm := rfl
@[simp] theorem State.setContext_host (s : State) (c : Nat) (x : Context) : (s.setContext c x).host = s.host := rfl
@[simp] theorem State.setContext_peers (s : State) (c : Nat) (x : Context) : (s.setContext c x).peers = s.peers := rfl
@[simp] theorem State.setContext_roots (s : State) (c : Nat) (x : Context) : (s.setContext c x).roots = s.roots := rfl
@[simp] theorem State.setContext_frames (s : State) (c : Nat) (x : Context) : (s.setContext c x).frames = s.frames := rfl
@[simp] theorem State.setContext_tlb (s : State) (c : Nat) (x : Context) : (s.setContext c x).tlb = s.tlb := rfl
@[simp] theorem State.setContext_faults (s : State) (c : Nat) (x : Context) : (s.setContext c x).faults = s.faults := rfl
@[simp] theorem State.setContext_fidNext (s : State) (c : Nat) (x : Context) : (s.setContext c x).fidNext = s.fidNext := rfl
@[simp] theorem State.setContext_migrations (s : State) (c : Nat) (x : Context) : (s.setContext c x).migrations = s.migrations := rfl
@[simp] theorem State.setContext_plots (s : State) (c : Nat) (x : Context) : (s.setContext c x).plots = s.plots := rfl
@[simp] theorem State.setContext_gangs (s : State) (c : Nat) (x : Context) : (s.setContext c x).gangs = s.gangs := rfl
@[simp] theorem State.setContext_nextKey (s : State) (c : Nat) (x : Context) : (s.setContext c x).nextKey = s.nextKey := rfl
@[simp] theorem State.setContext_cores (s : State) (c : Nat) (x : Context) : (s.setContext c x).cores = s.cores := rfl
@[simp] theorem State.setContext_clusters (s : State) (c : Nat) (x : Context) : (s.setContext c x).clusters = s.clusters := rfl
@[simp] theorem State.setContext_pads (s : State) (c : Nat) (x : Context) : (s.setContext c x).pads = s.pads := rfl
@[simp] theorem State.setContext_streams (s : State) (c : Nat) (x : Context) : (s.setContext c x).streams = s.streams := rfl
@[simp] theorem State.setContext_scan (s : State) (c : Nat) (x : Context) : (s.setContext c x).scan = s.scan := rfl
@[simp] theorem State.setContext_autos (s : State) (c : Nat) (x : Context) : (s.setContext c x).autos = s.autos := rfl
@[simp] theorem State.setContext_members (s : State) (c : Nat) (x : Context) : (s.setContext c x).members = s.members := rfl
@[simp] theorem State.setContext_orphans (s : State) (c : Nat) (x : Context) : (s.setContext c x).orphans = s.orphans := rfl
@[simp] theorem State.setContext_backlog (s : State) (c : Nat) (x : Context) : (s.setContext c x).backlog = s.backlog := rfl
@[simp] theorem State.setContext_ordNext (s : State) (c : Nat) (x : Context) : (s.setContext c x).ordNext = s.ordNext := rfl
@[simp] theorem State.setContext_headSince (s : State) (c : Nat) (x : Context) : (s.setContext c x).headSince = s.headSince := rfl
@[simp] theorem State.setContext_targets (s : State) (c : Nat) (x : Context) : (s.setContext c x).targets = s.targets := rfl
@[simp] theorem State.setContext_groups (s : State) (c : Nat) (x : Context) : (s.setContext c x).groups = s.groups := rfl
@[simp] theorem State.setContext_notifyPages (s : State) (c : Nat) (x : Context) : (s.setContext c x).notifyPages = s.notifyPages := rfl
@[simp] theorem State.setContext_doorbells (s : State) (c : Nat) (x : Context) : (s.setContext c x).doorbells = s.doorbells := rfl
@[simp] theorem State.setContext_doorbellErrors (s : State) (c : Nat) (x : Context) : (s.setContext c x).doorbellErrors = s.doorbellErrors := rfl
@[simp] theorem State.setContext_apertures (s : State) (c : Nat) (x : Context) : (s.setContext c x).apertures = s.apertures := rfl
@[simp] theorem State.setContext_vfs (s : State) (c : Nat) (x : Context) : (s.setContext c x).vfs = s.vfs := rfl
@[simp] theorem State.setContext_posted (s : State) (c : Nat) (x : Context) : (s.setContext c x).posted = s.posted := rfl
@[simp] theorem State.setContext_portErrors (s : State) (c : Nat) (x : Context) : (s.setContext c x).portErrors = s.portErrors := rfl
@[simp] theorem State.setContext_ideDropped (s : State) (c : Nat) (x : Context) : (s.setContext c x).ideDropped = s.ideDropped := rfl
@[simp] theorem State.setContext_lastRead (s : State) (c : Nat) (x : Context) : (s.setContext c x).lastRead = s.lastRead := rfl
@[simp] theorem State.setContext_harts (s : State) (c : Nat) (x : Context) : (s.setContext c x).harts = s.harts := rfl
@[simp] theorem State.setContext_fw (s : State) (c : Nat) (x : Context) : (s.setContext c x).fw = s.fw := rfl

/-! ### setCluster -/

@[simp] theorem State.setCluster_time (s : State) (c : Nat) (x : Cluster) : (s.setCluster c x).time = s.time := rfl
@[simp] theorem State.setCluster_ticks (s : State) (c : Nat) (x : Cluster) : (s.setCluster c x).ticks = s.ticks := rfl
@[simp] theorem State.setCluster_cur (s : State) (c : Nat) (x : Cluster) : (s.setCluster c x).cur = s.cur := rfl
@[simp] theorem State.setCluster_agenda (s : State) (c : Nat) (x : Cluster) : (s.setCluster c x).agenda = s.agenda := rfl
@[simp] theorem State.setCluster_free (s : State) (c : Nat) (x : Cluster) : (s.setCluster c x).free = s.free := rfl
@[simp] theorem State.setCluster_power (s : State) (c : Nat) (x : Cluster) : (s.setCluster c x).power = s.power := rfl
@[simp] theorem State.setCluster_partno (s : State) (c : Nat) (x : Cluster) : (s.setCluster c x).partno = s.partno := rfl
@[simp] theorem State.setCluster_domain (s : State) (c : Nat) (x : Cluster) : (s.setCluster c x).domain = s.domain := rfl
@[simp] theorem State.setCluster_hbm (s : State) (c : Nat) (x : Cluster) : (s.setCluster c x).hbm = s.hbm := rfl
@[simp] theorem State.setCluster_host (s : State) (c : Nat) (x : Cluster) : (s.setCluster c x).host = s.host := rfl
@[simp] theorem State.setCluster_peers (s : State) (c : Nat) (x : Cluster) : (s.setCluster c x).peers = s.peers := rfl
@[simp] theorem State.setCluster_roots (s : State) (c : Nat) (x : Cluster) : (s.setCluster c x).roots = s.roots := rfl
@[simp] theorem State.setCluster_frames (s : State) (c : Nat) (x : Cluster) : (s.setCluster c x).frames = s.frames := rfl
@[simp] theorem State.setCluster_tlb (s : State) (c : Nat) (x : Cluster) : (s.setCluster c x).tlb = s.tlb := rfl
@[simp] theorem State.setCluster_faults (s : State) (c : Nat) (x : Cluster) : (s.setCluster c x).faults = s.faults := rfl
@[simp] theorem State.setCluster_fidNext (s : State) (c : Nat) (x : Cluster) : (s.setCluster c x).fidNext = s.fidNext := rfl
@[simp] theorem State.setCluster_migrations (s : State) (c : Nat) (x : Cluster) : (s.setCluster c x).migrations = s.migrations := rfl
@[simp] theorem State.setCluster_plots (s : State) (c : Nat) (x : Cluster) : (s.setCluster c x).plots = s.plots := rfl
@[simp] theorem State.setCluster_gangs (s : State) (c : Nat) (x : Cluster) : (s.setCluster c x).gangs = s.gangs := rfl
@[simp] theorem State.setCluster_nextKey (s : State) (c : Nat) (x : Cluster) : (s.setCluster c x).nextKey = s.nextKey := rfl
@[simp] theorem State.setCluster_cores (s : State) (c : Nat) (x : Cluster) : (s.setCluster c x).cores = s.cores := rfl
@[simp] theorem State.setCluster_pads (s : State) (c : Nat) (x : Cluster) : (s.setCluster c x).pads = s.pads := rfl
@[simp] theorem State.setCluster_streams (s : State) (c : Nat) (x : Cluster) : (s.setCluster c x).streams = s.streams := rfl
@[simp] theorem State.setCluster_scan (s : State) (c : Nat) (x : Cluster) : (s.setCluster c x).scan = s.scan := rfl
@[simp] theorem State.setCluster_autos (s : State) (c : Nat) (x : Cluster) : (s.setCluster c x).autos = s.autos := rfl
@[simp] theorem State.setCluster_members (s : State) (c : Nat) (x : Cluster) : (s.setCluster c x).members = s.members := rfl
@[simp] theorem State.setCluster_orphans (s : State) (c : Nat) (x : Cluster) : (s.setCluster c x).orphans = s.orphans := rfl
@[simp] theorem State.setCluster_backlog (s : State) (c : Nat) (x : Cluster) : (s.setCluster c x).backlog = s.backlog := rfl
@[simp] theorem State.setCluster_ordNext (s : State) (c : Nat) (x : Cluster) : (s.setCluster c x).ordNext = s.ordNext := rfl
@[simp] theorem State.setCluster_headSince (s : State) (c : Nat) (x : Cluster) : (s.setCluster c x).headSince = s.headSince := rfl
@[simp] theorem State.setCluster_targets (s : State) (c : Nat) (x : Cluster) : (s.setCluster c x).targets = s.targets := rfl
@[simp] theorem State.setCluster_contexts (s : State) (c : Nat) (x : Cluster) : (s.setCluster c x).contexts = s.contexts := rfl
@[simp] theorem State.setCluster_groups (s : State) (c : Nat) (x : Cluster) : (s.setCluster c x).groups = s.groups := rfl
@[simp] theorem State.setCluster_notifyPages (s : State) (c : Nat) (x : Cluster) : (s.setCluster c x).notifyPages = s.notifyPages := rfl
@[simp] theorem State.setCluster_doorbells (s : State) (c : Nat) (x : Cluster) : (s.setCluster c x).doorbells = s.doorbells := rfl
@[simp] theorem State.setCluster_doorbellErrors (s : State) (c : Nat) (x : Cluster) : (s.setCluster c x).doorbellErrors = s.doorbellErrors := rfl
@[simp] theorem State.setCluster_apertures (s : State) (c : Nat) (x : Cluster) : (s.setCluster c x).apertures = s.apertures := rfl
@[simp] theorem State.setCluster_vfs (s : State) (c : Nat) (x : Cluster) : (s.setCluster c x).vfs = s.vfs := rfl
@[simp] theorem State.setCluster_posted (s : State) (c : Nat) (x : Cluster) : (s.setCluster c x).posted = s.posted := rfl
@[simp] theorem State.setCluster_portErrors (s : State) (c : Nat) (x : Cluster) : (s.setCluster c x).portErrors = s.portErrors := rfl
@[simp] theorem State.setCluster_ideDropped (s : State) (c : Nat) (x : Cluster) : (s.setCluster c x).ideDropped = s.ideDropped := rfl
@[simp] theorem State.setCluster_lastRead (s : State) (c : Nat) (x : Cluster) : (s.setCluster c x).lastRead = s.lastRead := rfl
@[simp] theorem State.setCluster_harts (s : State) (c : Nat) (x : Cluster) : (s.setCluster c x).harts = s.harts := rfl
@[simp] theorem State.setCluster_fw (s : State) (c : Nat) (x : Cluster) : (s.setCluster c x).fw = s.fw := rfl

/-! ### setTarget -/

@[simp] theorem State.setTarget_time (s : State) (k : Nat) (t : Target) : (s.setTarget k t).time = s.time := rfl
@[simp] theorem State.setTarget_ticks (s : State) (k : Nat) (t : Target) : (s.setTarget k t).ticks = s.ticks := rfl
@[simp] theorem State.setTarget_cur (s : State) (k : Nat) (t : Target) : (s.setTarget k t).cur = s.cur := rfl
@[simp] theorem State.setTarget_agenda (s : State) (k : Nat) (t : Target) : (s.setTarget k t).agenda = s.agenda := rfl
@[simp] theorem State.setTarget_free (s : State) (k : Nat) (t : Target) : (s.setTarget k t).free = s.free := rfl
@[simp] theorem State.setTarget_power (s : State) (k : Nat) (t : Target) : (s.setTarget k t).power = s.power := rfl
@[simp] theorem State.setTarget_partno (s : State) (k : Nat) (t : Target) : (s.setTarget k t).partno = s.partno := rfl
@[simp] theorem State.setTarget_domain (s : State) (k : Nat) (t : Target) : (s.setTarget k t).domain = s.domain := rfl
@[simp] theorem State.setTarget_hbm (s : State) (k : Nat) (t : Target) : (s.setTarget k t).hbm = s.hbm := rfl
@[simp] theorem State.setTarget_host (s : State) (k : Nat) (t : Target) : (s.setTarget k t).host = s.host := rfl
@[simp] theorem State.setTarget_peers (s : State) (k : Nat) (t : Target) : (s.setTarget k t).peers = s.peers := rfl
@[simp] theorem State.setTarget_roots (s : State) (k : Nat) (t : Target) : (s.setTarget k t).roots = s.roots := rfl
@[simp] theorem State.setTarget_frames (s : State) (k : Nat) (t : Target) : (s.setTarget k t).frames = s.frames := rfl
@[simp] theorem State.setTarget_tlb (s : State) (k : Nat) (t : Target) : (s.setTarget k t).tlb = s.tlb := rfl
@[simp] theorem State.setTarget_faults (s : State) (k : Nat) (t : Target) : (s.setTarget k t).faults = s.faults := rfl
@[simp] theorem State.setTarget_fidNext (s : State) (k : Nat) (t : Target) : (s.setTarget k t).fidNext = s.fidNext := rfl
@[simp] theorem State.setTarget_migrations (s : State) (k : Nat) (t : Target) : (s.setTarget k t).migrations = s.migrations := rfl
@[simp] theorem State.setTarget_plots (s : State) (k : Nat) (t : Target) : (s.setTarget k t).plots = s.plots := rfl
@[simp] theorem State.setTarget_gangs (s : State) (k : Nat) (t : Target) : (s.setTarget k t).gangs = s.gangs := rfl
@[simp] theorem State.setTarget_nextKey (s : State) (k : Nat) (t : Target) : (s.setTarget k t).nextKey = s.nextKey := rfl
@[simp] theorem State.setTarget_cores (s : State) (k : Nat) (t : Target) : (s.setTarget k t).cores = s.cores := rfl
@[simp] theorem State.setTarget_clusters (s : State) (k : Nat) (t : Target) : (s.setTarget k t).clusters = s.clusters := rfl
@[simp] theorem State.setTarget_pads (s : State) (k : Nat) (t : Target) : (s.setTarget k t).pads = s.pads := rfl
@[simp] theorem State.setTarget_streams (s : State) (k : Nat) (t : Target) : (s.setTarget k t).streams = s.streams := rfl
@[simp] theorem State.setTarget_scan (s : State) (k : Nat) (t : Target) : (s.setTarget k t).scan = s.scan := rfl
@[simp] theorem State.setTarget_autos (s : State) (k : Nat) (t : Target) : (s.setTarget k t).autos = s.autos := rfl
@[simp] theorem State.setTarget_members (s : State) (k : Nat) (t : Target) : (s.setTarget k t).members = s.members := rfl
@[simp] theorem State.setTarget_orphans (s : State) (k : Nat) (t : Target) : (s.setTarget k t).orphans = s.orphans := rfl
@[simp] theorem State.setTarget_backlog (s : State) (k : Nat) (t : Target) : (s.setTarget k t).backlog = s.backlog := rfl
@[simp] theorem State.setTarget_ordNext (s : State) (k : Nat) (t : Target) : (s.setTarget k t).ordNext = s.ordNext := rfl
@[simp] theorem State.setTarget_headSince (s : State) (k : Nat) (t : Target) : (s.setTarget k t).headSince = s.headSince := rfl
@[simp] theorem State.setTarget_contexts (s : State) (k : Nat) (t : Target) : (s.setTarget k t).contexts = s.contexts := rfl
@[simp] theorem State.setTarget_groups (s : State) (k : Nat) (t : Target) : (s.setTarget k t).groups = s.groups := rfl
@[simp] theorem State.setTarget_notifyPages (s : State) (k : Nat) (t : Target) : (s.setTarget k t).notifyPages = s.notifyPages := rfl
@[simp] theorem State.setTarget_doorbells (s : State) (k : Nat) (t : Target) : (s.setTarget k t).doorbells = s.doorbells := rfl
@[simp] theorem State.setTarget_doorbellErrors (s : State) (k : Nat) (t : Target) : (s.setTarget k t).doorbellErrors = s.doorbellErrors := rfl
@[simp] theorem State.setTarget_apertures (s : State) (k : Nat) (t : Target) : (s.setTarget k t).apertures = s.apertures := rfl
@[simp] theorem State.setTarget_vfs (s : State) (k : Nat) (t : Target) : (s.setTarget k t).vfs = s.vfs := rfl
@[simp] theorem State.setTarget_posted (s : State) (k : Nat) (t : Target) : (s.setTarget k t).posted = s.posted := rfl
@[simp] theorem State.setTarget_portErrors (s : State) (k : Nat) (t : Target) : (s.setTarget k t).portErrors = s.portErrors := rfl
@[simp] theorem State.setTarget_ideDropped (s : State) (k : Nat) (t : Target) : (s.setTarget k t).ideDropped = s.ideDropped := rfl
@[simp] theorem State.setTarget_lastRead (s : State) (k : Nat) (t : Target) : (s.setTarget k t).lastRead = s.lastRead := rfl
@[simp] theorem State.setTarget_harts (s : State) (k : Nat) (t : Target) : (s.setTarget k t).harts = s.harts := rfl
@[simp] theorem State.setTarget_fw (s : State) (k : Nat) (t : Target) : (s.setTarget k t).fw = s.fw := rfl

/-! ### setHart -/

@[simp] theorem State.setHart_time (s : State) (h : Nat) (H : Hart) : (s.setHart h H).time = s.time := rfl
@[simp] theorem State.setHart_ticks (s : State) (h : Nat) (H : Hart) : (s.setHart h H).ticks = s.ticks := rfl
@[simp] theorem State.setHart_cur (s : State) (h : Nat) (H : Hart) : (s.setHart h H).cur = s.cur := rfl
@[simp] theorem State.setHart_agenda (s : State) (h : Nat) (H : Hart) : (s.setHart h H).agenda = s.agenda := rfl
@[simp] theorem State.setHart_free (s : State) (h : Nat) (H : Hart) : (s.setHart h H).free = s.free := rfl
@[simp] theorem State.setHart_power (s : State) (h : Nat) (H : Hart) : (s.setHart h H).power = s.power := rfl
@[simp] theorem State.setHart_partno (s : State) (h : Nat) (H : Hart) : (s.setHart h H).partno = s.partno := rfl
@[simp] theorem State.setHart_domain (s : State) (h : Nat) (H : Hart) : (s.setHart h H).domain = s.domain := rfl
@[simp] theorem State.setHart_hbm (s : State) (h : Nat) (H : Hart) : (s.setHart h H).hbm = s.hbm := rfl
@[simp] theorem State.setHart_host (s : State) (h : Nat) (H : Hart) : (s.setHart h H).host = s.host := rfl
@[simp] theorem State.setHart_peers (s : State) (h : Nat) (H : Hart) : (s.setHart h H).peers = s.peers := rfl
@[simp] theorem State.setHart_roots (s : State) (h : Nat) (H : Hart) : (s.setHart h H).roots = s.roots := rfl
@[simp] theorem State.setHart_frames (s : State) (h : Nat) (H : Hart) : (s.setHart h H).frames = s.frames := rfl
@[simp] theorem State.setHart_tlb (s : State) (h : Nat) (H : Hart) : (s.setHart h H).tlb = s.tlb := rfl
@[simp] theorem State.setHart_faults (s : State) (h : Nat) (H : Hart) : (s.setHart h H).faults = s.faults := rfl
@[simp] theorem State.setHart_fidNext (s : State) (h : Nat) (H : Hart) : (s.setHart h H).fidNext = s.fidNext := rfl
@[simp] theorem State.setHart_migrations (s : State) (h : Nat) (H : Hart) : (s.setHart h H).migrations = s.migrations := rfl
@[simp] theorem State.setHart_plots (s : State) (h : Nat) (H : Hart) : (s.setHart h H).plots = s.plots := rfl
@[simp] theorem State.setHart_gangs (s : State) (h : Nat) (H : Hart) : (s.setHart h H).gangs = s.gangs := rfl
@[simp] theorem State.setHart_nextKey (s : State) (h : Nat) (H : Hart) : (s.setHart h H).nextKey = s.nextKey := rfl
@[simp] theorem State.setHart_cores (s : State) (h : Nat) (H : Hart) : (s.setHart h H).cores = s.cores := rfl
@[simp] theorem State.setHart_clusters (s : State) (h : Nat) (H : Hart) : (s.setHart h H).clusters = s.clusters := rfl
@[simp] theorem State.setHart_pads (s : State) (h : Nat) (H : Hart) : (s.setHart h H).pads = s.pads := rfl
@[simp] theorem State.setHart_streams (s : State) (h : Nat) (H : Hart) : (s.setHart h H).streams = s.streams := rfl
@[simp] theorem State.setHart_scan (s : State) (h : Nat) (H : Hart) : (s.setHart h H).scan = s.scan := rfl
@[simp] theorem State.setHart_autos (s : State) (h : Nat) (H : Hart) : (s.setHart h H).autos = s.autos := rfl
@[simp] theorem State.setHart_members (s : State) (h : Nat) (H : Hart) : (s.setHart h H).members = s.members := rfl
@[simp] theorem State.setHart_orphans (s : State) (h : Nat) (H : Hart) : (s.setHart h H).orphans = s.orphans := rfl
@[simp] theorem State.setHart_backlog (s : State) (h : Nat) (H : Hart) : (s.setHart h H).backlog = s.backlog := rfl
@[simp] theorem State.setHart_ordNext (s : State) (h : Nat) (H : Hart) : (s.setHart h H).ordNext = s.ordNext := rfl
@[simp] theorem State.setHart_headSince (s : State) (h : Nat) (H : Hart) : (s.setHart h H).headSince = s.headSince := rfl
@[simp] theorem State.setHart_targets (s : State) (h : Nat) (H : Hart) : (s.setHart h H).targets = s.targets := rfl
@[simp] theorem State.setHart_contexts (s : State) (h : Nat) (H : Hart) : (s.setHart h H).contexts = s.contexts := rfl
@[simp] theorem State.setHart_groups (s : State) (h : Nat) (H : Hart) : (s.setHart h H).groups = s.groups := rfl
@[simp] theorem State.setHart_notifyPages (s : State) (h : Nat) (H : Hart) : (s.setHart h H).notifyPages = s.notifyPages := rfl
@[simp] theorem State.setHart_doorbells (s : State) (h : Nat) (H : Hart) : (s.setHart h H).doorbells = s.doorbells := rfl
@[simp] theorem State.setHart_doorbellErrors (s : State) (h : Nat) (H : Hart) : (s.setHart h H).doorbellErrors = s.doorbellErrors := rfl
@[simp] theorem State.setHart_apertures (s : State) (h : Nat) (H : Hart) : (s.setHart h H).apertures = s.apertures := rfl
@[simp] theorem State.setHart_vfs (s : State) (h : Nat) (H : Hart) : (s.setHart h H).vfs = s.vfs := rfl
@[simp] theorem State.setHart_posted (s : State) (h : Nat) (H : Hart) : (s.setHart h H).posted = s.posted := rfl
@[simp] theorem State.setHart_portErrors (s : State) (h : Nat) (H : Hart) : (s.setHart h H).portErrors = s.portErrors := rfl
@[simp] theorem State.setHart_ideDropped (s : State) (h : Nat) (H : Hart) : (s.setHart h H).ideDropped = s.ideDropped := rfl
@[simp] theorem State.setHart_lastRead (s : State) (h : Nat) (H : Hart) : (s.setHart h H).lastRead = s.lastRead := rfl
@[simp] theorem State.setHart_fw (s : State) (h : Nat) (H : Hart) : (s.setHart h H).fw = s.fw := rfl

/-! ### What is found after an update -/

@[simp] theorem State.plot?_setPlot (s : State) (P : Plot) : (s.setPlot P).plot? P.id = some P := Tbl.find_put_self ..
theorem State.plot?_setPlot_other (s : State) (P : Plot) {p : Nat} (h : p ≠ P.id) : (s.setPlot P).plot? p = s.plot? p :=
  Tbl.find_put_other _ _ h
@[simp] theorem State.gang?_setGang (s : State) (G : Gang) : (s.setGang G).gang? G.plot G.idx = some G := Tbl.find_put_self ..
theorem State.gang?_setGang_other (s : State) (G : Gang) {p g : Nat} (h : gangKey p g ≠ gangKey G.plot G.idx) :
    (s.setGang G).gang? p g = s.gang? p g :=
  Tbl.find_put_other _ _ h

/-- Two gangs with indices below 16 have one key only if they are one gang. -/
theorem gangKey_inj {p g p' g' : Nat} (h : g < 16) (h' : g' < 16) (e : gangKey p g = gangKey p' g') : p = p' ∧ g = g' := by
  simp only [gangKey] at e; omega

@[simp] theorem State.plot?_setGang (s : State) (G : Gang) (p : Nat) : (s.setGang G).plot? p = s.plot? p := rfl
@[simp] theorem State.gang?_setPlot (s : State) (P : Plot) (p g : Nat) : (s.setPlot P).gang? p g = s.gang? p g := rfl
@[simp] theorem State.core_setGang (s : State) (G : Gang) (c : Nat) : (s.setGang G).core c = s.core c := rfl
@[simp] theorem State.core_setPlot (s : State) (P : Plot) (c : Nat) : (s.setPlot P).core c = s.core c := rfl
@[simp] theorem State.cluster_setGang (s : State) (G : Gang) (c : Nat) : (s.setGang G).cluster c = s.cluster c := rfl
@[simp] theorem State.cluster_setPlot (s : State) (P : Plot) (c : Nat) : (s.setPlot P).cluster c = s.cluster c := rfl
@[simp] theorem State.context_setGang (s : State) (G : Gang) (c : Nat) : (s.setGang G).context c = s.context c := rfl
@[simp] theorem State.context_setPlot (s : State) (P : Plot) (c : Nat) : (s.setPlot P).context c = s.context c := rfl
@[simp] theorem State.core_setCore (s : State) (c : Nat) (x : Core) : (s.setCore c x).core c = x := by
  simp [State.core, State.setCore, Tbl.find_put_self]
@[simp] theorem State.cluster_setCluster (s : State) (c : Nat) (x : Cluster) : (s.setCluster c x).cluster c = x := by
  simp [State.cluster, State.setCluster, Tbl.find_put_self]
@[simp] theorem State.context_setContext (s : State) (c : Nat) (x : Context) : (s.setContext c x).context c = x := by
  simp [State.context, State.setContext, Tbl.find_put_self]

/-- Putting back the gang or the plot that the state holds changes nothing. -/
theorem State.setGang_found (s : State) (G : Gang) (h : s.gang? G.plot G.idx = some G) : s.setGang G = s := by
  simp only [State.setGang]; rw [Tbl.put_found _ _ _ h]
theorem State.setPlot_found (s : State) (P : Plot) (h : s.plot? P.id = some P) : s.setPlot P = s := by
  simp only [State.setPlot]; rw [Tbl.put_found _ _ _ h]

/-! ### What follows an executed instruction -/

@[simp] theorem Res.after_next (t : State) (f : State → State) : Res.after (.next t) f = .next (f t) := rfl
theorem Res.after_after (r : Res) (f g : State → State) : Res.after (Res.after r f) g = Res.after r fun t => g (f t) := by
  cases r <;> rfl
/-- What `after` answers next comes from what was answered next. -/
theorem Res.after_next_iff {r : Res} {f : State → State} {t : State} :
    Res.after r f = .next t ↔ ∃ t', r = .next t' ∧ f t' = t := by
  cases r <;> simp [Res.after]

end Sys2Proof.Machine
end

