-- ==== Sys2Proof/Laws/Words.lean ====
section
/-! SUPPORT. Laws/Words.lean: the shapes of words, each answered once: what a scalar, a float, a queued or a scratchpad word
of a ready issuer does, and the small facts about lanes, patterns and addresses that this takes. -/

namespace Sys2Proof.Machine

theorem sat32_eq (x : Int) : sat32 x = BitVec.ofInt 32 (max (-2 ^ 31) (min (2 ^ 31 - 1) x)) := by
  unfold sat32; split
  · congr 1; omega
  · split
    · congr 1; omega
    · congr 1; omega

/-- A scalar word of two sources answers its function of them. -/
theorem SclBinary.of {c : SBin → Instr} {f g : Word64 → Word64 → Word64} (he : ∀ o s, exec (c o) s = sclBin o g s)
    (h : ∀ a b, g a b = f a b) : SclBinary c f := by
  have : g = f := by funext a b; exact h a b
  subst this
  intro s x o hr hc; rw [he]; exact sclBin_ready hr hc _

/-- A scalar word of one source answers its function of it. -/
theorem SclUnary.of {c : SReg → SReg → Instr} {f g : Word64 → Word64} (he : ∀ d a s, exec (c d a) s = sclUn d a g s)
    (h : ∀ a, g a = f a) : SclUnary c f := by
  have : g = f := by funext a; exact h a
  subst this
  intro s x d a hr hc; rw [he]; exact sclUn_ready hr hc _

/-- A word that only writes registers ends. -/
theorem issue_done {s : State} {x : Issuer} (h : Ready s x) {vs ss : List Nat} (hc : CanIssue s x vs ss)
    (len : Nat) (f : Issuer → Gang) (hf : RegStep (x.stamped s.ticks).G (f (x.stamped s.ticks))) (Q : Gang → Prop)
    (hQ : Q ((f (x.stamped s.ticks)).skip x.sl len)) :
    ∃ t G', s.issue vs ss (fun y => s.done y (f y) len) = .next t ∧ WordDone s x len t G' ∧ Q G' :=
  ⟨_, _, State.issue_ready h hc _, State.done_word h hf _, hQ⟩

theorem pickBy_lane (x : Issuer) (b : VSrc) (i : Nat) (hi : i < 96) :
    laneAt (pickBy immF32 b (x.G.operand x.G.latchB b.reg?)) i = x.srcBF b i := by
  cases b with
  | reg r => rfl
  | e10 e => exact laneAt_replicate _ i hi
  | k32 k => exact laneAt_replicate _ i hi

theorem pickByH_lane (x : Issuer) (b : VSrc) (i : Nat) (hi : i < 96) :
    laneAt (pickBy immF16x2 b (x.G.operand x.G.latchB b.reg?)) i = x.srcBH b i := by
  cases b with
  | reg r => rfl
  | e10 e => exact laneAt_replicate _ i hi
  | k32 k => exact laneAt_replicate _ i hi

theorem vbin_names {s : State} {x : Issuer} {o : VBin} (hc : CanIssue s x o.names []) :
   CanIssue s x ([some o.a, o.b.reg?, none].filterMap (·.map (·.n.toNat)) ++ [o.d.toNat]) [] :=
    hc.perm fun v hv => by cases hb : o.b.reg? <;> simp_all [VBin.names, VSrc.names]

/-- A float word of two sources answers its function, immediates converted. -/
theorem FloatBinary.of {c : VBin → Instr} {f g : Word → Word → Word} (he : ∀ o s, exec (c o) s = floatBin immF32 o g s)
    (h : ∀ a b, g a b = f a b) : FloatBinary c f := by
  have : g = f := by funext a b; exact h a b
  subst this
  intro s x o hr hc; rw [he]; unfold floatBin
  apply word_done hr (vbin_names hc) _ (fun _ _ _ _ _ => Gang.wv_step _ _ _ _)
  intro G hG
  rw [Issuer.stamped_G, Issuer.stamped_S, Gang.stamp_active]
  refine vecSet_wv _ (hc.2 _ (by simp [VBin.names])) hG (fun i hi => ?_) rfl
  simp only [lanes2, laneAt_ofFn _ i hi, ← pickBy_lane x o.b i hi]
  simp only [laneAt_of_lt _ i hi, Issuer.srcA]
  rfl

theorem PackedBinary.of {c : VBin → Instr} {f g : Word → Word → Word} (he : ∀ o s, exec (c o) s = floatBin immF16x2 o g s)
    (h : ∀ a b, g a b = f a b) : PackedBinary c f := by
  have : g = f := by funext a b; exact h a b
  subst this
  intro s x o hr hc; rw [he]; unfold floatBin
  apply word_done hr (vbin_names hc) _ (fun _ _ _ _ _ => Gang.wv_step _ _ _ _)
  intro G hG
  rw [Issuer.stamped_G, Issuer.stamped_S, Gang.stamp_active]
  refine vecSet_wv _ (hc.2 _ (by simp [VBin.names])) hG (fun i hi => ?_) rfl
  simp only [lanes2, laneAt_ofFn _ i hi, ← pickByH_lane x o.b i hi]
  simp only [laneAt_of_lt _ i hi, Issuer.srcA]
  rfl

theorem FloatTernary.of {c : VTri → Instr} {f g : Word → Word → Word → Word} (he : ∀ o s, exec (c o) s = floatTri o g s)
    (h : ∀ a b d, g a b d = f a b d) : FloatTernary c f := by
  have : g = f := by funext a b d; exact h a b d
  subst this
  intro s x o hr hc; rw [he]; unfold floatTri
  have hc' : CanIssue s x ([some o.a, o.b.reg?, some o.c].filterMap (·.map (·.n.toNat)) ++ [o.d.toNat]) [] :=
    hc.perm fun v hv => by cases hb : o.b.reg? <;> simp_all [VTri.names, VSrc.names]
  apply word_done hr hc' _ (fun _ _ _ _ _ => Gang.wv_step _ _ _ _)
  intro G hG
  rw [Issuer.stamped_G, Issuer.stamped_S, Gang.stamp_active]
  refine vecSet_wv _ (hc.2 _ (by simp [VTri.names])) hG (fun i hi => ?_) rfl
  simp only [lanes3, laneAt_ofFn _ i hi, ← pickBy_lane x o.b i hi]
  simp only [laneAt_of_lt _ i hi, Issuer.srcA, Issuer.srcC]
  rfl

theorem FloatTest.of {c : VCmp → Instr} {f : Word → Word → Bool} {g : Nat → Nat → Bool} (he : ∀ o s, exec (c o) s = floatCmp o g s)
    (h : ∀ a b : Word, g a.toNat b.toNat = f a b) : FloatTest c f := by
  intro s x o hr hc; rw [he]; unfold floatCmp
  have hc' : CanIssue s x ([some o.a, o.b.reg?, none].filterMap (·.map (·.n.toNat)) ++ []) [] :=
    hc.perm fun v hv => by cases hb : o.b.reg? <;> simp_all [VCmp.names, VSrc.names]
  apply word_done hr hc' _ (fun _ _ _ _ _ => Gang.wpIn_step _ _ _ _)
  intro G hG
  rw [Issuer.stamped_G, Issuer.stamped_S, Gang.stamp_active]
  refine predSet_wpIn _ hG (fun i hi => ?_)
  rw [maskOf_getLsbD _ i hi, pickBy_lane x o.b i hi, h]
  rfl

theorem VecTwo.of {c : V2 → Instr} {f g : Word → Word → Word} (he : ∀ o s, exec (c o) s = vec2 o g s)
    (h : ∀ a b, g a b = f a b) : VecTwo c f := by
  have : g = f := by funext a b; exact h a b
  subst this
  intro s x o hr hc; rw [he]; exact vec2_ready hr hc _

theorem isNan_bits (a : Word) : f32.isNan a.toNat = nanBits a := by
  have := a.isLt
  simp only [FFmt.isNan, FFmt.unpack, nanBits]
  split
  · split
    · simp [FVal.isNan]; simp [f32, FFmt.emax] at *; omega
    · simp [FVal.isNan]; simp [f32, FFmt.emax] at *; omega
  · split
    · simp [FVal.isNan]; simp [f32, FFmt.emax] at *; omega
    · simp [FVal.isNan]; simp [f32, FFmt.emax] at *; omega

theorem key_bits (a : Word) : f32.key a.toNat = keyBits a := by
  have := a.isLt
  simp only [FFmt.key, keyBits, FFmt.signBit, f32, Nat.reduceAdd, Nat.reducePow, beq_iff_eq]
  split <;> split <;> omega

theorem pairSet_wpair {x : Issuer} {d : VReg} {m : Mask} {f : Nat → Nat} {val : Nat → Nat} {G : Gang} (len : Nat)
    (hd : d.toNat < x.G.nv) (hd' : d.toNat + 1 < x.G.nv) (hG : G.v = x.G.v ∧ G.s = x.G.s ∧ G.p = x.G.p) (hy : ∀ i < 96, f i = val i) :
    PairSet x d m (fun k => BitVec.ofNat 32 (val k)) (fun k => BitVec.ofNat 32 (val k / 2 ^ 32)) ((G.wpair d m f).skip x.sl len) := by
  have hv : ∀ k, ((G.wpair d m f).skip x.sl len).vreg k = (G.wpair d m f).vreg k := fun k => by
    simp [Gang.vreg, Gang.skip]
  have hk : ∀ k, G.vreg k = x.G.vreg k := fun k => by simp [Gang.vreg, hG.1]
  have hnv : G.nv = x.G.nv := by simp [Gang.nv, hG.1]
  refine ⟨?_, fun i hi => ?_, fun i hi => ?_, fun k h h' => ?_, ?_, ?_⟩
  · show ((G.wpair d m f).skip x.sl len).v.length = _
    simp only [Gang.skip, Gang.setSlot_v, Gang.wpair]
    exact (Gang.wv_nv _ _ _ _).trans ((Gang.wv_nv _ _ _ _).trans hnv)
  · rw [hv, Gang.wpair, Gang.vreg_wv_other _ _ _ _ _ (by omega), Gang.vreg_wv_self _ _ _ _ (hnv ▸ hd) i hi, laneAt_lanesOf _ _ hi, hy i hi, hk]; rfl
  · rw [hv, Gang.wpair, Gang.vreg_wv_self _ _ _ _ (by rw [Gang.wv_nv, hnv]; exact hd') i hi, laneAt_lanesOf _ _ hi, hy i hi, Gang.vreg_wv_other _ _ _ _ _ (by omega), hk]; rfl
  · rw [hv, Gang.wpair, Gang.vreg_wv_other _ _ _ _ _ h', Gang.vreg_wv_other _ _ _ _ _ h, hk]
  · simp [Gang.skip, Gang.wpair, hG.2.1]
  · simp [Gang.skip, Gang.wpair, hG.2.2]

theorem getLsbD_mem {m : Mask} {i : Nat} : i ∈ maskLanes m ↔ i < 96 ∧ m.getLsbD i = true := by
  simp [maskLanes]

theorem laneAddr_eq (x : Issuer) (now : Nat) (base : Int) (idx : Idx) (sc : BitVec 2) (k : Int) (i : Nat) :
    laneAddr base idx sc k (x.stamped now).G (x.stamped now).S (x.G.operand x.G.latchB idx.reg?) i = x.memAddr base idx sc k i := by
  unfold laneAddr Issuer.memAddr
  cases idx <;> simp [Idx.value, Idx.reg?, Issuer.srcB]

/-- A word with scratchpad operands issues. -/
theorem vecS_ready {s : State} {x : Issuer} (h : Ready s x) {ra rb rc : Option HReg} {vs ss : List Nat}
    (hc : CanIssue s x ([ra, rb, rc].filterMap (·.map (·.n.toNat)) ++ vs) ss)
    (f : Issuer → Lanes → Lanes → Lanes → Gang → State) :
    s.vecS ra rb rc vs ss f = .next (f (x.stamped s.ticks) (x.G.operand x.G.latchA ra) (x.G.operand x.G.latchB rb) (x.G.operand x.G.latchC rc)
          { (x.stamped s.ticks).G with
            latchA := latchNext x.G.latchA ra (x.G.operand x.G.latchA ra)
            latchB := latchNext x.G.latchB rb (x.G.operand x.G.latchB rb)
            latchC := latchNext x.G.latchC rc (x.G.operand x.G.latchC rc) }) := by
  rw [State.vecS, State.issue_ready h hc]
  simp

theorem memLanes_eq (x : Issuer) (now : Nat) (m : MemRef) (act : Mask) :
   memLanes m ((x.stamped now).G.rs (x.stamped now).S m.a).toInt (x.stamped now).G (x.stamped now).S (x.G.operand x.G.latchB m.idx.reg?) act
    = (maskLanes act).map fun i => (i, x.scrAddr m i) := by
  unfold memLanes Issuer.scrAddr
  congr 1; funext i
  rw [laneAddr_eq]; simp

theorem Width.bytes_pos (w : Width) : 0 < w.bytes := by cases w <;> decide

theorem ends_of {s : State} {x : Issuer} (h : Ready s x) (G : Gang) (own other : Option PcSlot)
  (hs : G.slot x.sl = own) (ho : G.slot (otherSlot x.sl) = other)
  (ha : G.aside = x.G.aside) (hq : G.seq = x.G.seq + 1) (hl : G.lastIssue = some s.ticks) (hv : G.v = x.G.v) (hss : G.s = x.G.s) (hp : G.p = x.G.p) :
  SlotsEnd s x (slotView own) (slotView other) G := ⟨⟨ha, hq, hl⟩, hv, hss, hp, by rw [hs], by rw [ho]⟩

theorem other_view {s : State} {x : Issuer} : slotView ((x.stamped s.ticks).G.slot (otherSlot x.sl)) = x.other :=
  Gang.stamp_view x.G x.sl (otherSlot x.sl) s.ticks

end Sys2Proof.Machine
end

