-- ==== Sys2Proof/Tests/Slice0.lean ====
section
/-! SUPPORT. Tests/Slice0.lean: words of the spec's encodings and what they decode to, ill-formed operands and words, and
small steps with results worked by hand from the rules. -/

namespace Sys2Proof.Tests

open Sys2Proof.Machine

set_option maxRecDepth 100000

/-! ### Words

Each word is written out from the layout of R38 and R41 and the encoding table of its range, or is one that the spec
works (`test_words_worked`). A row checks that the word decodes to the instruction, that the instruction is well formed,
and that it encodes to the word. -/

noncomputable def wordsOk (l : List (BitVec 128 × Instr)) : Bool :=
  l.all fun x => (decodeGang x.1).toOption == some x.2 && x.2.wf && (encodeGang x.2).map (·.2) == some x.1

noncomputable def seqWordsOk (l : List (BitVec 64 × Instr)) : Bool :=
  l.all fun x => (decodeSeq x.1).toOption == some x.2 && x.2.wf && encodeSeq x.2 == some x.1

theorem test_words_worked_1 : wordsOk
    [(0x380000670, .automap 14 0),
     (0x1C6840678, .autoqAcc 26 7),
     (0x1C5480678, .autoqOvf 21 7),
     (0x380000674, .autounmap 14 0),
     (0x8000000000004C, .bar 2),
     (0xFFFFF30300000018, .brsNz 12 0x3FFFFCC),
     (0x118300000014, .brsZ 12 0x46),
     (0x140050405400680, .chime 21 16 (.reg 20) 5),
     (0x2C340068C, .chpermDes 13 11),
     (0x38403C4068C, .chpermSet 15 16 14 0),
     (0x140000383C8068C, .chpermVec 15 14 5),
     (0x1C00000031C0690, .chinfoVecTake 12 7),
     (0x80000180800780, .dialld 2 6 2),
     (0x414101C08794, .dsdiv ⟨⟨0, false⟩, 7, ⟨4, true⟩, ⟨5, false⟩⟩ 1),
     (0x804001820407B4, .dsexpBlock ⟨0, false⟩ 8 6 1 2),
     (0x2C2808007C8, .dstestMeet ⟨0, false⟩ 2 ⟨10, false⟩ ⟨11, false⟩),
     (0xC0000180000660, .evpost 6 3),
     (0x40000280000034, .exitD ⟨0, false⟩ 10 1),
     (0x180804180840C, .fmaF32 ⟨⟨0, false⟩, 6, ⟨1, true⟩, .reg ⟨2, false⟩, ⟨6, false⟩⟩ .rn),
     (0xC01860283000640, .ldGm ⟨0, false⟩ 12 ⟨10, .vec ⟨24, false⟩, 2, .k14 768⟩ .w4),
     (0x10181C102400580, .ldL1 ⟨0, false⟩ 9 ⟨4, .vec ⟨7, false⟩, 2, .k14 0x40⟩ .w4),
     (0x60000002840598, .lduL1 10 ⟨0, .none, 0, .k14 0x18⟩ .x64),
     (0x1981C1014005A5, .atAdd ⟨⟨0, false⟩, 5, 4, .vec ⟨7, false⟩, 2, ⟨6, false⟩, 0, .l1, .rlx⟩),
     (0x8000003000003AC, .movrs 12 0x20),
     (0x2000000034003A8, .movsr 13 8)] = true := by decide

theorem test_words_worked_2 : wordsOk
    [(0x3804003A0, .pmovPs 1 14 0),
     (0x850003A4, .ppopc 20 2),
     (0xE4505000300, .sadd ⟨20, 20, .reg 57⟩),
     (0xC00000505600338, .sshr ⟨21, 20, .e10 48⟩),
     (0x300000340037C, .smovi 13 (.i26 3072)),
     (0x7D000000003C, .sleep 500),
     (0x1C000000080, .trap 7),
     (0x40000280840E48, .stGm ⟨1, false⟩ ⟨2, false⟩ ⟨10, .none, 0, .k14 0x10⟩ .x64),
     (0x40000200C00650, .stGmRel ⟨0, false⟩ ⟨3, false⟩ ⟨8, .none, 0, .k14 0x10⟩ .w4),
     (0x10240065C, .fenceR 9 (.plot 4)),
     (0x800001830006C0, .tmov 12 6 2),
     (0x800000000406FC, .waitoc 1 2),
     (0x10240C00744, .twr ⟨0, false⟩ 3 ⟨9, false⟩ 4),
     (0xC000000000075C, .sqwait 3),
     (0x800000024006A0, .perfclass 9 2),
     (0x6000000000001E0, .vclaim 24),
     (0xFF40000242600100, .vadd ⟨⟨0, false⟩, 9, ⟨9, false⟩, .e10 0x3FD⟩),
     (0x40000205C00040, .waitcEq ⟨23, 8, 0, .e10 1⟩),
     (0x140000001008, .brc ⟨2, false⟩ 80),
     (0x4030A00010030100830011FFE, .pair ⟨0x23, ⟨0, false⟩, false, false, false, 0, 6, 1, 2, 6⟩ ⟨0x01, ⟨0, false⟩, false, false, false, 0, 10, 3, 4, 0⟩)] = true := by decide

theorem test_words_control_1 : wordsOk
    [(0x6800, .nop .w64 ⟨5, true⟩),
     (0x6801, .nop .w96 ⟨5, true⟩),
     (0x6802, .nop .w128 ⟨5, true⟩),
     (0x8000004000000004, .bra 0x2000001),
     (0x140000006808, .brc ⟨5, true⟩ 80),
     (0x14000000680C, .brcAny ⟨5, true⟩ 80),
     (0x140000006810, .brcAll ⟨5, true⟩ 80),
     (0x1401C0000014, .brsZ 7 80),
     (0x1401C0000018, .brsNz 7 80),
     (0xB4000001C, .brx 45),
     (0x140007800020, .call 30 80),
     (0xB4B000024, .callx 44 45),
     (0xB40000028, .ret 45),
     (0x2C, .join),
     (0x6830, .exit ⟨5, true⟩),
     (0x80000240006834, .exitD ⟨5, true⟩ 9 2),
     (0x300006838, .exitH ⟨5, true⟩ 12),
     (0x800000400000003C, .sleep 0x2000001),
     (0x40010240C00040, .waitcEq ⟨3, 9, 4, .e10 1⟩),
     (0xFFFFFFF80000010240C00041, .waitcEq ⟨3, 9, 4, .k32 0xFFFFFFF8⟩),
     (0x40010240C00044, .waitcNe ⟨3, 9, 4, .e10 1⟩),
     (0xFFFFFFF80000010240C00045, .waitcNe ⟨3, 9, 4, .k32 0xFFFFFFF8⟩),
     (0x40010240C00048, .waitcGe ⟨3, 9, 4, .e10 1⟩),
     (0xFFFFFFF80000010240C00049, .waitcGe ⟨3, 9, 4, .k32 0xFFFFFFF8⟩),
     (0xF4000000000004C, .bar 61)] = true := by decide

theorem test_words_control_2 : wordsOk
    [(0xF40000000000050, .barPh 61),
     (0xF40000000000054, .bararr 61),
     (0xF40000000000058, .barwait 61),
     (0xF4000020240005C, .barredAdd 9 8 61),
     (0xF40000202400060, .barredMin 9 8 61),
     (0xF40000202400064, .barredMax 9 8 61),
     (0xF40000202400068, .barredAnd 9 8 61),
     (0xF4000020240006C, .barredOr 9 8 61),
     (0xF40000202400070, .barredFadd 9 8 61),
     (0xF40000202400074, .barscanAdd 9 8 61),
     (0xF40000202400078, .barscanFadd 9 8 61),
     (0x7C, .yield),
     (0x8000004000000080, .trap 0x2000001),
     (0x84, .tret)] = true := by decide

theorem test_words_vector_1 : wordsOk
    [(0x8606F81E900, .vadd ⟨⟨5, true⟩, 190, ⟨129, true⟩, .reg ⟨33, true⟩⟩),
     (0xFF4000206FA0E900, .vadd ⟨⟨5, true⟩, 190, ⟨129, true⟩, .e10 0x3FD⟩),
     (0x89ABCDEF000000206FA0E901, .vadd ⟨⟨5, true⟩, 190, ⟨129, true⟩, .k32 0x89ABCDEF⟩),
     (0x8606F81E904, .vsub ⟨⟨5, true⟩, 190, ⟨129, true⟩, .reg ⟨33, true⟩⟩),
     (0xFF4000206FA0E904, .vsub ⟨⟨5, true⟩, 190, ⟨129, true⟩, .e10 0x3FD⟩),
     (0x89ABCDEF000000206FA0E905, .vsub ⟨⟨5, true⟩, 190, ⟨129, true⟩, .k32 0x89ABCDEF⟩),
     (0x8606F81E908, .vaddc ⟨⟨5, true⟩, 190, ⟨129, true⟩, .reg ⟨33, true⟩⟩),
     (0xFF4000206FA0E908, .vaddc ⟨⟨5, true⟩, 190, ⟨129, true⟩, .e10 0x3FD⟩),
     (0x89ABCDEF000000206FA0E909, .vaddc ⟨⟨5, true⟩, 190, ⟨129, true⟩, .k32 0x89ABCDEF⟩),
     (0x8606F81E90C, .vaddsI32 ⟨⟨5, true⟩, 190, ⟨129, true⟩, .reg ⟨33, true⟩⟩),
     (0xFF4000206FA0E90C, .vaddsI32 ⟨⟨5, true⟩, 190, ⟨129, true⟩, .e10 0x3FD⟩),
     (0x89ABCDEF000000206FA0E90D, .vaddsI32 ⟨⟨5, true⟩, 190, ⟨129, true⟩, .k32 0x89ABCDEF⟩),
     (0x8606F81E910, .vsubsI32 ⟨⟨5, true⟩, 190, ⟨129, true⟩, .reg ⟨33, true⟩⟩),
     (0xFF4000206FA0E910, .vsubsI32 ⟨⟨5, true⟩, 190, ⟨129, true⟩, .e10 0x3FD⟩),
     (0x89ABCDEF000000206FA0E911, .vsubsI32 ⟨⟨5, true⟩, 190, ⟨129, true⟩, .k32 0x89ABCDEF⟩),
     (0x8606F81E914, .vmul ⟨⟨5, true⟩, 190, ⟨129, true⟩, .reg ⟨33, true⟩⟩),
     (0xFF4000206FA0E914, .vmul ⟨⟨5, true⟩, 190, ⟨129, true⟩, .e10 0x3FD⟩),
     (0x89ABCDEF000000206FA0E915, .vmul ⟨⟨5, true⟩, 190, ⟨129, true⟩, .k32 0x89ABCDEF⟩),
     (0x8606F81E918, .vmulhI32 ⟨⟨5, true⟩, 190, ⟨129, true⟩, .reg ⟨33, true⟩⟩),
     (0xFF4000206FA0E918, .vmulhI32 ⟨⟨5, true⟩, 190, ⟨129, true⟩, .e10 0x3FD⟩),
     (0x89ABCDEF000000206FA0E919, .vmulhI32 ⟨⟨5, true⟩, 190, ⟨129, true⟩, .k32 0x89ABCDEF⟩),
     (0x8606F81E91C, .vmulhN32 ⟨⟨5, true⟩, 190, ⟨129, true⟩, .reg ⟨33, true⟩⟩),
     (0xFF4000206FA0E91C, .vmulhN32 ⟨⟨5, true⟩, 190, ⟨129, true⟩, .e10 0x3FD⟩),
     (0x89ABCDEF000000206FA0E91D, .vmulhN32 ⟨⟨5, true⟩, 190, ⟨129, true⟩, .k32 0x89ABCDEF⟩),
     (0x8606F81E920, .vmulwI32 ⟨⟨5, true⟩, 190, ⟨129, true⟩, .reg ⟨33, true⟩⟩)] = true := by decide

theorem test_words_vector_2 : wordsOk
    [(0xFF4000206FA0E920, .vmulwI32 ⟨⟨5, true⟩, 190, ⟨129, true⟩, .e10 0x3FD⟩),
     (0x89ABCDEF000000206FA0E921, .vmulwI32 ⟨⟨5, true⟩, 190, ⟨129, true⟩, .k32 0x89ABCDEF⟩),
     (0x10C8606F83E924, .vmad ⟨⟨5, true⟩, 190, ⟨129, true⟩, .reg ⟨33, true⟩, ⟨67, true⟩⟩),
     (0xFF50C0206FA2E924, .vmad ⟨⟨5, true⟩, 190, ⟨129, true⟩, .e10 0x3FD, ⟨67, true⟩⟩),
     (0x89ABCDEF0010C0206FA2E925, .vmad ⟨⟨5, true⟩, 190, ⟨129, true⟩, .k32 0x89ABCDEF, ⟨67, true⟩⟩),
     (0x8606F81E928, .vminI32 ⟨⟨5, true⟩, 190, ⟨129, true⟩, .reg ⟨33, true⟩⟩),
     (0xFF4000206FA0E928, .vminI32 ⟨⟨5, true⟩, 190, ⟨129, true⟩, .e10 0x3FD⟩),
     (0x89ABCDEF000000206FA0E929, .vminI32 ⟨⟨5, true⟩, 190, ⟨129, true⟩, .k32 0x89ABCDEF⟩),
     (0x8606F81E92C, .vminN32 ⟨⟨5, true⟩, 190, ⟨129, true⟩, .reg ⟨33, true⟩⟩),
     (0xFF4000206FA0E92C, .vminN32 ⟨⟨5, true⟩, 190, ⟨129, true⟩, .e10 0x3FD⟩),
     (0x89ABCDEF000000206FA0E92D, .vminN32 ⟨⟨5, true⟩, 190, ⟨129, true⟩, .k32 0x89ABCDEF⟩),
     (0x8606F81E930, .vmaxI32 ⟨⟨5, true⟩, 190, ⟨129, true⟩, .reg ⟨33, true⟩⟩),
     (0xFF4000206FA0E930, .vmaxI32 ⟨⟨5, true⟩, 190, ⟨129, true⟩, .e10 0x3FD⟩),
     (0x89ABCDEF000000206FA0E931, .vmaxI32 ⟨⟨5, true⟩, 190, ⟨129, true⟩, .k32 0x89ABCDEF⟩),
     (0x8606F81E934, .vmaxN32 ⟨⟨5, true⟩, 190, ⟨129, true⟩, .reg ⟨33, true⟩⟩),
     (0xFF4000206FA0E934, .vmaxN32 ⟨⟨5, true⟩, 190, ⟨129, true⟩, .e10 0x3FD⟩),
     (0x89ABCDEF000000206FA0E935, .vmaxN32 ⟨⟨5, true⟩, 190, ⟨129, true⟩, .k32 0x89ABCDEF⟩),
     (0x206F80E938, .vabs ⟨⟨5, true⟩, 190, ⟨129, true⟩⟩),
     (0x206F80E93C, .vneg ⟨⟨5, true⟩, 190, ⟨129, true⟩⟩),
     (0x8606F81E940, .vand ⟨⟨5, true⟩, 190, ⟨129, true⟩, .reg ⟨33, true⟩⟩),
     (0xFF4000206FA0E940, .vand ⟨⟨5, true⟩, 190, ⟨129, true⟩, .e10 0x3FD⟩),
     (0x89ABCDEF000000206FA0E941, .vand ⟨⟨5, true⟩, 190, ⟨129, true⟩, .k32 0x89ABCDEF⟩),
     (0x8606F81E944, .vor ⟨⟨5, true⟩, 190, ⟨129, true⟩, .reg ⟨33, true⟩⟩),
     (0xFF4000206FA0E944, .vor ⟨⟨5, true⟩, 190, ⟨129, true⟩, .e10 0x3FD⟩),
     (0x89ABCDEF000000206FA0E945, .vor ⟨⟨5, true⟩, 190, ⟨129, true⟩, .k32 0x89ABCDEF⟩)] = true := by decide

theorem test_words_vector_3 : wordsOk
    [(0x8606F81E948, .vxor ⟨⟨5, true⟩, 190, ⟨129, true⟩, .reg ⟨33, true⟩⟩),
     (0xFF4000206FA0E948, .vxor ⟨⟨5, true⟩, 190, ⟨129, true⟩, .e10 0x3FD⟩),
     (0x89ABCDEF000000206FA0E949, .vxor ⟨⟨5, true⟩, 190, ⟨129, true⟩, .k32 0x89ABCDEF⟩),
     (0x206F80E94C, .vnot ⟨⟨5, true⟩, 190, ⟨129, true⟩⟩),
     (0x8606F81E950, .vshl ⟨⟨5, true⟩, 190, ⟨129, true⟩, .reg ⟨33, true⟩⟩),
     (0xFF4000206FA0E950, .vshl ⟨⟨5, true⟩, 190, ⟨129, true⟩, .e10 0x3FD⟩),
     (0x89ABCDEF000000206FA0E951, .vshl ⟨⟨5, true⟩, 190, ⟨129, true⟩, .k32 0x89ABCDEF⟩),
     (0x8606F81E954, .vshr ⟨⟨5, true⟩, 190, ⟨129, true⟩, .reg ⟨33, true⟩⟩),
     (0xFF4000206FA0E954, .vshr ⟨⟨5, true⟩, 190, ⟨129, true⟩, .e10 0x3FD⟩),
     (0x89ABCDEF000000206FA0E955, .vshr ⟨⟨5, true⟩, 190, ⟨129, true⟩, .k32 0x89ABCDEF⟩),
     (0x8606F81E958, .vsra ⟨⟨5, true⟩, 190, ⟨129, true⟩, .reg ⟨33, true⟩⟩),
     (0xFF4000206FA0E958, .vsra ⟨⟨5, true⟩, 190, ⟨129, true⟩, .e10 0x3FD⟩),
     (0x89ABCDEF000000206FA0E959, .vsra ⟨⟨5, true⟩, 190, ⟨129, true⟩, .k32 0x89ABCDEF⟩),
     (0x8606F81E95C, .vrot ⟨⟨5, true⟩, 190, ⟨129, true⟩, .reg ⟨33, true⟩⟩),
     (0xFF4000206FA0E95C, .vrot ⟨⟨5, true⟩, 190, ⟨129, true⟩, .e10 0x3FD⟩),
     (0x89ABCDEF000000206FA0E95D, .vrot ⟨⟨5, true⟩, 190, ⟨129, true⟩, .k32 0x89ABCDEF⟩),
     (0x206F80E960, .vpopc ⟨⟨5, true⟩, 190, ⟨129, true⟩⟩),
     (0x206F80E964, .vclz ⟨⟨5, true⟩, 190, ⟨129, true⟩⟩),
     (0x206F80E968, .vbrev ⟨⟨5, true⟩, 190, ⟨129, true⟩⟩),
     (0x8606F81E96C, .vaddI16x2 ⟨⟨5, true⟩, 190, ⟨129, true⟩, .reg ⟨33, true⟩⟩),
     (0xFF4000206FA0E96C, .vaddI16x2 ⟨⟨5, true⟩, 190, ⟨129, true⟩, .e10 0x3FD⟩),
     (0x89ABCDEF000000206FA0E96D, .vaddI16x2 ⟨⟨5, true⟩, 190, ⟨129, true⟩, .k32 0x89ABCDEF⟩),
     (0x8606F81E970, .vsubI16x2 ⟨⟨5, true⟩, 190, ⟨129, true⟩, .reg ⟨33, true⟩⟩),
     (0xFF4000206FA0E970, .vsubI16x2 ⟨⟨5, true⟩, 190, ⟨129, true⟩, .e10 0x3FD⟩),
     (0x89ABCDEF000000206FA0E971, .vsubI16x2 ⟨⟨5, true⟩, 190, ⟨129, true⟩, .k32 0x89ABCDEF⟩)] = true := by decide

theorem test_words_vector_4 : wordsOk
    [(0x8606F81E974, .vmulI16x2 ⟨⟨5, true⟩, 190, ⟨129, true⟩, .reg ⟨33, true⟩⟩),
     (0xFF4000206FA0E974, .vmulI16x2 ⟨⟨5, true⟩, 190, ⟨129, true⟩, .e10 0x3FD⟩),
     (0x89ABCDEF000000206FA0E975, .vmulI16x2 ⟨⟨5, true⟩, 190, ⟨129, true⟩, .k32 0x89ABCDEF⟩),
     (0x10C8606F82E978, .vdot4I8 ⟨⟨5, true⟩, 190, ⟨129, true⟩, ⟨33, false⟩, ⟨67, true⟩⟩),
     (0x10C8606F82E97C, .vdot4N8 ⟨⟨5, true⟩, 190, ⟨129, true⟩, ⟨33, false⟩, ⟨67, true⟩⟩),
     (0x8604181E980, .vcmpEq ⟨⟨5, true⟩, 6, ⟨129, true⟩, .reg ⟨33, true⟩⟩),
     (0xFF40002041A0E980, .vcmpEq ⟨⟨5, true⟩, 6, ⟨129, true⟩, .e10 0x3FD⟩),
     (0x89ABCDEF0000002041A0E981, .vcmpEq ⟨⟨5, true⟩, 6, ⟨129, true⟩, .k32 0x89ABCDEF⟩),
     (0x8604181E984, .vcmpNe ⟨⟨5, true⟩, 6, ⟨129, true⟩, .reg ⟨33, true⟩⟩),
     (0xFF40002041A0E984, .vcmpNe ⟨⟨5, true⟩, 6, ⟨129, true⟩, .e10 0x3FD⟩),
     (0x89ABCDEF0000002041A0E985, .vcmpNe ⟨⟨5, true⟩, 6, ⟨129, true⟩, .k32 0x89ABCDEF⟩),
     (0x8604181E988, .vcmpLtI32 ⟨⟨5, true⟩, 6, ⟨129, true⟩, .reg ⟨33, true⟩⟩),
     (0xFF40002041A0E988, .vcmpLtI32 ⟨⟨5, true⟩, 6, ⟨129, true⟩, .e10 0x3FD⟩),
     (0x89ABCDEF0000002041A0E989, .vcmpLtI32 ⟨⟨5, true⟩, 6, ⟨129, true⟩, .k32 0x89ABCDEF⟩),
     (0x8604181E98C, .vcmpLeI32 ⟨⟨5, true⟩, 6, ⟨129, true⟩, .reg ⟨33, true⟩⟩),
     (0xFF40002041A0E98C, .vcmpLeI32 ⟨⟨5, true⟩, 6, ⟨129, true⟩, .e10 0x3FD⟩),
     (0x89ABCDEF0000002041A0E98D, .vcmpLeI32 ⟨⟨5, true⟩, 6, ⟨129, true⟩, .k32 0x89ABCDEF⟩),
     (0x8604181E990, .vcmpLtN32 ⟨⟨5, true⟩, 6, ⟨129, true⟩, .reg ⟨33, true⟩⟩),
     (0xFF40002041A0E990, .vcmpLtN32 ⟨⟨5, true⟩, 6, ⟨129, true⟩, .e10 0x3FD⟩),
     (0x89ABCDEF0000002041A0E991, .vcmpLtN32 ⟨⟨5, true⟩, 6, ⟨129, true⟩, .k32 0x89ABCDEF⟩),
     (0x8604181E994, .vcmpLeN32 ⟨⟨5, true⟩, 6, ⟨129, true⟩, .reg ⟨33, true⟩⟩),
     (0xFF40002041A0E994, .vcmpLeN32 ⟨⟨5, true⟩, 6, ⟨129, true⟩, .e10 0x3FD⟩),
     (0x89ABCDEF0000002041A0E995, .vcmpLeN32 ⟨⟨5, true⟩, 6, ⟨129, true⟩, .k32 0x89ABCDEF⟩),
     (0x188606F816998, .vsel ⟨⟨5, true⟩, 190, ⟨129, false⟩, ⟨33, true⟩, 6⟩),
     (0x206F80E99C, .vmov ⟨⟨5, true⟩, 190, ⟨129, true⟩⟩)] = true := by decide

theorem test_words_vector_5 : wordsOk
    [(0x800000402F8069A0, .vmovi ⟨5, true⟩ 190 (.i26 0x2000001)),
     (0x89ABCDEF000000002F8069A1, .vmovi ⟨5, true⟩ 190 (.k32 0x89ABCDEF)),
     (0xB6F8069A4, .vbcast ⟨5, true⟩ 190 45),
     (0x2F8069A8, .vlane ⟨5, true⟩ 190),
     (0x8606F81E9AC, .vshflIdx ⟨⟨5, true⟩, 190, ⟨129, true⟩, .reg ⟨33, true⟩⟩),
     (0xFF4000206FA0E9AC, .vshflIdx ⟨⟨5, true⟩, 190, ⟨129, true⟩, .e10 0x3FD⟩),
     (0x89ABCDEF000000206FA0E9AD, .vshflIdx ⟨⟨5, true⟩, 190, ⟨129, true⟩, .k32 0x89ABCDEF⟩),
     (0x8606F81E9B0, .vshflXor ⟨⟨5, true⟩, 190, ⟨129, true⟩, .reg ⟨33, true⟩⟩),
     (0xFF4000206FA0E9B0, .vshflXor ⟨⟨5, true⟩, 190, ⟨129, true⟩, .e10 0x3FD⟩),
     (0x89ABCDEF000000206FA0E9B1, .vshflXor ⟨⟨5, true⟩, 190, ⟨129, true⟩, .k32 0x89ABCDEF⟩),
     (0x8606F81E9B4, .vshflUp ⟨⟨5, true⟩, 190, ⟨129, true⟩, .reg ⟨33, true⟩⟩),
     (0xFF4000206FA0E9B4, .vshflUp ⟨⟨5, true⟩, 190, ⟨129, true⟩, .e10 0x3FD⟩),
     (0x89ABCDEF000000206FA0E9B5, .vshflUp ⟨⟨5, true⟩, 190, ⟨129, true⟩, .k32 0x89ABCDEF⟩),
     (0x8606F81E9B8, .vshflDn ⟨⟨5, true⟩, 190, ⟨129, true⟩, .reg ⟨33, true⟩⟩),
     (0xFF4000206FA0E9B8, .vshflDn ⟨⟨5, true⟩, 190, ⟨129, true⟩, .e10 0x3FD⟩),
     (0x89ABCDEF000000206FA0E9B9, .vshflDn ⟨⟨5, true⟩, 190, ⟨129, true⟩, .k32 0x89ABCDEF⟩),
     (0x8606F81E9BC, .vshflRot ⟨⟨5, true⟩, 190, ⟨129, true⟩, .reg ⟨33, true⟩⟩),
     (0xFF4000206FA0E9BC, .vshflRot ⟨⟨5, true⟩, 190, ⟨129, true⟩, .e10 0x3FD⟩),
     (0x89ABCDEF000000206FA0E9BD, .vshflRot ⟨⟨5, true⟩, 190, ⟨129, true⟩, .k32 0x89ABCDEF⟩),
     (0x204B00E9C0, .vredAdd ⟨5, true⟩ 44 ⟨129, true⟩),
     (0x204B00E9C4, .vredMinI32 ⟨5, true⟩ 44 ⟨129, true⟩),
     (0x204B00E9C8, .vredMaxI32 ⟨5, true⟩ 44 ⟨129, true⟩),
     (0x204B00E9CC, .vredAnd ⟨5, true⟩ 44 ⟨129, true⟩),
     (0x204B00E9D0, .vredOr ⟨5, true⟩ 44 ⟨129, true⟩),
     (0xB604B0081D4, .vext 44 ⟨129, true⟩ 45)] = true := by decide

theorem test_words_vector_6 : wordsOk
    [(0xB4B2F8001D8, .vins 190 44 45),
     (0x2E000000000001DC, .vrel 184),
     (0x2E000000000001E0, .vclaim 184),
     (0x80000000B0001E4, .vclaimNb 44 32),
     (0xB0001E8, .vquery 44)] = true := by decide

theorem test_words_scalar_1 : wordsOk
    [(0xB8B4B000300, .sadd ⟨44, 45, .reg 46⟩),
     (0xFF40000B4B200300, .sadd ⟨44, 45, .e10 0x3FD⟩),
     (0x89ABCDEF0000000B4B200301, .sadd ⟨44, 45, .k32 0x89ABCDEF⟩),
     (0xB8B4B000304, .ssub ⟨44, 45, .reg 46⟩),
     (0xFF40000B4B200304, .ssub ⟨44, 45, .e10 0x3FD⟩),
     (0x89ABCDEF0000000B4B200305, .ssub ⟨44, 45, .k32 0x89ABCDEF⟩),
     (0xB8B4B000308, .smul ⟨44, 45, .reg 46⟩),
     (0xFF40000B4B200308, .smul ⟨44, 45, .e10 0x3FD⟩),
     (0x89ABCDEF0000000B4B200309, .smul ⟨44, 45, .k32 0x89ABCDEF⟩),
     (0xB8B4B00030C, .smulhI64 ⟨44, 45, .reg 46⟩),
     (0xFF40000B4B20030C, .smulhI64 ⟨44, 45, .e10 0x3FD⟩),
     (0x89ABCDEF0000000B4B20030D, .smulhI64 ⟨44, 45, .k32 0x89ABCDEF⟩),
     (0xB8B4B000310, .smulhN64 ⟨44, 45, .reg 46⟩),
     (0xFF40000B4B200310, .smulhN64 ⟨44, 45, .e10 0x3FD⟩),
     (0x89ABCDEF0000000B4B200311, .smulhN64 ⟨44, 45, .k32 0x89ABCDEF⟩),
     (0xB8B4B000314, .sdivI64 ⟨44, 45, .reg 46⟩),
     (0xFF40000B4B200314, .sdivI64 ⟨44, 45, .e10 0x3FD⟩),
     (0x89ABCDEF0000000B4B200315, .sdivI64 ⟨44, 45, .k32 0x89ABCDEF⟩),
     (0xB8B4B000318, .sdivN64 ⟨44, 45, .reg 46⟩),
     (0xFF40000B4B200318, .sdivN64 ⟨44, 45, .e10 0x3FD⟩),
     (0x89ABCDEF0000000B4B200319, .sdivN64 ⟨44, 45, .k32 0x89ABCDEF⟩),
     (0xB8B4B00031C, .sremI64 ⟨44, 45, .reg 46⟩),
     (0xFF40000B4B20031C, .sremI64 ⟨44, 45, .e10 0x3FD⟩),
     (0x89ABCDEF0000000B4B20031D, .sremI64 ⟨44, 45, .k32 0x89ABCDEF⟩),
     (0xB8B4B000320, .sremN64 ⟨44, 45, .reg 46⟩)] = true := by decide

theorem test_words_scalar_2 : wordsOk
    [(0xFF40000B4B200320, .sremN64 ⟨44, 45, .e10 0x3FD⟩),
     (0x89ABCDEF0000000B4B200321, .sremN64 ⟨44, 45, .k32 0x89ABCDEF⟩),
     (0xB8B4B000324, .sand ⟨44, 45, .reg 46⟩),
     (0xFF40000B4B200324, .sand ⟨44, 45, .e10 0x3FD⟩),
     (0x89ABCDEF0000000B4B200325, .sand ⟨44, 45, .k32 0x89ABCDEF⟩),
     (0xB8B4B000328, .sor ⟨44, 45, .reg 46⟩),
     (0xFF40000B4B200328, .sor ⟨44, 45, .e10 0x3FD⟩),
     (0x89ABCDEF0000000B4B200329, .sor ⟨44, 45, .k32 0x89ABCDEF⟩),
     (0xB8B4B00032C, .sxor ⟨44, 45, .reg 46⟩),
     (0xFF40000B4B20032C, .sxor ⟨44, 45, .e10 0x3FD⟩),
     (0x89ABCDEF0000000B4B20032D, .sxor ⟨44, 45, .k32 0x89ABCDEF⟩),
     (0xB4B000330, .snot 44 45),
     (0xB8B4B000334, .sshl ⟨44, 45, .reg 46⟩),
     (0xFF40000B4B200334, .sshl ⟨44, 45, .e10 0x3FD⟩),
     (0x89ABCDEF0000000B4B200335, .sshl ⟨44, 45, .k32 0x89ABCDEF⟩),
     (0xB8B4B000338, .sshr ⟨44, 45, .reg 46⟩),
     (0xFF40000B4B200338, .sshr ⟨44, 45, .e10 0x3FD⟩),
     (0x89ABCDEF0000000B4B200339, .sshr ⟨44, 45, .k32 0x89ABCDEF⟩),
     (0xB8B4B00033C, .ssra ⟨44, 45, .reg 46⟩),
     (0xFF40000B4B20033C, .ssra ⟨44, 45, .e10 0x3FD⟩),
     (0x89ABCDEF0000000B4B20033D, .ssra ⟨44, 45, .k32 0x89ABCDEF⟩),
     (0xB8B4B000340, .srot ⟨44, 45, .reg 46⟩),
     (0xFF40000B4B200340, .srot ⟨44, 45, .e10 0x3FD⟩),
     (0x89ABCDEF0000000B4B200341, .srot ⟨44, 45, .k32 0x89ABCDEF⟩),
     (0xBCB8B4B000344, .sbfe 44 45 46 47)] = true := by decide

theorem test_words_scalar_3 : wordsOk
    [(0xBCB8B4B000348, .sbfi 44 45 46 47),
     (0xB8B4B00034C, .sminI64 ⟨44, 45, .reg 46⟩),
     (0xFF40000B4B20034C, .sminI64 ⟨44, 45, .e10 0x3FD⟩),
     (0x89ABCDEF0000000B4B20034D, .sminI64 ⟨44, 45, .k32 0x89ABCDEF⟩),
     (0xB8B4B000350, .sminN64 ⟨44, 45, .reg 46⟩),
     (0xFF40000B4B200350, .sminN64 ⟨44, 45, .e10 0x3FD⟩),
     (0x89ABCDEF0000000B4B200351, .sminN64 ⟨44, 45, .k32 0x89ABCDEF⟩),
     (0xB8B4B000354, .smaxI64 ⟨44, 45, .reg 46⟩),
     (0xFF40000B4B200354, .smaxI64 ⟨44, 45, .e10 0x3FD⟩),
     (0x89ABCDEF0000000B4B200355, .smaxI64 ⟨44, 45, .k32 0x89ABCDEF⟩),
     (0xB8B4B000358, .smaxN64 ⟨44, 45, .reg 46⟩),
     (0xFF40000B4B200358, .smaxN64 ⟨44, 45, .e10 0x3FD⟩),
     (0x89ABCDEF0000000B4B200359, .smaxN64 ⟨44, 45, .k32 0x89ABCDEF⟩),
     (0xB8B4B00035C, .scmpEq ⟨44, 45, .reg 46⟩),
     (0xFF40000B4B20035C, .scmpEq ⟨44, 45, .e10 0x3FD⟩),
     (0x89ABCDEF0000000B4B20035D, .scmpEq ⟨44, 45, .k32 0x89ABCDEF⟩),
     (0xB8B4B000360, .scmpNe ⟨44, 45, .reg 46⟩),
     (0xFF40000B4B200360, .scmpNe ⟨44, 45, .e10 0x3FD⟩),
     (0x89ABCDEF0000000B4B200361, .scmpNe ⟨44, 45, .k32 0x89ABCDEF⟩),
     (0xB8B4B000364, .scmpLtI64 ⟨44, 45, .reg 46⟩),
     (0xFF40000B4B200364, .scmpLtI64 ⟨44, 45, .e10 0x3FD⟩),
     (0x89ABCDEF0000000B4B200365, .scmpLtI64 ⟨44, 45, .k32 0x89ABCDEF⟩),
     (0xB8B4B000368, .scmpLeI64 ⟨44, 45, .reg 46⟩),
     (0xFF40000B4B200368, .scmpLeI64 ⟨44, 45, .e10 0x3FD⟩),
     (0x89ABCDEF0000000B4B200369, .scmpLeI64 ⟨44, 45, .k32 0x89ABCDEF⟩)] = true := by decide

theorem test_words_scalar_4 : wordsOk
    [(0xB8B4B00036C, .scmpLtN64 ⟨44, 45, .reg 46⟩),
     (0xFF40000B4B20036C, .scmpLtN64 ⟨44, 45, .e10 0x3FD⟩),
     (0x89ABCDEF0000000B4B20036D, .scmpLtN64 ⟨44, 45, .k32 0x89ABCDEF⟩),
     (0xB8B4B000370, .scmpLeN64 ⟨44, 45, .reg 46⟩),
     (0xFF40000B4B200370, .scmpLeN64 ⟨44, 45, .e10 0x3FD⟩),
     (0x89ABCDEF0000000B4B200371, .scmpLeN64 ⟨44, 45, .k32 0x89ABCDEF⟩),
     (0xBCB8B4B000374, .ssel 44 45 46 47),
     (0xB4B000378, .smov 44 45),
     (0x800000400B00037C, .smovi 44 (.i26 0x2000001)),
     (0x48D159E26AF378400B00037D, .smovi 44 (.i58 0x123456789ABCDE1)),
     (0xFEDCBA9876543210000000000B00037E, .smovi 44 (.q64 0xFEDCBA9876543210)),
     (0xB8B4B0C0380, .slea ⟨44, 45, .reg 46⟩ 3),
     (0xFF40000B4B2C0380, .slea ⟨44, 45, .e10 0x3FD⟩ 3),
     (0x89ABCDEF0000000B4B2C0381, .slea ⟨44, 45, .k32 0x89ABCDEF⟩ 3),
     (0xB4B000384, .spopc 44 45),
     (0xB4B000388, .sclz 44 45),
     (0x18100C06B8C, .pand ⟨5, true⟩ 3 4 6),
     (0x18100C06B90, .por ⟨5, true⟩ 3 4 6),
     (0x18100C06B94, .pxor ⟨5, true⟩ 3 4 6),
     (0x100C06B98, .pnot ⟨5, true⟩ 3 4),
     (0x8000010B00039C, .pmovSp 44 4 2),
     (0x80000B010003A0, .pmovPs 4 44 2),
     (0x10B0003A4, .ppopc 44 4),
     (0xCC000000B0003A8, .movsr 44 0x33),
     (0x400000B000003AC, .movrs 44 0x10)] = true := by decide

theorem test_words_float_1 : wordsOk
    [(0x8606F89EC00, .faddF32 ⟨⟨5, true⟩, 190, ⟨129, true⟩, .reg ⟨33, true⟩⟩ .ru),
     (0xFF4000206FA8EC00, .faddF32 ⟨⟨5, true⟩, 190, ⟨129, true⟩, .e10 0x3FD⟩ .ru),
     (0x89ABCDEF000000206FA8EC01, .faddF32 ⟨⟨5, true⟩, 190, ⟨129, true⟩, .k32 0x89ABCDEF⟩ .ru),
     (0x8606F89EC04, .fsubF32 ⟨⟨5, true⟩, 190, ⟨129, true⟩, .reg ⟨33, true⟩⟩ .ru),
     (0xFF4000206FA8EC04, .fsubF32 ⟨⟨5, true⟩, 190, ⟨129, true⟩, .e10 0x3FD⟩ .ru),
     (0x89ABCDEF000000206FA8EC05, .fsubF32 ⟨⟨5, true⟩, 190, ⟨129, true⟩, .k32 0x89ABCDEF⟩ .ru),
     (0x8606F89EC08, .fmulF32 ⟨⟨5, true⟩, 190, ⟨129, true⟩, .reg ⟨33, true⟩⟩ .ru),
     (0xFF4000206FA8EC08, .fmulF32 ⟨⟨5, true⟩, 190, ⟨129, true⟩, .e10 0x3FD⟩ .ru),
     (0x89ABCDEF000000206FA8EC09, .fmulF32 ⟨⟨5, true⟩, 190, ⟨129, true⟩, .k32 0x89ABCDEF⟩ .ru),
     (0x10C8606F8BEC0C, .fmaF32 ⟨⟨5, true⟩, 190, ⟨129, true⟩, .reg ⟨33, true⟩, ⟨67, true⟩⟩ .ru),
     (0xFF50C0206FAAEC0C, .fmaF32 ⟨⟨5, true⟩, 190, ⟨129, true⟩, .e10 0x3FD, ⟨67, true⟩⟩ .ru),
     (0x89ABCDEF0010C0206FAAEC0D, .fmaF32 ⟨⟨5, true⟩, 190, ⟨129, true⟩, .k32 0x89ABCDEF, ⟨67, true⟩⟩ .ru),
     (0x10C8606F8BEC10, .fnmaF32 ⟨⟨5, true⟩, 190, ⟨129, true⟩, .reg ⟨33, true⟩, ⟨67, true⟩⟩ .ru),
     (0xFF50C0206FAAEC10, .fnmaF32 ⟨⟨5, true⟩, 190, ⟨129, true⟩, .e10 0x3FD, ⟨67, true⟩⟩ .ru),
     (0x89ABCDEF0010C0206FAAEC11, .fnmaF32 ⟨⟨5, true⟩, 190, ⟨129, true⟩, .k32 0x89ABCDEF, ⟨67, true⟩⟩ .ru),
     (0x8606F81EC14, .fminF32 ⟨⟨5, true⟩, 190, ⟨129, true⟩, .reg ⟨33, true⟩⟩),
     (0xFF4000206FA0EC14, .fminF32 ⟨⟨5, true⟩, 190, ⟨129, true⟩, .e10 0x3FD⟩),
     (0x89ABCDEF000000206FA0EC15, .fminF32 ⟨⟨5, true⟩, 190, ⟨129, true⟩, .k32 0x89ABCDEF⟩),
     (0x8606F81EC18, .fmaxF32 ⟨⟨5, true⟩, 190, ⟨129, true⟩, .reg ⟨33, true⟩⟩),
     (0xFF4000206FA0EC18, .fmaxF32 ⟨⟨5, true⟩, 190, ⟨129, true⟩, .e10 0x3FD⟩),
     (0x89ABCDEF000000206FA0EC19, .fmaxF32 ⟨⟨5, true⟩, 190, ⟨129, true⟩, .k32 0x89ABCDEF⟩),
     (0x206F80EC1C, .fabsF32 ⟨⟨5, true⟩, 190, ⟨129, true⟩⟩),
     (0x206F80EC20, .fnegF32 ⟨⟨5, true⟩, 190, ⟨129, true⟩⟩),
     (0x206F80EC24, .fsatF32 ⟨⟨5, true⟩, 190, ⟨129, true⟩⟩),
     (0x8604181EC28, .fcmpEq ⟨⟨5, true⟩, 6, ⟨129, true⟩, .reg ⟨33, true⟩⟩)] = true := by decide

theorem test_words_float_2 : wordsOk
    [(0xFF40002041A0EC28, .fcmpEq ⟨⟨5, true⟩, 6, ⟨129, true⟩, .e10 0x3FD⟩),
     (0x89ABCDEF0000002041A0EC29, .fcmpEq ⟨⟨5, true⟩, 6, ⟨129, true⟩, .k32 0x89ABCDEF⟩),
     (0x8604181EC2C, .fcmpLt ⟨⟨5, true⟩, 6, ⟨129, true⟩, .reg ⟨33, true⟩⟩),
     (0xFF40002041A0EC2C, .fcmpLt ⟨⟨5, true⟩, 6, ⟨129, true⟩, .e10 0x3FD⟩),
     (0x89ABCDEF0000002041A0EC2D, .fcmpLt ⟨⟨5, true⟩, 6, ⟨129, true⟩, .k32 0x89ABCDEF⟩),
     (0x8604181EC30, .fcmpLe ⟨⟨5, true⟩, 6, ⟨129, true⟩, .reg ⟨33, true⟩⟩),
     (0xFF40002041A0EC30, .fcmpLe ⟨⟨5, true⟩, 6, ⟨129, true⟩, .e10 0x3FD⟩),
     (0x89ABCDEF0000002041A0EC31, .fcmpLe ⟨⟨5, true⟩, 6, ⟨129, true⟩, .k32 0x89ABCDEF⟩),
     (0x8604181EC34, .fcmpUn ⟨⟨5, true⟩, 6, ⟨129, true⟩, .reg ⟨33, true⟩⟩),
     (0xFF40002041A0EC34, .fcmpUn ⟨⟨5, true⟩, 6, ⟨129, true⟩, .e10 0x3FD⟩),
     (0x89ABCDEF0000002041A0EC35, .fcmpUn ⟨⟨5, true⟩, 6, ⟨129, true⟩, .k32 0x89ABCDEF⟩),
     (0x206F80EC38, .fclass ⟨⟨5, true⟩, 190, ⟨129, true⟩⟩),
     (0x206F8CEC3C, .frnd ⟨⟨5, true⟩, 190, ⟨129, true⟩⟩ .rd),
     (0x8606F89EC40, .fscale ⟨⟨5, true⟩, 190, ⟨129, true⟩, .reg ⟨33, true⟩⟩ .ru),
     (0xFF4000206FA8EC40, .fscale ⟨⟨5, true⟩, 190, ⟨129, true⟩, .e10 0x3FD⟩ .ru),
     (0x89ABCDEF000000206FA8EC41, .fscale ⟨⟨5, true⟩, 190, ⟨129, true⟩, .k32 0x89ABCDEF⟩ .ru),
     (0x8202F886C44, .faddF64 ⟨5, true⟩ 190 128 32 .ru),
     (0x8202F886C48, .fmulF64 ⟨5, true⟩ 190 128 32 .ru),
     (0x1088202F886C4C, .fmaF64 ⟨5, true⟩ 190 128 32 66 .ru),
     (0x8606F89EC50, .faddF16x2 ⟨⟨5, true⟩, 190, ⟨129, true⟩, .reg ⟨33, true⟩⟩ .ru),
     (0xFF4000206FA8EC50, .faddF16x2 ⟨⟨5, true⟩, 190, ⟨129, true⟩, .e10 0x3FD⟩ .ru),
     (0x89ABCDEF000000206FA8EC51, .faddF16x2 ⟨⟨5, true⟩, 190, ⟨129, true⟩, .k32 0x89ABCDEF⟩ .ru),
     (0x8606F89EC54, .fmulF16x2 ⟨⟨5, true⟩, 190, ⟨129, true⟩, .reg ⟨33, true⟩⟩ .ru),
     (0xFF4000206FA8EC54, .fmulF16x2 ⟨⟨5, true⟩, 190, ⟨129, true⟩, .e10 0x3FD⟩ .ru),
     (0x89ABCDEF000000206FA8EC55, .fmulF16x2 ⟨⟨5, true⟩, 190, ⟨129, true⟩, .k32 0x89ABCDEF⟩ .ru)] = true := by decide

theorem test_words_float_3 : wordsOk
    [(0x10C8606F86EC58, .fmaF16x2 ⟨⟨5, true⟩, 190, ⟨129, true⟩, ⟨33, false⟩, ⟨67, true⟩⟩ .rz),
     (0x10C8606F86EC5C, .fmaBf16x2 ⟨⟨5, true⟩, 190, ⟨129, true⟩, ⟨33, false⟩, ⟨67, true⟩⟩ .rz),
     (0x10C8606F86EC60, .fdot2F16 ⟨⟨5, true⟩, 190, ⟨129, true⟩, ⟨33, false⟩, ⟨67, true⟩⟩ .rz),
     (0x10C8606F86EC64, .fdot2Bf16 ⟨⟨5, true⟩, 190, ⟨129, true⟩, ⟨33, false⟩, ⟨67, true⟩⟩ .rz),
     (0x206F8CEC68, .cvtF32I32 ⟨⟨5, true⟩, 190, ⟨129, true⟩⟩ .rd),
     (0x206F8CEC6C, .cvtF32N32 ⟨⟨5, true⟩, 190, ⟨129, true⟩⟩ .rd),
     (0x206F8CEC70, .cvtI32F32 ⟨⟨5, true⟩, 190, ⟨129, true⟩⟩ .rd),
     (0x206F8CEC74, .cvtN32F32 ⟨⟨5, true⟩, 190, ⟨129, true⟩⟩ .rd),
     (0x202FC86C78, .cvtF32F64 ⟨5, true⟩ 191 128 .ru),
     (0x206F80EC7C, .cvtF64F32 ⟨⟨5, true⟩, 190, ⟨129, true⟩⟩),
     (0x8606F856C80, .cvtF16x2F32 ⟨⟨5, true⟩, 190, ⟨129, false⟩, ⟨33, true⟩⟩ .rz),
     (0x206F90EC84, .cvtF32F16 ⟨⟨5, true⟩, 190, ⟨129, true⟩⟩ true),
     (0x8606F856C88, .cvtBf16x2F32 ⟨⟨5, true⟩, 190, ⟨129, false⟩, ⟨33, true⟩⟩ .rz),
     (0x206F90EC8C, .cvtF32Bf16 ⟨⟨5, true⟩, 190, ⟨129, true⟩⟩ true),
     (0xB606F80EC90, .cvtT8F32 ⟨⟨5, true⟩, 190, ⟨129, true⟩, 45⟩),
     (0xB606F8CEC94, .cvtF32T8 ⟨⟨5, true⟩, 190, ⟨129, true⟩, 45⟩ .rd),
     (0xB606F80EC98, .cvtT6F32 ⟨⟨5, true⟩, 190, ⟨129, true⟩, 45⟩),
     (0xB606F8CEC9C, .cvtF32T6 ⟨⟨5, true⟩, 190, ⟨129, true⟩, 45⟩ .rd),
     (0xFF8B884B40016CA0, .blkpackT8 ⟨5, true⟩ 45 0x3FE ⟨33, true⟩ 46),
     (0xFF8B884B40016CA4, .blkpackT6 ⟨5, true⟩ 45 0x3FE ⟨33, true⟩ 46),
     (0xFF80000B6F846CA8, .blkunpk ⟨5, true⟩ 190 45 0x3FE .rz),
     (0x206F80ECAC, .frcp ⟨⟨5, true⟩, 190, ⟨129, true⟩⟩),
     (0x206F80ECB0, .frsq ⟨⟨5, true⟩, 190, ⟨129, true⟩⟩),
     (0x206F80ECB4, .fsqrt ⟨⟨5, true⟩, 190, ⟨129, true⟩⟩),
     (0x8606F816CB8, .fdiv ⟨⟨5, true⟩, 190, ⟨129, false⟩, ⟨33, true⟩⟩)] = true := by decide

theorem test_words_float_4 : wordsOk
    [(0x206F80ECBC, .fexp2 ⟨⟨5, true⟩, 190, ⟨129, true⟩⟩),
     (0x206F80ECC0, .flog2 ⟨⟨5, true⟩, 190, ⟨129, true⟩⟩),
     (0x206F80ECC4, .fsin ⟨⟨5, true⟩, 190, ⟨129, true⟩⟩),
     (0x206F80ECC8, .fcos ⟨⟨5, true⟩, 190, ⟨129, true⟩⟩),
     (0x206F80ECCC, .ftanh ⟨⟨5, true⟩, 190, ⟨129, true⟩⟩),
     (0x206F80ECD0, .fsigm ⟨⟨5, true⟩, 190, ⟨129, true⟩⟩),
     (0x8606F81ECD4, .idivI32 ⟨⟨5, true⟩, 190, ⟨129, true⟩, .reg ⟨33, true⟩⟩),
     (0xFF4000206FA0ECD4, .idivI32 ⟨⟨5, true⟩, 190, ⟨129, true⟩, .e10 0x3FD⟩),
     (0x89ABCDEF000000206FA0ECD5, .idivI32 ⟨⟨5, true⟩, 190, ⟨129, true⟩, .k32 0x89ABCDEF⟩),
     (0x8606F81ECD8, .idivN32 ⟨⟨5, true⟩, 190, ⟨129, true⟩, .reg ⟨33, true⟩⟩),
     (0xFF4000206FA0ECD8, .idivN32 ⟨⟨5, true⟩, 190, ⟨129, true⟩, .e10 0x3FD⟩),
     (0x89ABCDEF000000206FA0ECD9, .idivN32 ⟨⟨5, true⟩, 190, ⟨129, true⟩, .k32 0x89ABCDEF⟩),
     (0x8606F81ECDC, .iremI32 ⟨⟨5, true⟩, 190, ⟨129, true⟩, .reg ⟨33, true⟩⟩),
     (0xFF4000206FA0ECDC, .iremI32 ⟨⟨5, true⟩, 190, ⟨129, true⟩, .e10 0x3FD⟩),
     (0x89ABCDEF000000206FA0ECDD, .iremI32 ⟨⟨5, true⟩, 190, ⟨129, true⟩, .k32 0x89ABCDEF⟩),
     (0x8606F81ECE0, .iremN32 ⟨⟨5, true⟩, 190, ⟨129, true⟩, .reg ⟨33, true⟩⟩),
     (0xFF4000206FA0ECE0, .iremN32 ⟨⟨5, true⟩, 190, ⟨129, true⟩, .e10 0x3FD⟩),
     (0x89ABCDEF000000206FA0ECE1, .iremN32 ⟨⟨5, true⟩, 190, ⟨129, true⟩, .k32 0x89ABCDEF⟩)] = true := by decide

theorem test_words_scratch_1 : wordsOk
    [(0xFFC000055D846D80, .ldL1 ⟨5, true⟩ 118 ⟨21, .none, 0, .k14 0x3FF0⟩ .x64),
     (0x10193455D816D80, .ldL1 ⟨5, true⟩ 118 ⟨21, .vec ⟨77, true⟩, 2, .k14 0x40⟩ .w4),
     (0xFFFFFFF00002C2455D8C6D81, .ldL1 ⟨5, true⟩ 118 ⟨21, .scl 9, 3, .k32 0xFFFFFFF0⟩ .x16),
     (0xFFC000055D846D84, .ldL2 ⟨5, true⟩ 118 ⟨21, .none, 0, .k14 0x3FF0⟩ .x64),
     (0x10193455D816D84, .ldL2 ⟨5, true⟩ 118 ⟨21, .vec ⟨77, true⟩, 2, .k14 0x40⟩ .w4),
     (0xFFFFFFF00002C2455D8C6D85, .ldL2 ⟨5, true⟩ 118 ⟨21, .scl 9, 3, .k32 0xFFFFFFF0⟩ .x16),
     (0xFFC000055D846D88, .ldL3 ⟨5, true⟩ 118 ⟨21, .none, 0, .k14 0x3FF0⟩ .x64),
     (0x10193455D816D88, .ldL3 ⟨5, true⟩ 118 ⟨21, .vec ⟨77, true⟩, 2, .k14 0x40⟩ .w4),
     (0xFFFFFFF00002C2455D8C6D89, .ldL3 ⟨5, true⟩ 118 ⟨21, .scl 9, 3, .k32 0xFFFFFFF0⟩ .x16),
     (0xFFC000055D846D8C, .stL1 ⟨5, true⟩ ⟨118, false⟩ ⟨21, .none, 0, .k14 0x3FF0⟩ .x64),
     (0x10193455D81ED8C, .stL1 ⟨5, true⟩ ⟨118, true⟩ ⟨21, .vec ⟨77, true⟩, 2, .k14 0x40⟩ .w4),
     (0xFFFFFFF00002C2455D8CED8D, .stL1 ⟨5, true⟩ ⟨118, true⟩ ⟨21, .scl 9, 3, .k32 0xFFFFFFF0⟩ .x16),
     (0xFFC000055D846D90, .stL2 ⟨5, true⟩ ⟨118, false⟩ ⟨21, .none, 0, .k14 0x3FF0⟩ .x64),
     (0x10193455D81ED90, .stL2 ⟨5, true⟩ ⟨118, true⟩ ⟨21, .vec ⟨77, true⟩, 2, .k14 0x40⟩ .w4),
     (0xFFFFFFF00002C2455D8CED91, .stL2 ⟨5, true⟩ ⟨118, true⟩ ⟨21, .scl 9, 3, .k32 0xFFFFFFF0⟩ .x16),
     (0xFFC000055D846D94, .stL3 ⟨5, true⟩ ⟨118, false⟩ ⟨21, .none, 0, .k14 0x3FF0⟩ .x64),
     (0x10193455D81ED94, .stL3 ⟨5, true⟩ ⟨118, true⟩ ⟨21, .vec ⟨77, true⟩, 2, .k14 0x40⟩ .w4),
     (0xFFFFFFF00002C2455D8CED95, .stL3 ⟨5, true⟩ ⟨118, true⟩ ⟨21, .scl 9, 3, .k32 0xFFFFFFF0⟩ .x16),
     (0xFFC000054B080598, .lduL1 44 ⟨21, .none, 0, .k14 0x3FF0⟩ .x8),
     (0xFFFFFFF00002C2454B040599, .lduL1 44 ⟨21, .scl 9, 3, .k32 0xFFFFFFF0⟩ .x64),
     (0xFFC000054B08059C, .lduL2 44 ⟨21, .none, 0, .k14 0x3FF0⟩ .x8),
     (0xFFFFFFF00002C2454B04059D, .lduL2 44 ⟨21, .scl 9, 3, .k32 0xFFFFFFF0⟩ .x64),
     (0xFFC000054B0805A0, .lduL3 44 ⟨21, .none, 0, .k14 0x3FF0⟩ .x8),
     (0xFFFFFFF00002C2454B0405A1, .lduL3 44 ⟨21, .scl 9, 3, .k32 0xFFFFFFF0⟩ .x64),
     (0x800001000169934543AF6DA5, .atAdd ⟨⟨5, true⟩, 14, 21, .vec ⟨77, true⟩, 2, ⟨90, true⟩, 0x800001, .gm, .rel⟩)] = true := by decide

theorem test_words_scratch_2 : wordsOk
    [(0x800001000169934543AF6DA9, .atMinI32 ⟨⟨5, true⟩, 14, 21, .vec ⟨77, true⟩, 2, ⟨90, true⟩, 0x800001, .gm, .rel⟩),
     (0x800001000169934543AF6DAD, .atMaxI32 ⟨⟨5, true⟩, 14, 21, .vec ⟨77, true⟩, 2, ⟨90, true⟩, 0x800001, .gm, .rel⟩),
     (0x800001000169934543AF6DB1, .atMinN32 ⟨⟨5, true⟩, 14, 21, .vec ⟨77, true⟩, 2, ⟨90, true⟩, 0x800001, .gm, .rel⟩),
     (0x800001000169934543AF6DB5, .atMaxN32 ⟨⟨5, true⟩, 14, 21, .vec ⟨77, true⟩, 2, ⟨90, true⟩, 0x800001, .gm, .rel⟩),
     (0x800001000169934543AF6DB9, .atAnd ⟨⟨5, true⟩, 14, 21, .vec ⟨77, true⟩, 2, ⟨90, true⟩, 0x800001, .gm, .rel⟩),
     (0x800001000169934543AF6DBD, .atOr ⟨⟨5, true⟩, 14, 21, .vec ⟨77, true⟩, 2, ⟨90, true⟩, 0x800001, .gm, .rel⟩),
     (0x800001000169934543AF6DC1, .atXor ⟨⟨5, true⟩, 14, 21, .vec ⟨77, true⟩, 2, ⟨90, true⟩, 0x800001, .gm, .rel⟩),
     (0x800001000169934543AF6DC5, .atXchg ⟨⟨5, true⟩, 14, 21, .vec ⟨77, true⟩, 2, ⟨90, true⟩, 0x800001, .gm, .rel⟩),
     (0x800001000169934543AD6DC9, .atXchg64 ⟨⟨5, true⟩, 14, 21, .vec ⟨77, true⟩, 2, ⟨90, false⟩, 0x800001, .gm, .rel⟩),
     (0x800001650169934543AFEDCD, .atCas ⟨⟨5, true⟩, 14, 21, .vec ⟨77, true⟩, 2, ⟨90, true⟩, 0x800001, .gm, .rel⟩ ⟨101, true⟩),
     (0x800001650169934543AD6DD1, .atCas64 ⟨⟨5, true⟩, 14, 21, .vec ⟨77, true⟩, 2, ⟨90, false⟩, 0x800001, .gm, .rel⟩ ⟨101, false⟩),
     (0x800001000169934543AF6DD5, .atFadd ⟨⟨5, true⟩, 14, 21, .vec ⟨77, true⟩, 2, ⟨90, true⟩, 0x800001, .gm, .rel⟩),
     (0x800001000169934543AF6DD9, .atAmaxx ⟨⟨5, true⟩, 14, 21, .vec ⟨77, true⟩, 2, ⟨90, true⟩, 0x800001, .gm, .rel⟩),
     (0x8000000B0005DC, .spinfo 44 2)] = true := by decide

theorem test_words_global : wordsOk
    [(0xFFC000055D846E40, .ldGm ⟨5, true⟩ 118 ⟨21, .none, 0, .k14 0x3FF0⟩ .x64),
     (0x10193455D816E40, .ldGm ⟨5, true⟩ 118 ⟨21, .vec ⟨77, true⟩, 2, .k14 0x40⟩ .w4),
     (0xFFFFFFF00002C2455D8C6E41, .ldGm ⟨5, true⟩ 118 ⟨21, .scl 9, 3, .k32 0xFFFFFFF0⟩ .x16),
     (0xFFC000054B080644, .lduGm 44 ⟨21, .none, 0, .k14 0x3FF0⟩ .x8),
     (0xFFFFFFF00002C2454B040645, .lduGm 44 ⟨21, .scl 9, 3, .k32 0xFFFFFFF0⟩ .x64),
     (0xFFC000055D846E48, .stGm ⟨5, true⟩ ⟨118, false⟩ ⟨21, .none, 0, .k14 0x3FF0⟩ .x64),
     (0x10193455D81EE48, .stGm ⟨5, true⟩ ⟨118, true⟩ ⟨21, .vec ⟨77, true⟩, 2, .k14 0x40⟩ .w4),
     (0xFFFFFFF00002C2455D8CEE49, .stGm ⟨5, true⟩ ⟨118, true⟩ ⟨21, .scl 9, 3, .k32 0xFFFFFFF0⟩ .x16),
     (0xFFC000055D846E4C, .ldGmAcq ⟨5, true⟩ 118 ⟨21, .none, 0, .k14 0x3FF0⟩ .x64),
     (0x10193455D816E4C, .ldGmAcq ⟨5, true⟩ 118 ⟨21, .vec ⟨77, true⟩, 2, .k14 0x40⟩ .w4),
     (0xFFFFFFF00002C2455D8C6E4D, .ldGmAcq ⟨5, true⟩ 118 ⟨21, .scl 9, 3, .k32 0xFFFFFFF0⟩ .x16),
     (0xFFC000055D846E50, .stGmRel ⟨5, true⟩ ⟨118, false⟩ ⟨21, .none, 0, .k14 0x3FF0⟩ .x64),
     (0x10193455D81EE50, .stGmRel ⟨5, true⟩ ⟨118, true⟩ ⟨21, .vec ⟨77, true⟩, 2, .k14 0x40⟩ .w4),
     (0xFFFFFFF00002C2455D8CEE51, .stGmRel ⟨5, true⟩ ⟨118, true⟩ ⟨21, .scl 9, 3, .k32 0xFFFFFFF0⟩ .x16),
     (0x654, .phase),
     (0x658, .fenceO),
     (0x10240065C, .fenceR 9 (.plot 4)),
     (0x4001410240065C, .fenceR 9 (.cluster 4 5)),
     (0x8000000240065C, .fenceR 9 .all)] = true := by decide

theorem test_words_stream : wordsOk
    [(0x8040000B40000660, .evpost 45 0x201),
     (0x8040000B4B000664, .evpostNb 44 45 0x201),
     (0x8040000B40000668, .evwm 45 0x201),
     (0x8040000B4B00066C, .streamqTail 44 45 0x201),
     (0x8040000B4B04066C, .streamqRel 44 45 0x201),
     (0x8040000B4B08066C, .streamqWm 44 45 0x201),
     (0x8040000B4B0C066C, .streamqLate 44 45 0x201),
     (0x8040000B40000670, .automap 45 0x201),
     (0x8040000B40000674, .autounmap 45 0x201),
     (0xB4B000678, .autoqSt 44 45),
     (0xB4B040678, .autoqAcc 44 45),
     (0xB4B080678, .autoqOvf 44 45),
     (0xB4B0C0678, .autoqExp 44 45),
     (0x8040000B4000067C, .svcall 45 0x201)] = true := by decide

theorem test_words_chime : wordsOk
    [(0x14002C282400680, .chime 9 10 (.reg 11) 5),
     (0x12340140000282600681, .chime 9 10 (.k32 0x1234) 5),
     (0x684, .chwait),
     (0x688, .chret),
     (0xB4B00068C, .chpermDes 44 45),
     (0xC00201C244068C, .chpermSet 9 7 8 3),
     (0xFC00001C248068C, .chpermVec 9 7 63),
     (0xB4B0C068C, .chpermEn 44 45),
     (0xB000690, .chinfoPend 44),
     (0xB040690, .chinfoEn 44),
     (0xB080690, .chinfoDeny 44),
     (0x1C00000030C0690, .chinfoVec 12 7),
     (0x1C00000031C0690, .chinfoVecTake 12 7),
     (0x8000000B0006A0, .perfclass 44 2),
     (0xB0006A4, .perfq 44)] = true := by decide

theorem test_words_engine : wordsOk
    [(0x8040000B4B0006C0, .tmov 44 45 0x201),
     (0x8040000B4B0006C4, .tmovV 44 45 0x201),
     (0x8040000B4B0006C8, .tmovW 44 45 0x201),
     (0x8040000B4B0006CC, .tmovR 44 45 0x201),
     (0x8040000B4B0006D0, .tmovZ 44 45 0x201),
     (0x40201C1800006D4, .rainit 6 7 8 16),
     (0xB4B0006D8, .rawait 44 45),
     (0xB4B0006DC, .rarel 44 45),
     (0x8040000B400006E0, .gath 45 0x201),
     (0x8040000B400006E4, .scat 45 0x201),
     (0x8040000B400006E8, .collAr 45 0x201),
     (0x8040000B400006EC, .collAg 45 0x201),
     (0x8040000B400006F0, .collRs 45 0x201),
     (0x8040000B400006F4, .collBc 45 0x201),
     (0x8040000B400006F8, .collA2a 45 0x201),
     (0x800000000406FC, .waitoc 1 2),
     (0x2480700, .ocrd 2 9),
     (0xB40000704, .psleep 45),
     (0x8040000B40000708, .cpydec 45 0x201),
     (0x8040000B4000070C, .cpyenc 45 0x201)] = true := by decide

theorem test_words_tile : wordsOk
    [(0x1C0800740, .movts 2 (.reg 7)),
     (0x10140000000000A00741, .movts 2 (.k32 0x1014)),
     (0x12040C0EF44, .twr ⟨5, true⟩ 3 ⟨129, true⟩ 4),
     (0xB40AF806F48, .trd ⟨5, true⟩ 190 2 45),
     (0xB40AF806F4C, .trdT ⟨5, true⟩ 190 2 45),
     (0x3400750, .tzero 13),
     (0xB4B000754, .sqgo 44 45),
     (0x340000000000758, .sqsig 13),
     (0x34000000000075C, .sqwait 13),
     (0xB000760, .sqstat 44)] = true := by decide

theorem test_words_dial : wordsOk
    [(0xFF80000180800780, .dialld 2 6 0x3FE),
     (0x82400784, .dialq 9 2),
     (0xC8606F80EF88, .dsadd ⟨⟨5, true⟩, 190, ⟨129, true⟩, ⟨33, false⟩⟩ 3),
     (0xC8606F80EF8C, .dssub ⟨⟨5, true⟩, 190, ⟨129, true⟩, ⟨33, false⟩⟩ 3),
     (0xC8606F80EF90, .dsmul ⟨⟨5, true⟩, 190, ⟨129, true⟩, ⟨33, false⟩⟩ 3),
     (0xC8606F80EF94, .dsdiv ⟨⟨5, true⟩, 190, ⟨129, true⟩, ⟨33, false⟩⟩ 3),
     (0x206F80EF98, .dsneg ⟨⟨5, true⟩, 190, ⟨129, true⟩⟩),
     (0xC0206F80EF9C, .dsrcp ⟨⟨5, true⟩, 190, ⟨129, true⟩⟩ 3),
     (0xC0206F80EFA0, .dssqr ⟨⟨5, true⟩, 190, ⟨129, true⟩⟩ 3),
     (0x8606F816FA4, .dsuni ⟨⟨5, true⟩, 190, ⟨129, false⟩, ⟨33, true⟩⟩),
     (0x8606F816FA8, .dsint ⟨⟨5, true⟩, 190, ⟨129, false⟩, ⟨33, true⟩⟩),
     (0x206F80EFAC, .dscpl ⟨⟨5, true⟩, 190, ⟨129, true⟩⟩),
     (0x206F80EFB0, .dshull ⟨⟨5, true⟩, 190, ⟨129, true⟩⟩),
     (0x206F80EFB4, .dsexp ⟨⟨5, true⟩, 190, ⟨129, true⟩⟩),
     (0xFF80C001AF846FB4, .dsexpBlock ⟨5, true⟩ 190 6 3 0x3FE),
     (0xC0206F80EFB8, .dsfrom ⟨⟨5, true⟩, 190, ⟨129, true⟩⟩ 3),
     (0xC8606F80EFBC, .dsfromArc ⟨⟨5, true⟩, 190, ⟨129, true⟩, ⟨33, false⟩⟩ 3),
     (0xC0206F80EFC0, .dslo ⟨⟨5, true⟩, 190, ⟨129, true⟩⟩ 3),
     (0xC0206F80EFC4, .dshi ⟨⟨5, true⟩, 190, ⟨129, true⟩⟩ 3),
     (0x86041816FC8, .dstestMeet ⟨5, true⟩ 6 ⟨129, false⟩ ⟨33, true⟩),
     (0x86041816FCC, .dstestIn ⟨5, true⟩ 6 ⟨129, false⟩ ⟨33, true⟩),
     (0x204B00EFD0, .dsredUni ⟨5, true⟩ 44 ⟨129, true⟩),
     (0x204B00EFD4, .dsredInt ⟨5, true⟩ 44 ⟨129, true⟩)] = true := by decide

theorem test_words_sequencer : seqWordsOk
    [(0x0, .sqnop),
     (0x900004, .sqarr 9),
     (0x800100900008, .sqwt 9 0x8001),
     (0xFFFFFFF00000000C, .sqjmp 0xFFFFFFF0),
     (0x8001FFE002000010, .sqloop 2 0xFFE0 0x8001),
     (0x14, .sqend),
     (0x8000004081000D18, .tldq 13 0x81 0x80000040),
     (0x8000004081000D1C, .tstq 13 0x81 0x80000040),
     (0xD20, .tzq 13),
     (0x106BD24, .mmaT8 13 11 6 true),
     (0x106BD28, .mmaT6 13 11 6 true),
     (0x106BD2C, .mmaF16 13 11 6 true),
     (0x106BD30, .mmaBf16 13 11 6 true),
     (0x106BD34, .mmaF32 13 11 6 true),
     (0x106BD38, .mmasT8 13 11 6 true),
     (0x106BD3C, .mmasT6 13 11 6 true),
     (0x800000400136BD40, .gmmaT8 13 11 6 3 true 0x80000040),
     (0x800000400136BD44, .gmmaT6 13 11 6 3 true 0x80000040),
     (0x800000400136BD48, .gmmaF16 13 11 6 3 true 0x80000040),
     (0x800000400136BD4C, .gmmaBf16 13 11 6 3 true 0x80000040),
     (0x6BD50, .tadd 13 11 6),
     (0xBF8000000000BD54, .tscale 13 11 0xBF800000),
     (0x800000400000B058, .tamax 11 0x80000040),
     (0x8000004001000058, .tamaxRst 0x80000040),
     (0xF100BD5C, .tcvtT8 13 11 0xF1),
     (0xF100BD60, .tcvtT6 13 11 0xF1),
     (0xF100BD64, .tcvtF16 13 11 0xF1),
     (0xF100BD68, .tcvtBf16 13 11 0xF1)] = true := by decide

/-- A hart's word (R366): custom-0, funct3 0, EVPOST x10, x11. -/
theorem test_word_hart : decodeHart 0x0005850B = .ok (.skEvpost 10 11) ∧ encodeHart (.skEvpost 10 11) = some 0x0005850B ∧
    decodeHart 0x0005950B = .ok (.skEvwm 10 11) ∧ decodeHart 0x8005850B = .illegal ∧ decodeHart 0x0005A50B = .illegal ∧
    decodeHart 0x00000013 = .base := by decide

/-- The reason of an illegal word (R43, R345), 0 if the word is legal. -/
noncomputable def reasonOf (w : BitVec 128) : Nat :=
  match decodeGang w with
  | .ok _ => 0
  | .error e => e.reason

-- SADD s20, s20, s57 with one thing wrong after the other: length code 3; opcode 0x1FE; PRED 1; MOD[0] 1; the 96-bit form
-- with K 0; slot A 64
theorem test_illegal_scalar : [0xE4505000303, 0xE45050007F8, 0xE4505000B00, 0xE4505040300, 0xE4505000301, 0xE5005000300].map reasonOf =
    [2, 4, 5, 5, 6, 7] := by decide

/-- Words of one instruction each, and the reason that an ill-formed operand gives: a slot value above 191, a pair at 191, a
hold bit on a pair, IX = 0b11 and a forbidden value. -/
theorem test_illegal_vector :
    -- VADD v1, v2, v192; VMULW.I32 v191, v2, v3; ST.L1.X64 with hold on its pair; LD.L1 with IX = 3; MOVSR with selector 0x0B
    (∀ i ∈ [Instr.vadd ⟨⟨0, false⟩, 1, ⟨2, false⟩, .reg ⟨192, false⟩⟩, .vmulwI32 ⟨⟨0, false⟩, 191, ⟨2, false⟩, .reg ⟨3, false⟩⟩,
      .stL1 ⟨0, false⟩ ⟨2, true⟩ ⟨4, .none, 0, .k14 0⟩ .x64, .movsr 1 0x0B],
      ((encodeGang i).map fun w => reasonOf w.2) ∈ [some 7, some 8, some 0x0B]) ∧
    reasonOf (0x10181C102400580 ||| 0x3000000000000) = 9 := by decide

/-! ### Ill-formed operands: one term for each check of WellFormed.lean -/

def g0 : Guard := ⟨0, false⟩
def m0 : MemRef := ⟨4, .none, 0, .k14 0⟩
def half (mini : BitVec 7) (d a b : VReg) : Half := { mini := mini, g := g0, ha := false, hb := false, hc := false, m2 := 0, d := d, a := a, b := b, c := 0 }

theorem test_ill_formed_registers : ([.vadd ⟨g0, 192, ⟨2, false⟩, .reg ⟨3, false⟩⟩, .vadd ⟨g0, 1, ⟨192, false⟩, .reg ⟨3, false⟩⟩,
    .vadd ⟨g0, 1, ⟨2, false⟩, .reg ⟨192, false⟩⟩, .vsel ⟨g0, 1, ⟨2, false⟩, ⟨255, false⟩, 0⟩, .vmad ⟨g0, 1, ⟨2, false⟩, .reg ⟨3, false⟩, ⟨192, false⟩⟩,
    .vmulwI32 ⟨g0, 191, ⟨2, false⟩, .reg ⟨3, false⟩⟩, .faddF64 g0 2 191 4 .rn, .trd g0 192 0 0] : List Instr).all
      (fun i => !i.wf) = true := by decide

theorem test_ill_formed_memory : ([.ldL1 g0 1 ⟨4, .vec ⟨192, false⟩, 0, .k14 0⟩ .w4, .ldGm g0 191 m0 .x64, .stGm g0 ⟨2, true⟩ m0 .x64,
    .stL2 g0 ⟨192, false⟩ m0 .w4, .lduL1 1 ⟨4, .vec ⟨1, false⟩, 0, .k14 0⟩ .w4,
    .atAdd ⟨g0, 1, 4, .none, 0, ⟨2, false⟩, 0, .l1, .acq⟩, .atXchg64 ⟨g0, 1, 4, .none, 0, ⟨2, true⟩, 0, .gm, .rlx⟩,
    .atXchg64 ⟨g0, 191, 4, .none, 0, ⟨2, false⟩, 0, .gm, .rlx⟩, .atAdd ⟨g0, 192, 4, .none, 0, ⟨2, false⟩, 0, .l1, .rlx⟩,
    .atCas ⟨g0, 1, 4, .none, 0, ⟨2, false⟩, 0, .l1, .rlx⟩ ⟨192, false⟩,
    .atCas64 ⟨g0, 1, 4, .none, 0, ⟨2, false⟩, 0, .l1, .rlx⟩ ⟨6, true⟩] : List Instr).all (fun i => !i.wf) = true := by decide

theorem test_ill_formed_values : ([.vrel 0, .vclaim 12, .vclaimNb 1 192, .movsr 1 0x0B, .movsr 1 0x18, .movsr 1 0x24, .movsr 1 0x34,
    .movrs 1 0x11, .pmovSp 1 2 3, .pmovPs 1 2 3, .spinfo 1 3, .perfclass 1 3] : List Instr).all (fun i => !i.wf) = true := by decide

/-- PAIR (R48, R49): a reserved mini-opcode, a rounding on an integer operation, slots that no operation allows, a used slot
C or B of a unary operation, dependence both ways, one destination, one bank (v4 and v10), two conversions. -/
theorem test_ill_formed_pairs : ([.pair (half 0x1B 1 2 3) (half 1 8 9 5), .pair { half 1 1 2 3 with m2 := 1 } (half 1 8 10 5),
    .pair (half 1 192 2 3) (half 1 8 10 5), .pair (half 1 1 192 3) (half 1 8 10 5), .pair (half 1 1 2 192) (half 1 8 10 5),
    .pair { half 1 1 2 3 with c := 7 } (half 1 8 10 5), .pair (half 9 1 2 3) (half 1 8 10 5),
    .pair (half 1 1 2 3) (half 1 8 1 5), .pair (half 1 8 2 3) (half 1 3 10 5), .pair (half 1 1 2 3) (half 1 1 10 5),
    .pair (half 1 1 4 3) (half 1 8 10 5), .pair (half 0x40 1 2 0) (half 0x50 8 10 0)] : List Instr).all
      (fun i => !i.wf) = true ∧ (Instr.pair (half 1 1 2 3) (half 1 8 10 5)).wf = true := by decide

/-! ### A small machine: one plot of two gangs on core 0, its first gang at 0x1000 with all lanes -/

def launch0 : Launch := ⟨0, 0, 0, 0, 0, [], [], 0, [], 0, 0, 0, 0⟩
def tmpl0 : Template := ⟨0x1000, 0, 2, 16, 192, 4096, 0, 2, 0, false, 0, []⟩
def plot0 : Plot := Plot.launch 0 1 0 0 0 0 0 tmpl0 launch0
def gang0 : Gang := Gang.launch plot0 0 0
def gang1 : Gang := Gang.launch plot0 1 0
def slot0 : PcSlot := PcSlot.fresh 0x1000 (BitVec.allOnes 96)

/-- The state with these gangs of the plot, the first executing a word in slot A. -/
def stateOf (P : Plot) (G H : Gang) : State :=
  { State.reset with cur := .gang 0 0 .A, plots := [(0, P)], gangs := [(0, G), (1, H)], cores := [(0, Core.fresh)] }

def s0 : State := stateOf plot0 gang0 gang1
def x0 : Issuer := ⟨plot0, gang0, .A, slot0⟩

/-- The gang with scalars and with registers that hold one word in all lanes. -/
def put (G : Gang) (ss : List (Nat × Word64)) (vs : List (Nat × Word)) : Gang :=
  { G with s := ss.foldl (fun r q => r.setIfInBounds q.1 q.2) G.s, v := vs.foldl (fun r q => r.set q.1 (Vector.replicate 96 q.2)) G.v }

/-- What a word answers, as the first gang stands after it. -/
noncomputable def after (P : Plot) (G : Gang) (i : Instr) : Option Gang :=
  match exec i (stateOf P G gang1) with
  | .next t => t.gang? 0 0
  | _ => none

noncomputable def vecAfter (G : Gang) (i : Instr) (n lane : Nat) : Option Nat := (after plot0 G i).map fun H => (laneAt (H.vreg n) lane).toNat
noncomputable def sclAfter (G : Gang) (i : Instr) (n : SReg) : Option Nat := (after plot0 G i).map fun H => (H.rs slot0 n).toNat
noncomputable def slotAfter (G : Gang) (i : Instr) : Option (Option (Word64 × Mask × Wait) × Option (Word64 × Mask × Wait)) :=
  (after plot0 G i).map fun H => (slotView H.a, slotView H.b)
noncomputable def causeAfter (G : Gang) (i : Instr) : Option Nat := (after plot0 G i).map fun H => H.tcause.toNat % 256

theorem test_vadd : vecAfter (put gang0 [] [(2, 0xFFFFFFFF), (3, 2)]) (.vadd ⟨g0, 1, ⟨2, false⟩, .reg ⟨3, false⟩⟩) 1 95 = some 1 := by decide
theorem test_sadd : sclAfter (put gang0 [(8, 0xFFFFFFFFFFFFFFFF), (9, 3)] []) (.sadd ⟨10, 8, .reg 9⟩) 10 = some 2 := by decide
theorem test_fadd : vecAfter (put gang0 [] [(2, 0x3F800000), (3, 0x33800000)]) (.faddF32 ⟨g0, 1, ⟨2, false⟩, .reg ⟨3, false⟩⟩ .rn) 1 0 = some 0x3F800000 := by decide

/-! ### Vector integer words (R102 to R106) -/

def vb (a b : VReg) : VBin := ⟨g0, 1, ⟨a, false⟩, .reg ⟨b, false⟩⟩
def vk (a : VReg) (k : BitVec 10) : VBin := ⟨g0, 1, ⟨a, false⟩, .e10 k⟩

theorem test_vaddc_carry : vecAfter (put gang0 [] [(2, 0xFFFFFFFF), (3, 1)]) (.vaddc (vb 2 3)) 1 0 = some 1 := by decide
theorem test_vadds_saturates : vecAfter (put gang0 [] [(2, 0x80000000), (3, 0xFFFFFFFF)]) (.vaddsI32 (vb 2 3)) 1 0 = some 0x80000000 := by decide
theorem test_vmulh_signed : vecAfter (put gang0 [] [(2, 0xFFFFFFFF), (3, 2)]) (.vmulhI32 (vb 2 3)) 1 0 = some 0xFFFFFFFF := by decide
theorem test_vmulh_unsigned : vecAfter (put gang0 [] [(2, 0xFFFFFFFF), (3, 2)]) (.vmulhN32 (vb 2 3)) 1 0 = some 1 := by decide
/-- vD is also vA: the high half is still of the old value (R102). -/
theorem test_vmulw_own_source : vecAfter (put gang0 [] [(2, 0xFFFFFFFE), (3, 3)]) (.vmulwI32 ⟨g0, 2, ⟨2, false⟩, .reg ⟨3, false⟩⟩) 2 0 = some 0xFFFFFFFA ∧
    vecAfter (put gang0 [] [(2, 0xFFFFFFFE), (3, 3)]) (.vmulwI32 ⟨g0, 2, ⟨2, false⟩, .reg ⟨3, false⟩⟩) 3 0 = some 0xFFFFFFFF := by decide
theorem test_vmad : vecAfter (put gang0 [] [(2, 7), (3, 5), (4, 0xFFFFFFFF)]) (.vmad ⟨g0, 1, ⟨2, false⟩, .reg ⟨3, false⟩, ⟨4, false⟩⟩) 1 0 = some 34 := by decide
theorem test_vmin_signed : vecAfter (put gang0 [] [(2, 1)]) (.vminI32 (vk 2 0x3FF)) 1 0 = some 0xFFFFFFFF := by decide
theorem test_vmin_unsigned : vecAfter (put gang0 [] [(2, 1)]) (.vminN32 (vk 2 0x3FF)) 1 0 = some 1 := by decide
theorem test_vabs_min : vecAfter (put gang0 [] [(2, 0x80000000)]) (.vabs ⟨g0, 1, ⟨2, false⟩⟩) 1 0 = some 0x80000000 := by decide
theorem test_vsra_amount : vecAfter (put gang0 [] [(2, 0x80000000)]) (.vsra (vk 2 33)) 1 0 = some 0xC0000000 := by decide
theorem test_vrot : vecAfter (put gang0 [] [(2, 0x80000001)]) (.vrot (vk 2 4)) 1 0 = some 0x18 := by decide
theorem test_vclz_zero : vecAfter gang0 (.vclz ⟨g0, 1, ⟨2, false⟩⟩) 1 0 = some 32 := by decide
theorem test_vbrev : vecAfter (put gang0 [] [(2, 0x80000002)]) (.vbrev ⟨g0, 1, ⟨2, false⟩⟩) 1 0 = some 0x40000001 := by decide
theorem test_vadd_halves : vecAfter (put gang0 [] [(2, 0x0001FFFF), (3, 0xFFFF0001)]) (.vaddI16x2 (vb 2 3)) 1 0 = some 0 := by decide
theorem test_vdot_signed : vecAfter (put gang0 [] [(2, 0xFF000002), (3, 0x02000003), (4, 1)]) (.vdot4I8 ⟨g0, 1, ⟨2, false⟩, ⟨3, false⟩, ⟨4, false⟩⟩) 1 0 = some 5 := by decide
/-- Under an inverted p0 no lane is active, and the word still ends (R43). -/
theorem test_vmovi_no_lane : vecAfter (put gang0 [] [(1, 9)]) (.vmovi ⟨0, true⟩ 1 (.k32 5)) 1 0 = some 9 ∧
    slotAfter gang0 (.vmovi ⟨0, true⟩ 1 (.k32 5)) = some (some (0x100C, BitVec.allOnes 96, .none), none) := by decide
theorem test_vlane : vecAfter gang0 (.vlane g0 1) 1 95 = some 95 := by decide
theorem test_vshfl_rot : (after plot0 { gang0 with v := gang0.v.set 2 (Vector.ofFn fun i => BitVec.ofNat 32 i.val) } (.vshflRot ⟨g0, 1, ⟨2, false⟩, .e10 2⟩)).map
    (fun H => ((laneAt (H.vreg 1) 0).toNat, (laneAt (H.vreg 1) 95).toNat)) = some (2, 1) := by decide
theorem test_vshfl_up : (after plot0 { gang0 with v := gang0.v.set 2 (Vector.ofFn fun i => BitVec.ofNat 32 i.val) } (.vshflUp ⟨g0, 1, ⟨2, false⟩, .e10 2⟩)).map
    (fun H => ((laneAt (H.vreg 1) 1).toNat, (laneAt (H.vreg 1) 2).toNat)) = some (1, 0) := by decide
theorem test_vred_max_empty : sclAfter gang0 (.vredMaxI32 ⟨0, true⟩ 10 ⟨2, false⟩) 10 = some 0xFFFFFFFF80000000 := by decide
theorem test_vred_add : sclAfter (put gang0 [] [(2, 0x80000000)]) (.vredAdd g0 10 ⟨2, false⟩) 10 = some 0 := by decide
theorem test_vext_outside : sclAfter (put gang0 [(8, 96), (10, 5)] [(2, 7)]) (.vext 10 ⟨2, false⟩ 8) 10 = some 0 := by decide
theorem test_vins : vecAfter (put gang0 [(8, 95), (9, 0x100000007)] []) (.vins 1 9 8) 1 95 = some 7 := by decide
/-- The plot's budget of 192 less two windows of 16 leaves 160 in reserve (R97, R107, R108). -/
theorem test_vquery : sclAfter gang0 (.vquery 10) 10 = some (192 * 2 ^ 32 + 160 * 2 ^ 16 + 16) := by decide
theorem test_vclaim_nb : (after plot0 gang0 (.vclaimNb 10 8)).map (fun H => (H.nv, H.rs slot0 10)) = some (24, 0) ∧
    (after plot0 gang0 (.vclaimNb 10 168)).map (fun H => (H.nv, H.rs slot0 10)) = some (16, 1) := by decide
theorem test_vrel_bounds : causeAfter gang0 (.vrel 16) = some 3 ∧ (after plot0 gang0 (.vrel 8)).map (·.nv) = some 8 := by decide

/-! ### Scalar and predicate words (R110, R111) -/

def sb (a b : SReg) : SBin := ⟨10, a, .reg b⟩

theorem test_sdiv_overflow : sclAfter (put gang0 [(8, 0x8000000000000000), (9, 0xFFFFFFFFFFFFFFFF)] []) (.sdivI64 (sb 8 9)) 10 = some 0x8000000000000000 := by decide
theorem test_sdiv_zero : sclAfter (put gang0 [(8, 5)] []) (.sdivI64 (sb 8 0)) 10 = some 0xFFFFFFFFFFFFFFFF ∧
    sclAfter (put gang0 [(8, 5)] []) (.sremI64 (sb 8 0)) 10 = some 5 := by decide
theorem test_srem_sign : sclAfter (put gang0 [(8, 0xFFFFFFFFFFFFFFF9), (9, 2)] []) (.sremI64 (sb 8 9)) 10 = some 0xFFFFFFFFFFFFFFFF := by decide
theorem test_smulh_signed : sclAfter (put gang0 [(8, 0xFFFFFFFFFFFFFFFF), (9, 2)] []) (.smulhI64 (sb 8 9)) 10 = some 0xFFFFFFFFFFFFFFFF := by decide
theorem test_sadd_immediate : sclAfter (put gang0 [(8, 5)] []) (.sadd ⟨10, 8, .e10 0x3FD⟩) 10 = some 2 := by decide
theorem test_sadd_discards : sclAfter (put gang0 [(8, 5)] []) (.sadd ⟨0, 8, .reg 8⟩) 0 = some 0 := by decide
theorem test_sbfe : sclAfter (put gang0 [(8, 0xABCD), (9, 4), (11, 8)] []) (.sbfe 10 8 9 11) 10 = some 0xBC := by decide
theorem test_sbfi : sclAfter (put gang0 [(8, 0xF), (9, 60), (11, 127), (10, 1)] []) (.sbfi 10 8 9 11) 10 = some 0xF000000000000001 := by decide
theorem test_slea : sclAfter (put gang0 [(8, 5), (9, 3)] []) (.slea (sb 8 9) 3) 10 = some 29 := by decide
theorem test_ssel : sclAfter (put gang0 [(8, 5), (9, 3)] []) (.ssel 10 8 9 0) 10 = some 3 := by decide
theorem test_scmp_unsigned : sclAfter (put gang0 [(8, 0xFFFFFFFFFFFFFFFF), (9, 3)] []) (.scmpLtN64 (sb 8 9)) 10 = some 0 ∧
    sclAfter (put gang0 [(8, 0xFFFFFFFFFFFFFFFF), (9, 3)] []) (.scmpLtI64 (sb 8 9)) 10 = some 1 := by decide
theorem test_smovi : sclAfter gang0 (.smovi 10 (.i26 0x3FFFFFF)) 10 = some 0xFFFFFFFFFFFFFFFF := by decide
theorem test_pmov_ps : (after plot0 (put gang0 [(8, 0x1FFFFFFFF)] []) (.pmovPs 3 8 1)).map (fun H => (H.rp 3).toNat) = some 0xFFFFFFFF00000000 := by decide
theorem test_pnot_discards : (after plot0 gang0 (.pnot g0 0 0)).map (fun H => H.rp 0) = some (BitVec.allOnes 96) := by decide
theorem test_ppopc : sclAfter gang0 (.ppopc 10 0) 10 = some 96 := by decide
theorem test_movrs_misaligned : causeAfter (put gang0 [(8, 0x20)] []) (.movrs 8 0x10) = some 2 ∧
    (after plot0 (put gang0 [(8, 0x40)] []) (.movrs 8 0x10)).map (·.tentry) = some 0x40 := by decide

/-! ### Floating point (R131 to R137) -/

theorem test_fma_one_rounding : vecAfter (put gang0 [] [(2, 0x3F800001), (3, 0x3F800001), (4, 0xBF800002)])
    (.fmaF32 ⟨g0, 1, ⟨2, false⟩, .reg ⟨3, false⟩, ⟨4, false⟩⟩ .rn) 1 0 = some 0x28800000 := by decide
theorem test_fadd_invalid : vecAfter (put gang0 [] [(2, 0x7F800000), (3, 0xFF800000)]) (.faddF32 (vb 2 3) .rn) 1 0 = some 0x7FC00000 := by decide
theorem test_fadd_up : vecAfter (put gang0 [] [(2, 0x3F800000), (3, 0x00000001)]) (.faddF32 (vb 2 3) .ru) 1 0 = some 0x3F800001 := by decide
theorem test_fmin_zero : vecAfter (put gang0 [] [(2, 0), (3, 0x80000000)]) (.fminF32 (vb 2 3)) 1 0 = some 0x80000000 := by decide
theorem test_fmax_nan : vecAfter (put gang0 [] [(2, 0x7FA00000), (3, 0xBF800000)]) (.fmaxF32 (vb 2 3)) 1 0 = some 0xBF800000 := by decide
theorem test_fsat_nan : vecAfter (put gang0 [] [(2, 0x7FC00000)]) (.fsatF32 ⟨g0, 1, ⟨2, false⟩⟩) 1 0 = some 0 := by decide
theorem test_fclass_signalling : vecAfter (put gang0 [] [(2, 0xFF800001)]) (.fclass ⟨g0, 1, ⟨2, false⟩⟩) 1 0 = some 0x100 := by decide
theorem test_frnd_even : vecAfter (put gang0 [] [(2, 0x40200000)]) (.frnd ⟨g0, 1, ⟨2, false⟩⟩ .rn) 1 0 = some 0x40000000 := by decide
theorem test_fmul_f64 : (after plot0 (put gang0 [] [(3, 0x3FF80000), (5, 0x40000000)]) (.fmulF64 g0 6 2 4 .rn)).map
    (fun H => ((laneAt (H.vreg 6) 0).toNat, (laneAt (H.vreg 7) 0).toNat)) = some (0, 0x40080000) := by decide
theorem test_fdot2 : vecAfter (put gang0 [] [(2, 0x3C004000), (3, 0x3C003C00), (4, 0x3F800000)]) (.fdot2F16 ⟨g0, 1, ⟨2, false⟩, ⟨3, false⟩, ⟨4, false⟩⟩ .rn) 1 0 =
    some 0x40800000 := by decide
theorem test_cvt_saturates : vecAfter (put gang0 [] [(2, 0x7F800000)]) (.cvtI32F32 ⟨g0, 1, ⟨2, false⟩⟩ .rz) 1 0 = some 0x7FFFFFFF ∧
    vecAfter (put gang0 [] [(2, 0xFFC00000)]) (.cvtI32F32 ⟨g0, 1, ⟨2, false⟩⟩ .rz) 1 0 = some 0 := by decide
/-- A queued word writes nothing yet: its entry has the result and the lanes (R142, R143). -/
theorem test_idiv_queue : (match exec (.idivI32 (vb 2 3)) (stateOf plot0 (put gang0 [] [(2, 7), (3, 0xFFFFFFFE)]) gang1) with
    | .next t => (((t.cores.find 0).map fun c => c.sfq.map fun e => (e.dest, (laneAt e.val 0).toNat)), (t.gang? 0 0).map fun H => (laneAt (H.vreg 1) 0).toNat)
    | _ => (none, none)) = (some [(1, 0xFFFFFFFD)], some 0) := by decide

/-! ### Scratchpads (R149 to R161) -/

theorem test_ld_sign : vecAfter gang0 (.ldL1 g0 1 ⟨0, .none, 0, .k14 0⟩ .x8) 1 0 = some 0 := by decide
/-- Lane i stores to 4096 − 4 × 96 + 4i; one more word would cross the end (R150). -/
theorem test_st_bounds : causeAfter (put gang0 [(8, 4096)] []) (.stL1 g0 ⟨2, false⟩ ⟨8, .none, 0, .k14 0⟩ .w4) = some 5 ∧
    causeAfter (put gang0 [(8, 2)] []) (.stL1 g0 ⟨2, false⟩ ⟨8, .none, 0, .k14 0⟩ .w4) = some 4 ∧
    causeAfter gang0 (.ldL2 g0 1 ⟨0, .none, 0, .k14 0⟩ .w4) = some 6 := by decide
theorem test_at_add : (match exec (.atAdd ⟨g0, 1, 8, .none, 0, ⟨2, false⟩, 0, .l1, .rlx⟩) (stateOf plot0 (put gang0 [(8, 256)] [(2, 1)]) gang1) with
    | .next t => ((t.plot? 0).map fun P => P.bower.nat 256 4, (t.gang? 0 0).map fun H => (laneAt (H.vreg 1) 95).toNat)
    | _ => (none, none)) = (some 96, some 95) := by decide

/-! ### Control (R65 to R87) and traps -/

/-- BRC on lanes 0 to 31 splits: they go to slot B, the others on (R65). -/
theorem test_brc_splits : slotAfter { gang0 with p := gang0.p.set 1 0xFFFFFFFF } (.brc ⟨1, false⟩ 16) =
    some (some (0x1008, 0xFFFFFFFFFFFFFFFF00000000, .none), some (0x1040, 0xFFFFFFFF, .none)) := by decide
theorem test_bra_align : causeAfter gang0 (.bra 1) = some 2 ∧ slotAfter gang0 (.bra 0x3FFFFF0) = some (some (0xFC0, BitVec.allOnes 96, .none), none) := by decide
theorem test_call_link : (after plot0 gang0 (.call 10 16)).map (fun H => (H.rs slot0 10, H.a.map (·.pc))) = some (0x1008, some 0x1040) := by decide
theorem test_join_alone : slotAfter gang0 .join = some (some (0x1008, BitVec.allOnes 96, .none), none) := by decide
theorem test_sleep : slotAfter gang0 (.sleep 5) = some (some (0x1000, BitVec.allOnes 96, .sleep 5), none) := by decide
/-- The first member of circle 0 waits; a circle that is not there is misuse 1 (R83). -/
theorem test_bar : slotAfter gang0 (.bar 0) = some (some (0x1000, BitVec.allOnes 96, .bar 0), none) ∧ causeAfter gang0 (.bar 1) = some 0x16 := by decide
theorem test_exit : (after plot0 gang0 (.exit g0)).map (fun H => (H.a, H.exited, decide (H.life = .running))) = some (none, BitVec.allOnes 96, false) := by decide
/-- TRAP with a handler: the saved PC is past the word, the slot runs the handler (R343, R350). -/
theorem test_trap_entry : (after plot0 { gang0 with tentry := 0x2000 } (.trap 7)).map (fun H => (H.tpca, H.a.map (·.pc), H.tinfo.toNat % 2 ^ 26)) =
    some (0x1008, some 0x2000, 7) := by decide
theorem test_tret_outside : causeAfter gang0 .tret = some 1 := by decide

/-! ### Global memory, engines and the rest -/

/-- A store goes to the buffer, its bytes by line (R167, R170). -/
theorem test_st_gm : (after plot0 (put gang0 [(8, 0x3C)] [(2, 0x11223344)]) (.stGm ⟨1, true⟩ ⟨2, false⟩ ⟨8, .none, 0, .k14 0⟩ .w4)).map
    (fun H => H.sbuf.map fun l => (l.line, l.bytes)) = some [(0, [(60, 0x44), (61, 0x33), (62, 0x22), (63, 0x11)])] := by decide
theorem test_ld_gm_absent : causeAfter (put gang0 [(8, 0x10000000000000)] []) (.ldGm g0 1 ⟨8, .none, 0, .k14 0⟩ .w4) = some 7 := by decide
theorem test_waitoc_passes : slotAfter gang0 (.waitoc 0 0) = some (some (0x1008, BitVec.allOnes 96, .none), none) := by decide
theorem test_rainit : (match exec (.rainit 8 9 11 2) (stateOf plot0 (put gang0 [(8, 64), (9, 128), (11, 256)] []) gang1) with
    | .next t => (t.plot? 0).map fun P => (P.bower.nat 64 4, P.bower.nat 68 4, P.bower.nat 72 1)
    | _ => none) = some (128, 256, 2) := by decide
theorem test_tzero_absent : causeAfter gang0 (.tzero 2) = some 0x11 := by decide
theorem test_perfclass : (match exec (.perfclass 10 2) s0 with
    | .next t => (t.plot? 0).map (·.req)
    | _ => none) = some 2 := by decide

/-! ### Machine steps and the rest of the part -/

theorem test_sleep_expires : (match exec (.sleepExpire 0 0 .A) { stateOf plot0 { gang0 with a := some { slot0 with wait := .sleep 5 } } gang1 with ticks := 5 } with
    | .next t => (t.gang? 0 0).map fun H => slotView H.a
    | _ => none) = some (some (0x1008, BitVec.allOnes 96, .none)) := by decide
/-- The offset is in bytes; a target that is not 8-byte aligned stops the stream (R238). -/
def seqState : State := { s0 with cur := .stream 0, plots := [(0, { plot0 with stream := { plot0.stream with state := .run, pc := 0x4000 } })] }
noncomputable def streamAfter (i : Instr) : Option (Nat × SqState × Nat) :=
  match exec i seqState with
  | .next t => (t.plot? 0).map fun P => (P.stream.pc.toNat, P.stream.state, P.stream.reason.toNat)
  | _ => none
theorem test_sqjmp : streamAfter (.sqjmp 0xFFFFFFF8) = some (0x3FF8, .run, 0) ∧ streamAfter (.sqjmp 4) = some (0x4000, .fault, 4) := by decide
theorem test_sqloop : streamAfter (.sqloop 0 0xFFF0 2) = some (0x3FF0, .run, 0) ∧ streamAfter (.sqloop 0 0xFFF0 1) = some (0x4008, .run, 0) := by decide
theorem test_hard_trip : [114, 115].map (fun n => match exec .hardTrip { State.reset with clusters := [(0, { Cluster.fresh 0 with temp := n })] } with
    | .next t => t.power
    | _ => true) = [true, false] := by decide
theorem test_power_off : step { State.reset with power := false } = .fault .powerOff := rfl
/-- The firmware runs, and its access tables let every master read, write and change the supervisor interface and the security engine. -/
def opened (s : State) : State :=
  { s with fw := { s.fw with boot := .running
                             access := (List.range 10).flatMap fun m => [((targetSupervisor, m), 7), ((targetSecurity, m), 7)] } }
theorem test_routing_claim : (match exec (.routingClaim .thermal .host) (opened State.reset) with
    | .next t => (t.fw.route .thermal, t.fw.answer)
    | _ => ((0, none), .none)) = ((0, some .host), .ok) := by decide

/-! ### Witnesses: states and operands that meet the statements' hypotheses together -/

/-- A state in which the first gang's slot A is about to execute a word, and the issuer it has. -/
def Fits (P : Plot) (G : Gang) (S : PcSlot) (vs ss : List Nat) : Prop :=
  Ready (stateOf P G gang1) ⟨P, G, .A, S⟩ ∧ CanIssue (stateOf P G gang1) ⟨P, G, .A, S⟩ vs ss

/-- The highest register of the window, in every position, with and without an immediate. -/
theorem witness_VectorIntegerWords :
    Fits plot0 gang0 slot0 (vb 15 14).names [] ∧ Fits plot0 gang0 slot0 (vk 15 0x3FF).names [] ∧
    Fits plot0 gang0 slot0 (VSrc.names (.k32 7)) [] ∧ Fits plot0 gang0 slot0 (V3.names ⟨⟨7, true⟩, 0, ⟨15, true⟩, ⟨1, false⟩, ⟨2, false⟩⟩) [] ∧
    Fits plot0 gang0 slot0 (VTri.names ⟨g0, 1, ⟨2, false⟩, .reg ⟨3, false⟩, ⟨4, false⟩⟩) [] ∧ Fits plot0 gang0 slot0 (VUn.names ⟨g0, 1, ⟨15, true⟩⟩) [] ∧
    Fits plot0 gang0 slot0 ((VBin.names ⟨g0, 14, ⟨2, false⟩, .reg ⟨3, false⟩⟩) ++ [15]) [] ∧ Fits plot0 gang0 slot0 [15] [63] := by
  refine ⟨?_, ?_, ?_, ?_, ?_, ?_, ?_, ?_⟩ <;> exact ⟨⟨rfl, rfl, rfl, rfl⟩, by decide, by decide⟩

theorem witness_ShufflesAndReductions :
    Fits plot0 (put gang0 [] [(3, 0xFFFFFFFF)]) slot0 (vb 2 3).names [] ∧ Fits plot0 gang0 slot0 [2] [10] ∧
    Fits plot0 (put gang0 [(8, 95)] []) slot0 [2] [10, 8] ∧ Fits plot0 (put gang0 [(8, 96)] []) slot0 [2] [9, 8] := by
  refine ⟨?_, ?_, ?_, ?_⟩ <;> exact ⟨⟨rfl, rfl, rfl, rfl⟩, by decide, by decide⟩

/-- A release of the whole window and one more; a claim to 192 and one more; with a claim queued before, and with none. -/
theorem witness_PoolWords :
    (Fits plot0 gang0 slot0 [] [] ∧ gang0.nv < (9 : BitVec 10).toNat + 8 ∧ ¬ gang0.nv < (8 : BitVec 10).toNat + 8 ∧
      (∀ k < 8, s0.busyV plot0.core gang0 (gang0.nv - 8 + k) = false) ∧ slot0.wait ≠ .vclaim ∧ 192 < gang0.nv + (177 : BitVec 10).toNat ∧
      ¬ 192 < gang0.nv + (176 : BitVec 10).toNat) ∧
    (Fits plot0 gang0 slot0 [] [63] ∧ plot0.claims = [] ∧ (160 : BitVec 10).toNat ≤ plot0.reserve ∧ plot0.reserve < (161 : BitVec 10).toNat) ∧
    (Fits { plot0 with claims := [⟨1, .A, 170⟩] } gang0 slot0 [] [10]) :=
  ⟨⟨⟨⟨rfl, rfl, rfl, rfl⟩, by decide, by decide⟩, by decide⟩, ⟨⟨⟨rfl, rfl, rfl, rfl⟩, by decide, by decide⟩, by decide⟩, ⟨rfl, rfl, rfl, rfl⟩, by decide, by decide⟩

theorem witness_ScalarWords :
    Fits plot0 (put gang0 [(8, 5), (9, 63), (11, 127)] []) slot0 [] [10, 8, 9, 11] ∧ Fits plot0 gang0 slot0 [] ([60, 63] ++ SSrc.uses (.reg 62)) ∧
    Fits plot0 gang0 slot0 [] ([0, 8] ++ SSrc.uses (.e10 0x200)) := by
  refine ⟨?_, ?_, ?_⟩ <;> exact ⟨⟨rfl, rfl, rfl, rfl⟩, by decide, by decide⟩

/-- With a fault at the target in the plot's hands, and with a register that is aligned, and one that is not. -/
theorem witness_PredicatesAndSpecialRegisters :
    Fits plot0 gang0 slot0 [] [] ∧ Fits { plot0 with target := some 3, handler := 0 } gang0 slot0 [] [10] ∧ (2 : BitVec 2) ≠ 3 ∧
    (Fits plot0 (put gang0 [(8, 64)] []) slot0 [] [8] ∧ ((put gang0 [(8, 64)] []).rs slot0 8).toNat % 64 = 0) ∧
    (Fits plot0 (put gang0 [(8, 63)] []) slot0 [] [8] ∧ ¬ ((put gang0 [(8, 63)] []).rs slot0 8).toNat % 64 = 0) :=
  ⟨⟨⟨rfl, rfl, rfl, rfl⟩, by decide, by decide⟩, ⟨⟨rfl, rfl, rfl, rfl⟩, by decide, by decide⟩, by decide,
    ⟨⟨⟨rfl, rfl, rfl, rfl⟩, by decide, by decide⟩, by decide⟩, ⟨⟨rfl, rfl, rfl, rfl⟩, by decide, by decide⟩, by decide⟩

theorem witness_FloatPatternsRoundTrip : f16 ∈ [f32, f64, f16, bf16] ∧ 0x7C01 < 2 ^ (1 + f16.eb + f16.fb) ∧ 0xFC00 < 2 ^ (1 + f16.eb + f16.fb) := by decide

theorem witness_SinglePrecisionWords :
    Fits plot0 gang0 slot0 (VTri.names ⟨g0, 1, ⟨2, false⟩, .e10 0x200, ⟨4, true⟩⟩) [] ∧ Fits plot0 gang0 slot0 (VCmp.names ⟨g0, 0, ⟨2, false⟩, .reg ⟨15, false⟩⟩) [] := by
  refine ⟨?_, ?_⟩ <;> exact ⟨⟨rfl, rfl, rfl, rfl⟩, by decide, by decide⟩

theorem witness_PairsPackedAndConversions :
    Fits plot0 gang0 slot0 ([14, 12, 10, 8].flatMap fun r => [r, r + 1]) [] ∧ Fits plot0 gang0 slot0 (2 :: [14, 15]) [] ∧ Fits plot0 gang0 slot0 [2, 1] [8] := by
  refine ⟨?_, ?_, ?_⟩ <;> exact ⟨⟨rfl, rfl, rfl, rfl⟩, by decide, by decide⟩

/-- An entry of the special-function queue, whose head writes register 1 of the first gang. -/
def entry0 : SfqEntry := ⟨gangKey 0 0, 1, BitVec.allOnes 96, Vector.replicate 96 5⟩
def withQueue (l : List SfqEntry) (s : State) : State := s.setCore 0 { s.core 0 with sfq := l }

/-- A queue with room, the same queue full, and an entry that completes; the pattern cases at their ends. -/
theorem witness_SpecialFunctions :
    (Ready s0 x0 ∧ CanIssue s0 x0 (vb 2 3).names [] ∧ (s0.core plot0.core).sfq.length < 32) ∧
    (Ready (withQueue (List.replicate 32 entry0) s0) x0 ∧ CanIssue (withQueue (List.replicate 32 entry0) s0) x0 [2, 3] [] ∧
      ¬ ((withQueue (List.replicate 32 entry0) s0).core plot0.core).sfq.length < 32) ∧
    (((withQueue [entry0] s0).core 0).sfq = [entry0] ∧ (withQueue [entry0] s0).gangs.find entry0.gang = some gang0 ∧ entry0.dest.toNat < gang0.nv) ∧
    2 ^ 31 < (0x80000001 : Word).toNat ∧ 0x7F800000 < (0xFF800001 : Word).toNat % 2 ^ 31 ∧
    ((0x7F800000 : Word).toNat % 2 ^ 31 ≠ 0 ∧ (0x7F800000 : Word).toNat % 2 ^ 31 ≤ 0x7F800000) :=
  ⟨⟨⟨rfl, rfl, rfl, rfl⟩, ⟨by decide, by decide⟩, by decide⟩, ⟨⟨rfl, rfl, rfl, rfl⟩, ⟨by decide, by decide⟩, by decide⟩, ⟨rfl, rfl, by decide⟩, by decide⟩


/-- Two plain halves, and a queued one beside a plain one, with the queue open and full. -/
theorem witness_PairHalves :
    ((half 1 1 2 3).wf = true ∧ (half 1 8 10 5).wf = true ∧ halvesOk (half 1 1 2 3) (half 1 8 10 5) = true ∧
      Fits plot0 gang0 slot0 (halfUses (half 1 1 2 3) ++ halfUses (half 1 8 10 5)) [] ∧
      queued (half 1 1 2 3) = false ∧ queued (half 1 8 10 5) = false) ∧
    ((half 0x50 4 2 0).wf = true ∧ halvesOk (half 0x50 4 2 0) (half 1 8 10 5) = true ∧ halvesOk (half 1 8 10 5) (half 0x50 4 2 0) = true ∧
      Fits plot0 gang0 slot0 (halfUses (half 0x50 4 2 0) ++ halfUses (half 1 8 10 5)) [] ∧ queued (half 0x50 4 2 0) = true ∧
      (s0.core plot0.core).sfq.length < 32 ∧ Ready (withQueue (List.replicate 32 entry0) s0) x0 ∧
      CanIssue (withQueue (List.replicate 32 entry0) s0) x0 (halfUses (half 0x50 4 2 0) ++ halfUses (half 1 8 10 5)) [] ∧
      32 ≤ ((withQueue (List.replicate 32 entry0) s0).core plot0.core).sfq.length) :=
  ⟨⟨by decide, by decide, by decide, ⟨⟨rfl, rfl, rfl, rfl⟩, by decide, by decide⟩, by decide⟩,
    by decide, by decide, by decide, ⟨⟨rfl, rfl, rfl, rfl⟩, by decide, by decide⟩, by decide, by decide, ⟨rfl, rfl, rfl, rfl⟩, ⟨by decide, by decide⟩, by decide⟩

/-- A state's slot whose word has its guard select no lane, and the plot's last block of the bower, and the blocks beside it;
a bower whose block 0 is an empty one that fails its check. -/
theorem witness_BlockWords :
    Fits plot0 gang0 slot0 [2] [8, 9] ∧ gang0.active slot0 g0 ≠ 0 ∧ gang0.active slot0 ⟨0, true⟩ = 0 ∧
    ((4032 : Int) % 64 = 0 ∧ 0 ≤ (4032 : Int) ∧ (4032 : Int) + 64 ≤ plot0.tmpl.l1s) ∧ ((4096 : Int) % 64 = 0 ∧ (plot0.tmpl.l1s : Int) < 4096 + 64) ∧
    ((put gang0 [(8, 4032)] []).rs slot0 8).toInt + (0 : BitVec 10).toInt * 64 = 4032 ∧
    ((put gang0 [(8, 4032)] []).rs slot0 8).toInt + (1 : BitVec 10).toInt * 64 = 4096 ∧
    ((∃ k ∈ [1008], (4032 : Int) ≤ 4 * (k : Nat) ∧ 4 * ((k : Nat) : Int) < 4032 + 64) ∧ ¬ ∃ k ∈ [1008], (3968 : Int) ≤ 4 * (k : Nat) ∧ 4 * ((k : Nat) : Int) < 3968 + 64) ∧
    blkCheck (plot0.bower.readN 0 64) anyFmt = some 1 ∧ blkCheck ((Store.empty.writeN 0 [1]).readN 0 64) anyFmt = none :=
  ⟨⟨⟨rfl, rfl, rfl, rfl⟩, by decide, by decide⟩, by decide⟩


/-- The plot with a granted pavilion region and a conservatory region. -/
def plotPads : Plot := { plot0 with pav := some ⟨1, 4096, 1⟩, cons := some ⟨2, 8192, 0⟩ }
def padsState : State := { stateOf plotPads gang0 gang1 with pads := [(1, ⟨1, 0, 0, 4096, Store.empty⟩), (2, ⟨2, 0, 0, 8192, Store.empty⟩)] }
def xPads : Issuer := ⟨plotPads, gang0, .A, slot0⟩

theorem witness_ScratchLoadsStoresAndUniform :
    (Fits plot0 (put gang0 [(8, 4088)] []) slot0 (Width.regs .x64 14) [8] ∧
      s0.scratch plot0 0 = some (plot0.bower, 4096) ∧
      AllPass (scrChecks plot0.bower 4096 8 fun _ => false) (gang0.active slot0 g0) (Issuer.scrAddr ⟨plot0, put gang0 [(8, 4088)] [], .A, slot0⟩ ⟨8, .none, 0, .k14 0⟩)) ∧
    (gang0.active slot0 ⟨0, true⟩ = 0 ∧ s0.scratch plot0 1 = none ∧ s0.scratch plot0 2 = none) ∧
    (Ready padsState xPads ∧ CanIssue padsState xPads [2, 15] [10, 0] ∧ (padsState.scratch plotPads 1).isSome = true ∧ (padsState.scratch plotPads 2).isSome = true ∧
      AllPass (scrChecks ⟨[], [0]⟩ 4096 4 (storeCovers 1 (xPads.scrAddr ⟨0, .none, 0, .k14 0⟩) 4)) 1 (xPads.scrAddr ⟨0, .none, 0, .k14 0⟩) ∧ (Idx.none).uniform = true ∧
      plotPads.pav = some ⟨1, 4096, 1⟩ ∧ (padsState.pads.find 1).isSome = true ∧ (padsState.pads.find 2).isSome = true) ∧
    FirstBad (scrChecks Store.empty 4096 4 fun _ => false) 1 (fun _ => 4096) ⟨0x05, 0, fun a => decide (a < 0 ∨ (4096 : Int) < a + (4 : Nat))⟩ 0 :=
  ⟨⟨⟨⟨rfl, rfl, rfl, rfl⟩, by decide, by decide⟩, by decide, by unfold AllPass; decide⟩, by decide,
    ⟨⟨rfl, rfl, rfl, rfl⟩, ⟨by decide, by decide⟩, by decide, by decide, by unfold AllPass; decide, by decide⟩,
    ⟨[⟨0x04, 0, _⟩], [⟨0x09, 0, _⟩], rfl, by unfold AllPass; decide, by decide⟩⟩

/-- A level without a grant, with lane 5 the lowest; and each check first to fail, in lane 0 at its least value. -/
theorem witness_ScratchpadTraps :
    (Fits plot0 { gang0 with p := gang0.p.set 1 0x20 } slot0 [2, 15] [8] ∧
      (let act := Gang.active { gang0 with p := gang0.p.set 1 0x20 } slot0 ⟨1, false⟩
       act.getLsbD 5 = true ∧ (∀ j < 5, act.getLsbD j = false) ∧ s0.scratch plot0 1 = none ∧ s0.scratch plot0 0 = some (plot0.bower, 4096))) ∧
    FirstBad (scrChecks plot0.bower 4096 4 fun _ => true) (BitVec.allOnes 96) (fun _ => 1) ⟨0x04, 0, fun a => decide (a % (4 : Nat) ≠ 0)⟩ 0 ∧
    FirstBad (scrChecks plot0.bower 4096 4 fun _ => true) (BitVec.allOnes 96) (fun _ => 4096) ⟨0x05, 0, fun a => decide (a < 0 ∨ ((4096 : Nat) : Int) < a + (4 : Nat))⟩ 0 ∧
    (Fits plot0 gang0 slot0 [2, 1] [8] ∧ Space.l1 ≠ .gm) :=
  ⟨⟨⟨⟨rfl, rfl, rfl, rfl⟩, by decide, by decide⟩, by decide⟩, ⟨[], [_, _], rfl, by unfold AllPass; decide, by decide⟩,
    ⟨[_], [_], rfl, by unfold AllPass; decide, by decide⟩, ⟨⟨rfl, rfl, rfl, rfl⟩, by decide, by decide⟩, by decide⟩

/-- Operands of an atomic, alone and with a comparison, as pairs, in a scratchpad. -/
def at0 (sp : Space) (r : AtOrd) : AtOps := ⟨g0, 4, 8, .none, 0, ⟨2, false⟩, 0, sp, r⟩
theorem witness_ScratchAtomics :
    Fits plot0 (put gang0 [(8, 4088)] []) slot0 ((at0 .l1 .rlx).names true (some ⟨14, false⟩)) [8] ∧ (at0 .l1 .rlx).space ≠ .gm ∧
    Gang.active (put gang0 [(8, 4088)] []) slot0 ⟨0, true⟩ = 0 ∧ s0.scratch plot0 (at0 .l2 .rlx).level = none ∧
    s0.scratch plot0 (at0 .l1 .rlx).level = some (plot0.bower, 4096) ∧
    AllPass (scrChecks plot0.bower 4096 8 fun _ => false) (BitVec.allOnes 96)
      (Issuer.atAddr ⟨plot0, put gang0 [(8, 4088)] [], .A, slot0⟩ (at0 .l1 .rlx) 4088) :=
  ⟨⟨⟨rfl, rfl, rfl, rfl⟩, by decide, by decide⟩, by decide, by decide, by decide, by decide, by unfold AllPass; decide⟩

/-- A global atomic at the first address, and each check of its address first to fail, at the least value that fails it. -/
theorem witness_GlobalAtomicsIssue :
    (Fits plot0 gang0 slot0 ((at0 .gm .ar).names true (some ⟨14, false⟩)) [8] ∧ (at0 .gm .ar).space = .gm ∧ gang0.fencing .A = false ∧ gang0.storing = false ∧
      gang0.active slot0 g0 ≠ 0 ∧ gang0.active slot0 ⟨0, true⟩ = 0 ∧ AllPass (gmChecks s0.domain 8 true) (BitVec.allOnes 96) (x0.atAddr (at0 .gm .ar) 0)) ∧
    (∃ ck, FirstBad (gmChecks [0] 8 true) 1 (fun _ => -1) ck 0) ∧ (∃ ck, FirstBad (gmChecks [0] 8 true) 1 (fun _ => 2 ^ 56) ck 0) ∧
    (∃ ck, FirstBad (gmChecks [0] 8 true) 1 (fun _ => 2 ^ 50) ck 0) ∧ (∃ ck, FirstBad (gmChecks [0] 8 true) 1 (fun _ => 2 ^ 52) ck 0) ∧
    (∃ ck, FirstBad (gmChecks [0] 8 true) 1 (fun _ => 2 ^ 51 + 0x800200000000) ck 0) ∧ (∃ ck, FirstBad (gmChecks [0] 8 true) 1 (fun _ => 4) ck 0) ∧
    (∃ ck, FirstBad (gmChecks [0] 8 true) 1 (fun _ => 2 ^ 51) ck 0) :=
  ⟨⟨⟨⟨rfl, rfl, rfl, rfl⟩, by decide, by decide⟩, by decide, by decide, by decide, by decide, by unfold AllPass; decide⟩,
    ⟨_, [], [_, _, _, _, _, _], rfl, by unfold AllPass; decide, by decide⟩, ⟨_, [_], [_, _, _, _, _], rfl, by unfold AllPass; decide, by decide⟩,
    ⟨_, [_, _], [_, _, _, _], rfl, by unfold AllPass; decide, by decide⟩, ⟨_, [_, _, _], [_, _, _], rfl, by unfold AllPass; decide, by decide⟩,
    ⟨_, [_, _, _, _], [_, _], rfl, by unfold AllPass; decide, by decide⟩, ⟨_, [_, _, _, _, _], [_], rfl, by unfold AllPass; decide, by decide⟩,
    ⟨_, [_, _, _, _, _, _], [], rfl, by unfold AllPass; decide, by decide⟩⟩

/-- The state with the first gigabyte of owner 0 mapped to itself for context 0, and every master let in. -/
def mapped (s : State) : State :=
  { s with tlb := [⟨0, 0, 0, 2 ^ 30, 0xFB⟩], fw := { s.fw with access := (List.range 10).map fun k => ((0, k), 7) } }
/-- As `mapped`, with no master let in. -/
def shut (s : State) : State := { mapped s with fw := { s.fw with access := [] } }
def loc64 : Loc := .hbm 64
/-- A gang with one atomic of a lane, one load of a lane and a line in its buffer. -/
def busyGang : Gang := { gang0 with
  atoms := [⟨1, 1, .A, 0x1000, false, .xchg64, 14, [⟨95, 64, 7, 0⟩], [], 0⟩],
  loads := [⟨2, 2, .A, 0x1008, false, .vec 15, 4, [(95, 128)], [], 0⟩, ⟨3, 3, .A, 0x1010, false, .scl 10, 8, [(0, 192)], [], 0⟩] }
def busyState : State := mapped (stateOf plot0 busyGang gang1)

/-- A lane at a sound place and at a poisoned one; lanes of a page that the owner refuses, and of a part outside the domain. -/
theorem witness_GlobalAtomicPerform :
    (busyState.plot? 0 = some plot0 ∧ busyState.gang? 0 0 = some busyGang ∧ plot0.away = false ∧ busyGang.life = .running ∧
      busyGang.atoms = [⟨1, 1, .A, 0x1000, false, .xchg64, 14, [⟨95, 64, 7, 0⟩], [], 0⟩] ∧ busyGang.gates 1 64 8 = true ∧
      busyState.lookup plot0.ctx 64 .atomic .cores = (.ok loc64 0xFB, busyState) ∧
      (busyState.countAccess plot0.ctx 64 (.die 0)).poisonedLoc loc64 8 = false ∧ (14 : VReg).toNat < busyGang.nv ∧ (14 : VReg).toNat + 1 < busyGang.nv) ∧
    (let s := { busyState with hbm := ⟨[], [16]⟩ }
     s.lookup plot0.ctx 64 .atomic .cores = (.ok loc64 0xFB, s) ∧ (s.countAccess plot0.ctx 64 (.die 0)).poisonedLoc loc64 8 = true) ∧
    ((shut busyState).lookup plot0.ctx 64 .atomic .cores = (.refuse, shut busyState) ∧ (∀ e ∈ [(⟨95, 64, 7, 0⟩ : AtomLane)], e.lane < 96) ∧ [95].Nodup) ∧
    busyState.lookup plot0.ctx (2 ^ 52) .atomic .cores = (.absent, busyState) ∧ busyGang.gates 1 (2 ^ 52) 8 = true :=
  ⟨⟨rfl, rfl, by decide, by decide, rfl, by decide, rfl, by decide, by decide, by decide⟩, ⟨rfl, by decide⟩, ⟨rfl, by decide, by decide⟩, rfl, by decide⟩

theorem witness_GlobalAccessesIssue :
    (Fits plot0 gang0 slot0 [1, 2] [10, 8] ∧ gang0.fencing .A = false ∧ gang0.storing = false ∧ gang0.loads = [] ∧ gang0.active slot0 g0 ≠ 0 ∧ gang0.active slot0 ⟨0, true⟩ = 0 ∧
      AllPass (gmChecks s0.domain 8 false) (BitVec.allOnes 96) (x0.gmAddr ⟨0, .none, 0, .k14 0⟩) ∧ (Idx.none).uniform = true ∧ gang0.pend = none ∧
      (gang0.newLines (x0.stLanes g0 ⟨2, false⟩ ⟨0, .none, 0, .k14 0⟩ .w4)).length + gang0.sbuf.length ≤ 64) ∧
    (∃ ck, FirstBad (gmChecks [0] 4 false) 1 (fun _ => 2 ^ 52) ck 0) ∧
    (let G := { gang0 with pend := some ⟨.phase, 1⟩ }
     Fits plot0 G slot0 [2] [8] ∧ G.pend ≠ none) ∧
    (let G := { gang0 with loads := [⟨2, 2, .A, 0x1008, true, .vec 15, 4, [(95, 128)], [], 0⟩] }
     Fits plot0 G slot0 [2] [8] ∧ ∃ l ∈ G.loads, l.acq = true) ∧
    (let G := { gang0 with sbuf := (List.range 64).map fun k => ⟨k + 1, [(0, 1)], none⟩ }
     Fits plot0 G slot0 [2] [8] ∧ G.pend = none ∧
      64 < (G.newLines (Issuer.stLanes ⟨plot0, G, .A, slot0⟩ g0 ⟨2, false⟩ ⟨0, .none, 0, .k14 0⟩ .w4)).length + G.sbuf.length ∧ G.sbuf ≠ []) :=
  ⟨⟨⟨⟨rfl, rfl, rfl, rfl⟩, by decide, by decide⟩, by decide, by decide, by decide, by decide, by decide, by unfold AllPass; decide, by decide, by decide, by decide⟩,
    ⟨_, [_, _, _], [_, _, _], rfl, by unfold AllPass; decide, by decide⟩,
    ⟨⟨⟨rfl, rfl, rfl, rfl⟩, by decide, by decide⟩, by decide⟩, ⟨⟨⟨rfl, rfl, rfl, rfl⟩, by decide, by decide⟩, by decide⟩, ⟨⟨⟨rfl, rfl, rfl, rfl⟩, by decide, by decide⟩, by decide⟩⟩

/-- The loads perform once the atomic before them has: of each kind of destination, at a sound and at a poisoned place, and one that
the owner refuses or that has no owner. -/
theorem witness_GlobalLoadPerform :
    let G := { busyGang with atoms := [] }
    let s := mapped (stateOf plot0 G gang1)
    s.plot? 0 = some plot0 ∧ s.gang? 0 0 = some G ∧ plot0.away = false ∧ G.life = .running ∧
    G.loads.find? (fun l => l.id == 2) = some ⟨2, 2, .A, 0x1008, false, .vec 15, 4, [(95, 128)], [], 0⟩ ∧ assoc [((95 : Nat), (128 : Nat))] 95 = some 128 ∧
    G.gates 2 128 4 = true ∧ G.allBuffered 128 4 = false ∧ s.lookup plot0.ctx 128 .load .cores = (.ok (.hbm 128) 0xFB, s) ∧
    (s.countAccess plot0.ctx 128 (.die 0)).poisonedRead G (.hbm 128) 128 4 = false ∧ (15 : VReg).toNat < G.nv ∧
    G.loads.find? (fun l => l.id == 3) = some ⟨3, 3, .A, 0x1010, false, .scl 10, 8, [(0, 192)], [], 0⟩ ∧ G.gates 3 192 8 = true ∧
    s.lookup plot0.ctx 192 .load .cores = (.ok (.hbm 192) 0xFB, s) ∧ ((10 : SReg) ≠ 0 ∧ (10 : SReg).toNat < 61) ∧
    (let poisoned := { s with hbm := ⟨[], [32]⟩ }
     poisoned.lookup plot0.ctx 128 .load .cores = (.ok (.hbm 128) 0xFB, poisoned) ∧ (poisoned.countAccess plot0.ctx 128 (.die 0)).poisonedRead G (.hbm 128) 128 4 = true ∧
       -- the gang's own bytes of the poisoned word, and a lane that the buffer holds whole
       (poisoned.countAccess plot0.ctx 128 (.die 0)).poisonedRead { G with sbuf := [⟨2, [(0, 1), (1, 2), (2, 3), (3, 4)], none⟩] } (.hbm 128) 128 8 = false ∧
       ({ G with sbuf := [⟨2, [(0, 1), (1, 2), (2, 3), (3, 4)], none⟩] } : Gang).allBuffered 128 4 = true) ∧
    ((shut s).lookup plot0.ctx 128 .load .cores = (.refuse, shut s) ∧ s.lookup plot0.ctx (2 ^ 52) .load .cores = (.absent, s)) ∧
    (∀ d ∈ [LoadDest.pair 14, .sclSh 60], let H := { gang0 with loads := [⟨2, 2, .A, 0x1008, false, d, 8, [(95, 128), (3, 136)], [], 0⟩] }
      (mapped (stateOf plot0 H gang1)).gang? 0 0 = some H ∧ H.gates 2 128 8 = true ∧ (14 : VReg).toNat + 1 < H.nv ∧
        (∀ e ∈ [((95 : Nat), (128 : Nat)), (3, 136)], e.1 < 96)) := by
  refine ⟨rfl, rfl, by decide, by decide, rfl, by decide, by decide, by decide, rfl, by decide, by decide, rfl, by decide, rfl, by decide, ⟨rfl, by decide, by decide, by decide⟩, ⟨rfl, rfl⟩, ?_⟩
  intro d hd
  simp only [List.mem_cons, List.not_mem_nil, or_false] at hd
  rcases hd with rfl | rfl <;> exact ⟨rfl, by decide, by decide, by decide⟩

/-- A boundary behind which line 1 drains, and a slot in a release store at its last lane. -/
theorem witness_BufferDrain :
    (let G := { gang0 with pend := some ⟨.phase, 1⟩, sbuf := [⟨1, [(0, 5), (63, 6)], none⟩] }
     let s := mapped (stateOf plot0 G gang1)
     s.plot? 0 = some plot0 ∧ s.gang? 0 0 = some G ∧ plot0.away = false ∧ G.pastChimes 1 = true ∧
      G.sbuf.find? (fun l => l.line == 1) = some ⟨1, [(0, 5), (63, 6)], none⟩ ∧ s.lookup plot0.ctx (64 * 1) .store .cores = (.ok (.hbm 64) 0xFB, s)) ∧
    (let S := { slot0 with wait := .store true 8 8 [(95, 72, 7)] }
     let G := { gang0 with a := some S }
     let s := mapped (stateOf plot0 G gang1)
     s.plot? 0 = some plot0 ∧ s.gang? 0 0 = some G ∧ G.pend = none ∧ G.chimes = [] ∧ G.loads = [] ∧ G.slot .A = some S ∧
      G.slot (otherSlot .A) = none ∧ S.fid = none ∧ 72 / 64 = 1 ∧ s.lookup plot0.ctx 72 .store .cores = (.ok (.hbm 72) 0xFB, s)) :=
  ⟨⟨rfl, rfl, by decide, by decide, rfl, rfl⟩, rfl, rfl, by decide, by decide, by decide, rfl, rfl, by decide, by decide, rfl⟩

/-- PHASE and FENCE.R with an empty buffer and with a line in it; an acknowledgement with and without one; a fence over both
gangs, over none, and one whose targets have all answered; and a target at its forced point. -/
theorem witness_PhasesAndFences :
    (Fits plot0 gang0 slot0 [] [10] ∧ (gang0.fencing .A = false ∧ gang0.storing = false) ∧ (∀ n o ts, slot0.wait ≠ .fence n o ts) ∧ gang0.pend = none ∧ gang0.sbuf = [] ∧
      s0.fenceSet x0 (.plot 0) = [] ∧ s0.fenceSet x0 .all = [gangKey 0 1]) ∧
    (let G := { gang0 with pend := some ⟨.phase, 1⟩, sbuf := [⟨1, [(0, 5)], none⟩] }
     (stateOf plot0 G gang1).gang? 0 0 = some G ∧ G.sbuf ≠ []) ∧
    (let G := { gang0 with pend := some ⟨.phase, 1⟩ }
     (stateOf plot0 G gang1).gang? 0 0 = some G ∧ G.sbuf = [] ∧ BoundKind.phase ≠ .forced ∧
      ∀ sl S, G.slot sl = some S → (∀ r z n ls, S.wait ≠ .store r z n ls) ∧ ∀ n o ts, S.wait ≠ .fence n o ts) ∧
    (let S := { slot0 with wait := .fence 1 false [(gangKey 0 1, 2)] }
     Fits plot0 { gang0 with a := some S } S [] [10] ∧ S.wait = .fence 1 false [(gangKey 0 1, 2)] ∧ ∀ q ∈ [(gangKey 0 1, 2)], q.2 = 2) ∧
    (let s := stateOf plot0 { gang0 with a := some { slot0 with wait := .fence 1 false [(gangKey 0 1, 0)] } }
     (s gang1).gang? 0 1 = some gang1 ∧ gang1.pend = none ∧ (s gang1).forceDue (gangKey 0 1) = true ∧
      gang1.sbuf = [] ∧ (∀ l ∈ gang1.loads, gang1.seq < l.seq) ∧ gang1.storing = false ∧
      (let H := { gang1 with a := some { slot0 with wait := .store false 4 8 [(0, 64, 1)] } }
       (s H).gang? 0 1 = some H ∧ H.pend = none ∧ H.storing = true ∧ (s H).forceDue (gangKey 0 1) = true) ∧
      (let H := { gang1 with sbuf := [⟨1, [(0, 5)], none⟩] }
       (s H).gang? 0 1 = some H ∧ H.sbuf ≠ [] ∧ (s H).forceDue (gangKey 0 1) = true) ∧
      (let H := { gang1 with seq := 2, loads := [⟨2, 2, .A, 0x1008, false, .vec 15, 4, [(95, 128)], [], 0⟩] }
       (s H).gang? 0 1 = some H ∧ (∃ l ∈ H.loads, l.seq ≤ H.seq) ∧ (s H).forceDue (gangKey 0 1) = true)) := by
  refine ⟨⟨⟨⟨rfl, rfl, rfl, rfl⟩, by decide, by decide⟩, by decide, nofun, by decide⟩, by decide, ⟨rfl, rfl, by decide, ?_⟩,
    ⟨⟨⟨rfl, rfl, rfl, rfl⟩, by decide, by decide⟩, rfl, by decide⟩, by decide⟩
  intro sl S h
  cases sl <;> cases h
  exact ⟨nofun, nofun⟩

/-- A slot in WAITC at byte 64, its gang, and a state where 7 stands there. -/
def waitSlot (c : WaitCond) : PcSlot := { slot0 with wait := .waitc 0 64 c 5 10 1 8 }
def waitGang (c : WaitCond) : Gang := { gang0 with a := some (waitSlot c) }
def waitState (c : WaitCond) : State := mapped { stateOf plot0 (waitGang c) gang1 with hbm := Store.empty.writeN 64 [7] }

/-- The highest address that passes, and the least that does not; a recheck whose read meets GE and does not meet EQ. -/
theorem witness_ConditionalWait :
    (Fits plot0 gang0 slot0 [] [10, 8, 9] ∧ (gang0.fencing .A = false ∧ gang0.storing = false) ∧ AllPass (gmChecks s0.domain 8 false) 1 (fun _ => 0x3FFFFFFFFFFF8) ∧
      (∃ ck, FirstBad (gmChecks s0.domain 8 false) 1 (fun _ => 0x4000000000000) ck 0)) ∧
    (∀ c, (waitState c).plot? 0 = some plot0 ∧ (waitState c).gang? 0 0 = some (waitGang c) ∧ plot0.place = .resident ∧
      (waitGang c).slot .A = some (waitSlot c) ∧ (waitSlot c).fid = none ∧
      (waitGang c).gates 1 64 8 = true ∧ (waitGang c).allBuffered 64 8 = false ∧
      (waitState c).lookup plot0.ctx 64 .waitc .cores = (.ok loc64 0xFB, waitState c) ∧
      ((waitState c).countAccess plot0.ctx 64 (.die 0)).poisonedLoc loc64 8 = false ∧
      natOf (((waitState c).countAccess plot0.ctx 64 (.die 0)).readLoc loc64 8) = 7) := by
  refine ⟨⟨⟨⟨rfl, rfl, rfl, rfl⟩, by decide, by decide⟩, by decide, by unfold AllPass; decide, ⟨_, [_, _], [_, _, _, _], rfl, by unfold AllPass; decide, by decide⟩⟩, ?_⟩
  intro c
  cases c <;> exact ⟨rfl, rfl, rfl, rfl, rfl, by decide, by decide, rfl, by decide, by decide⟩

/-- The other slot taken, and the reconvergence stack empty, full, and with the entry point out of a displacement's reach. -/
theorem witness_BranchWords :
    Fits plot0 gang0 slot0 [] [8] ∧ (slot0.pc + BitVec.ofInt 64 (4 * (16 : BitVec 26).toInt)).toNat % 64 = 0 ∧
    (slot0.pc + BitVec.ofInt 64 (4 * (15 : BitVec 26).toInt)).toNat % 64 ≠ 0 ∧ gang0.slot .B = none ∧
    (let G := { gang0 with b := some slot0, p := gang0.p.set 1 1 }
     Fits plot0 G slot0 [] [] ∧ G.slot .B ≠ none ∧ ¬ 64 ≤ G.depth ∧ G.active slot0 ⟨1, false⟩ ≠ 0 ∧ slot0.mask &&& ~~~ G.active slot0 ⟨1, false⟩ ≠ 0 ∧
      Fits plot0 { G with depth := 64 } slot0 [] [] ∧
      Fits { plot0 with entry := 0x400000000000 } G slot0 [] [] ∧
      ¬ -2 ^ 31 ≤ (((slot0.pc + 64).toNat : Int) - (0x400000000000 : Word64).toNat) / 4) := by
  refine ⟨⟨⟨rfl, rfl, rfl, rfl⟩, by decide, by decide⟩, by decide, by decide, rfl, ⟨⟨rfl, rfl, rfl, rfl⟩, by decide, by decide⟩, by decide, by decide,
    by decide, by decide, ⟨⟨rfl, rfl, rfl, rfl⟩, by decide, by decide⟩, ⟨⟨rfl, rfl, rfl, rfl⟩, by decide, by decide⟩, by decide⟩

theorem witness_SlotMoves :
    Fits plot0 (put gang0 [(8, 64)] []) slot0 [] [10, 8] ∧ (64 : Word64).toNat % 64 = 0 ∧ Fits plot0 (put gang0 [(8, 2)] []) slot0 [] [8] ∧ (2 : Word64).toNat % 4 ≠ 0 ∧
    (let S := { slot0 with wait := .sleep 5 }
     let s := stateOf plot0 { gang0 with a := some S } gang1
     s.plot? 0 = some plot0 ∧ s.gang? 0 0 = some { gang0 with a := some S } ∧ plot0.place = .resident ∧ S.wait = .sleep 5) :=
  ⟨⟨⟨rfl, rfl, rfl, rfl⟩, by decide, by decide⟩, by decide, ⟨⟨rfl, rfl, rfl, rfl⟩, by decide, by decide⟩, by decide, rfl, rfl, rfl, rfl⟩

/-- Two slots at one JOIN and at two, with an entry on the stack and none; a stack of two entries of which the upper has no lane. -/
def joinSlot (pc : Word64) (m : Mask) (n : Nat) : PcSlot := { slot0 with pc := pc, mask := m, wait := .join n }
def joinGang (pcB : Word64) (depth : Nat) : Gang := { gang0 with a := some (joinSlot 0x1040 1 1), b := some (joinSlot pcB 2 2), depth := depth }
def joinPlot : Plot := { plot0 with bower := plot0.bower.writeN (4096 - 1024) [4] }
def stackOf (d : Nat) : Option (Word64 × Mask × Wait) := if d = 0 then none else some (0x1000, 4, .none)
/-- With two entries the upper one is dropped and the lower one popped; with none or an exited lane there is nothing to pop. -/
theorem pops_joinPlot : Pops joinPlot 0 0 0 2 (stackOf 1) 0 ∧ Pops joinPlot 0 0 0 0 (stackOf 0) 0 ∧ Pops joinPlot 0 4 0 2 (stackOf 0) 0 := by
  refine ⟨.inl ⟨by decide, by decide, by decide, ?_, by decide⟩, .inr ⟨by omega, rfl, rfl⟩, .inr ⟨?_, rfl, rfl⟩⟩
  · intro k h1 h2
    obtain rfl : k = 1 := by omega
    decide
  · intro k _ h
    obtain rfl | rfl : k = 0 ∨ k = 1 := by omega
    · decide
    · decide
theorem witness_JoinRules :
    (Fits plot0 gang0 slot0 [] [] ∧ gang0.slot .B = none ∧ Fits plot0 { gang0 with b := some slot0 } slot0 [] []) ∧
    (let G := { gang0 with a := some (joinSlot 0x1040 1 1) }
     (stateOf plot0 G gang1).gang? 0 0 = some G ∧ G.slot .A = some (joinSlot 0x1040 1 1) ∧ G.slot .B = none) ∧
    (∀ same full : Bool,
      let pcB : Word64 := if same then 0x1040 else 0x1080
      let G := joinGang pcB full.toNat
      let s := stateOf joinPlot G gang1
      s.plot? 0 = some joinPlot ∧ s.gang? 0 0 = some G ∧ joinPlot.place = .resident ∧ joinPlot.id = 0 ∧ G.plot = 0 ∧ G.idx = 0 ∧
      G.slot .A = some (joinSlot 0x1040 1 1) ∧ G.slot (otherSlot .A) = some (joinSlot pcB 2 2) ∧ G.base = 0 ∧ G.depth ≤ 64 ∧
      (full = true → BitVec.ofNat 96 (joinPlot.bower.nat (joinPlot.tmpl.l1s - 1024 * (0 + 1) + 16 * (G.depth - 1)) 12) &&& ~~~ G.exited ≠ 0)) ∧
    BitVec.ofNat 96 (joinPlot.bower.nat (joinPlot.tmpl.l1s - 1024 * (0 + 1) + 16 * (2 - 1)) 12) &&& ~~~ (joinGang 0x1080 2).exited = 0 := by
  refine ⟨⟨⟨⟨rfl, rfl, rfl, rfl⟩, by decide, by decide⟩, rfl, ⟨rfl, rfl, rfl, rfl⟩, by decide, by decide⟩, ⟨rfl, rfl, rfl⟩, ?_, by decide⟩
  intro same full
  cases same <;> cases full <;> exact ⟨rfl, rfl, rfl, rfl, rfl, rfl, rfl, rfl, rfl, by decide, by decide⟩

/-- Gang 1 of circle 0 has arrived with an addition's payload, or nobody has. -/
def circle0 (gen : List Arrival) : Machine.Circle := ⟨0, 3, gen⟩
def barPlot (gen : List Arrival) : Plot := { plot0 with circles := [circle0 gen] }
def addArrival : Arrival := ⟨1, 0x17, 7, some 10, true⟩
theorem witness_BarrierWords :
    (Fits (barPlot []) gang0 slot0 [] [10, 8] ∧ (barPlot []).id = gang0.plot ∧ gang0.idx < 16 ∧ (barPlot []).circle? 1 = none ∧
      (barPlot []).circle? 0 = some (circle0 []) ∧ (circle0 []).members.getLsbD 0 = true ∧ gang0.slot .B = none ∧ ¬ gang0.base < gang0.depth ∧ gang0.open_ = [] ∧
      (∃ g < 16, (circle0 []).members.getLsbD g = true ∧ ∀ a ∈ (circle0 []).gen ++ [(⟨0, 0x13, 0, none, true⟩ : Arrival)], a.gang ≠ g) ∧
      (∀ y ∈ (barPlot []).circles, y.id = 0 → y = circle0 [])) ∧
    (let all := (circle0 [addArrival]).gen ++ [(⟨0, 0x17, 5, some 10, true⟩ : Arrival)]
     Fits (barPlot [addArrival]) gang0 slot0 [] [10, 8] ∧ (barPlot [addArrival]).circle? 0 = some (circle0 [addArrival]) ∧
      ((circle0 [addArrival]).gen.head?.map (·.op)).getD 0x17 = 0x17 ∧ ((circle0 [addArrival]).gen.head?.map (·.op)).getD 0x13 ≠ 0x13 ∧
      (∀ g < 16, (circle0 [addArrival]).members.getLsbD g = true → ∃ a ∈ all, a.gang = g) ∧ (all.map (·.gang)).Nodup ∧ (∀ a ∈ all, a.gang < 16) ∧
      (∀ y ∈ (barPlot [addArrival]).circles, y.id = 0 → y = circle0 [addArrival]) ∧
      (∀ a ∈ all, ∀ G, (stateOf (barPlot [addArrival]) gang0 gang1).gang? 0 a.gang = some G → G.plot = 0 ∧ G.idx = a.gang)) ∧
    (Fits (barPlot []) { gang0 with b := some slot0 } slot0 [] [] ∧ Fits (barPlot []) { gang0 with open_ := [(0, false)] } slot0 [] []) := by
  refine ⟨⟨⟨⟨rfl, rfl, rfl, rfl⟩, by decide, by decide⟩, by decide⟩, ⟨⟨⟨rfl, rfl, rfl, rfl⟩, by decide, by decide⟩, by decide, by decide, by decide, by decide, by decide,
    by decide, by decide, ?_⟩, ⟨⟨rfl, rfl, rfl, rfl⟩, by decide, by decide⟩, ⟨rfl, rfl, rfl, rfl⟩, by decide, by decide⟩
  intro a ha G h
  have ha : a = addArrival ∨ a = (⟨0, 0x17, 5, some 10, true⟩ : Arrival) := by simpa [circle0] using ha
  rcases ha with rfl | rfl <;> cases h <;> exact ⟨rfl, rfl⟩

/-- A gang waits in BAR.PH: behind its boundary, with an open arrival, against a generation of another word, with none, and as
the last that the circle misses. -/
def phSlot : PcSlot := { slot0 with wait := .barPh 0 }
def phGang : Gang := { gang0 with a := some phSlot }
def phLast : State := stateOf (barPlot [⟨1, 0x14, 0, none, true⟩]) phGang { gang1 with a := some { slot0 with wait := .bar 0 } }
theorem witness_PhaseBarrierAndWait :
    (Fits (barPlot []) gang0 slot0 [] [] ∧ (barPlot []).circle? 0 = some (circle0 []) ∧ (circle0 []).members.getLsbD 0 = true ∧ gang0.slot .B = none ∧
      gang0.depth ≤ gang0.base ∧ (∀ b, ((0 : Nat), b) ∉ gang0.open_) ∧ (barPlot []).circle? 63 = none ∧ gang0.open_ = []) ∧
    (∀ b, let G := { gang0 with open_ := [(0, b)] }
      Fits (barPlot []) G slot0 [] [] ∧ G.open_.find? (fun o => o.1 == 0) = some (0, b) ∧
        (circle0 [⟨0, 0x15, 0, none, false⟩]).gen = ⟨0, 0x15, 0, none, false⟩ :: [] ∧ (circle0 [addArrival]).gen = addArrival :: [] ∧ addArrival.op ≠ 0x15) ∧
    (let s := stateOf (barPlot []) phGang gang1
     s.plot? 0 = some (barPlot []) ∧ s.gang? 0 0 = some phGang ∧ (barPlot []).place = .resident ∧ phGang.a = some phSlot ∧ phGang.b = none ∧
      phSlot.wait = .barPh 0 ∧ phGang.pend = none ∧ (∀ b, ((0 : Nat), b) ∉ phGang.open_) ∧ (∀ y ∈ (barPlot []).circles, y.id = 0 → y = circle0 []) ∧
      (∃ m < 16, (circle0 []).members.getLsbD m = true ∧ m ≠ 0 ∧ ∀ a ∈ (circle0 []).gen, a.gang ≠ m)) ∧
    ((stateOf (barPlot [addArrival]) phGang gang1).plot? 0 = some (barPlot [addArrival]) ∧ (circle0 [addArrival]).gen = addArrival :: [] ∧ addArrival.op ≠ 0x14) ∧
    (let G := { phGang with pend := some ⟨.barPh, 1⟩ }
     let H := { phGang with open_ := [(0, false)] }
     (stateOf (barPlot []) G gang1).gang? 0 0 = some G ∧ G.pend ≠ none ∧ (stateOf (barPlot []) H gang1).gang? 0 0 = some H ∧ ∃ b, (0, b) ∈ H.open_) ∧
    (phLast.plot? 0 = some (barPlot [⟨1, 0x14, 0, none, true⟩]) ∧ phLast.gang? 0 0 = some phGang ∧
      (∀ a ∈ (circle0 [⟨1, 0x14, 0, none, true⟩]).gen, a.op = 0x14 ∧ a.dest = none ∧ a.blocks = true ∧ a.gang ≠ 0) ∧
      (∀ m < 16, (circle0 [⟨1, 0x14, 0, none, true⟩]).members.getLsbD m = true → m ≠ 0 → ∃ a ∈ (circle0 [⟨1, 0x14, 0, none, true⟩]).gen, a.gang = m) ∧
      (∀ m < 16, (phLast.gang? 0 m).all (fun G => decide (G.plot = 0 ∧ G.idx = m)) = true) ∧
      (phLast.gang? 0 1).map (fun G => (G.a.map (·.wait), G.b)) = some (some (.bar 0), none)) := by
  refine ⟨⟨⟨⟨rfl, rfl, rfl, rfl⟩, by decide, by decide⟩, by decide⟩, ?_, by decide, by decide, by decide, rfl, rfl, by decide, by decide, by decide, by decide⟩
  intro b
  cases b <;> exact ⟨⟨⟨rfl, rfl, rfl, rfl⟩, by decide, by decide⟩, rfl, rfl, rfl, by decide⟩

/-- An exit of some lanes, of all with an entry on the stack, with the other slot taken, and of the last; and both hand-off forms. -/
theorem witness_ExitWords :
    (let G := { gang0 with p := gang0.p.set 1 1 }
     Fits plot0 G slot0 [] [8] ∧ slot0.mask &&& ~~~ G.active slot0 ⟨1, false⟩ ≠ 0) ∧
    (Fits plot0 gang0 slot0 [] [] ∧ slot0.mask &&& ~~~ gang0.active slot0 g0 = 0 ∧ gang0.active slot0 g0 ≠ 0 ∧ gang0.depth = 0 ∧
      Issuer.other x0 = none ∧ plot0.id = gang0.plot) ∧
    (let S := { slot0 with mask := 2 }
     let G := { gang0 with a := some S, depth := 1 }
     Fits joinPlot G S [] [] ∧ S.mask &&& ~~~ G.active S g0 = 0 ∧ G.active S g0 ≠ 0 ∧ G.base < G.depth ∧ G.depth ≤ 64 ∧
      BitVec.ofNat 96 (joinPlot.bower.nat (4096 - 1024) 12) &&& ~~~ (G.exited ||| G.active S g0) ≠ 0) ∧
    (Pops joinPlot 0 0 0 2 (stackOf 1) 0 ∧ Pops joinPlot 0 4 0 2 (stackOf 0) 0 ∧ stackOf 1 ≠ none) ∧
    (let G := { gang0 with b := some slot0 }
     Fits plot0 G slot0 [] [] ∧ Issuer.other ⟨plot0, G, .A, slot0⟩ ≠ none ∧ G.depth ≤ G.base) ∧
    (AllPass (gmChecks s0.domain 8 false) 1 (fun _ => ((put gang0 [(8, 8)] []).rs slot0 8).toNat + (0x3FF : BitVec 10).toInt * 8) ∧
      ∃ ck, FirstBad (gmChecks s0.domain 8 false) 1 (fun _ => (gang0.rs slot0 8).toNat + (0x3FF : BitVec 10).toInt * 8) ck 0) ∧
    (plot0.tmpl.handoff = false ∧ Fits { plot0 with tmpl := { tmpl0 with handoff := true } } (put gang0 [(8, 64)] []) slot0 [] [8] ∧
      (64 : Word64).toNat % 64 = 0 ∧ Fits { plot0 with tmpl := { tmpl0 with handoff := true } } (put gang0 [(8, 4)] []) slot0 [] [8]) := by
  refine ⟨⟨⟨⟨rfl, rfl, rfl, rfl⟩, by decide, by decide⟩, by decide⟩, ⟨⟨⟨rfl, rfl, rfl, rfl⟩, by decide, by decide⟩, by decide⟩,
    ⟨⟨⟨rfl, rfl, rfl, rfl⟩, by decide, by decide⟩, by decide⟩, ⟨pops_joinPlot.1, pops_joinPlot.2.2, by decide⟩, ⟨⟨⟨rfl, rfl, rfl, rfl⟩, by decide, by decide⟩, by decide⟩,
    ⟨by unfold AllPass; decide, ⟨_, [], [_, _, _, _, _, _], rfl, by unfold AllPass; decide, by decide⟩⟩,
    ⟨by decide, ⟨⟨rfl, rfl, rfl, rfl⟩, by decide, by decide⟩, by decide, ⟨rfl, rfl, rfl, rfl⟩, by decide, by decide⟩⟩

/-- A gang of the plot that has ended its lanes. -/
def ended (G : Gang) (l : Life) (armed handoff : Option Word64) : Gang := { G with a := none, b := none, life := l, armed := armed, handoff := handoff }
def drainState (P : Plot) (G H : Gang) : State := mapped { stateOf P G H with hbm := Store.empty.writeN 64 [7] }
theorem witness_DrainAndRetirement :
    let s (armed handoff : Option Word64) (l k : Life) := drainState plot0 (ended gang0 l armed handoff) (ended gang1 k none none)
    (∀ armed handoff l k, (s armed handoff l k).plot? 0 = some plot0 ∧ (s armed handoff l k).gang? 0 0 = some (ended gang0 l armed handoff)) ∧
    (plot0.place = .resident ∧ plot0.id = 0 ∧ gang0.plot = 0 ∧ gang0.idx = 0) ∧
    (gang0.engCp = [] ∧ gang0.engGs = [] ∧ gang0.engCl = [] ∧ gang0.engEv = [] ∧ gang0.loads = [] ∧ gang0.atoms = [] ∧ gang0.sbuf = [] ∧ gang0.pend = none ∧
      gang0.chimes = [] ∧ ((s none none .draining .running).core plot0.core).sfq = []) ∧
    (s none none .draining .running).gang? 0 1 = some (ended gang1 .running none none) ∧
    (∀ k < 16, ∀ G', k ≠ 0 → (s none none .draining .returned).gang? 0 k = some G' → G'.life = .returned) ∧
    (∀ k < 16, ∀ G', (s none none .draining .returned).gang? 0 k = some G' → G'.plot = 0 ∧ G'.handoff = none) ∧
    ((s none none .draining .returned).plots.map (·.1)).Nodup ∧ ((s none none .draining .returned).gangs.map (·.1)).Nodup ∧ plot0.tmpl.gangs ≤ 16 ∧
    ((List.range 16).filterMap fun k => ((s none (some 0x2000) .draining .returned).gang? 0 k).bind (·.handoff)).head? = some 0x2000 ∧
    (ended gang0 .drained (some 64) none).decFid = none ∧ (drainState plot0 (ended gang0 .drained (some 64) none) gang1).lookup plot0.ctx 64 .decrement .cores =
      (.ok (.hbm 64) 0xFB, drainState plot0 (ended gang0 .drained (some 64) none) gang1) ∧
    ((drainState plot0 (ended gang0 .drained (some 64) none) gang1).countAccess plot0.ctx 64 (.die 0)).poisonedLoc (.hbm 64) 8 = false := by
  have key : ∀ k < 16, ((drainState plot0 (ended gang0 .draining none none) (ended gang1 .returned none none)).gang? 0 k).all (fun G =>
      G.plot == 0 && G.handoff == none && (k == 0 || decide (G.life = .returned))) = true := by decide
  refine ⟨fun _ _ _ _ => ⟨rfl, rfl⟩, by decide, by decide, rfl, ?_, ?_, by decide, by decide, by decide, by decide, rfl, rfl, by decide⟩
  · intro k hk G' hne h
    have := key k hk
    simp only [h, Option.all_some, Bool.and_eq_true, Bool.or_eq_true, beq_iff_eq, decide_eq_true_eq] at this
    exact this.2.resolve_left hne
  · intro k hk G' h
    have := key k hk
    simp only [h, Option.all_some, Bool.and_eq_true, beq_iff_eq] at this
    exact this.1

/-- A gang with a handler entry, running and inside its trap handler, inside a chime handler, and without an entry; one whose
other slot sleeps, joins or stands at a wait, with a result outstanding for s58. -/
theorem witness_TrapEntry :
    Fits plot0 gang0 slot0 [] [] ∧ gang0.slot .A = some slot0 ∧ slot0.wait = .none ∧ gang0.slot (otherSlot .A) = none ∧ gang0.tentry = 0 ∧
    (let G := { gang0 with tentry := 0x2000, b := some slot0, frames := [⟨.chime, none, none, 0⟩] }
     G.slot .B = some slot0 ∧ G.slot (otherSlot .B) = some slot0 ∧ ¬ ((∃ f ∈ G.frames, f.kind = .trap) ∨ G.tentry = 0) ∧ ∃ f ∈ G.frames, f.kind = .chime) ∧
    (let G := { gang0 with tentry := 0x2000, frames := [⟨.trap, none, none, 0⟩] }
     G.slot .A = some slot0 ∧ ∃ f ∈ G.frames, f.kind = .trap) ∧
    (∀ w ∈ [Wait.join 3, .sleep 9, .rawait],
      let l : LoadOp := ⟨1, 1, .A, 0x1000, false, .scl 58, 8, [(0, 192)], [], 0⟩
      let G := { gang0 with tentry := 0x2000, b := some { slot0 with wait := w }, loads := [l] }
      G.slot .A = some slot0 ∧ ¬ ((∃ f ∈ G.frames, f.kind = .trap) ∨ G.tentry = 0) ∧ G.slot (otherSlot .A) = some { slot0 with wait := w } ∧
        l ∈ G.loads ∧ l.dest = .scl 58 ∧ 56 ≤ (58 : SReg).toNat ∧ (58 : SReg).toNat ≤ 60) :=
  ⟨⟨⟨rfl, rfl, rfl, rfl⟩, by decide, by decide⟩, by decide, by decide, by decide, by decide, ⟨by decide, by decide, by decide, by decide⟩, by decide, by decide⟩

theorem of_nil {α : Type} {l : List α} {p : α → Prop} (h : l = []) : ∀ f rest, l = f :: rest → p f := by
  subst h; nofun
def handlerFrame (kind : Handler) : Frame := ⟨kind, some slot0, some { slot0 with mask := 1, wait := .join 1 }, 0⟩
def handlerGang (kind : Handler) : Gang := { gang0 with frames := [handlerFrame kind] }
theorem witness_HandlerReturns :
    (Fits plot0 gang0 slot0 [] [] ∧ ∀ f rest, gang0.frames = f :: rest → f.kind ≠ .trap) ∧
    (∀ kind, Fits plot0 (handlerGang kind) slot0 [] [] ∧ (handlerGang kind).frames = handlerFrame kind :: [] ∧ (handlerFrame kind).kind = kind ∧
      (∀ S, (handlerFrame kind).a = some S → S.mask &&& ~~~ (handlerGang kind).exited ≠ 0) ∧
      ∀ S, (handlerFrame kind).b = some S → S.mask &&& ~~~ (handlerGang kind).exited ≠ 0) := by
  refine ⟨⟨⟨⟨rfl, rfl, rfl, rfl⟩, by decide, by decide⟩, of_nil rfl⟩, ?_⟩
  intro kind
  cases kind <;> exact ⟨⟨⟨rfl, rfl, rfl, rfl⟩, rfl, by decide⟩, rfl, rfl, by intro S h; cases h; decide, by intro S h; cases h; decide⟩

/-- A claim that the reserve just covers, and one that it does not and whose gang alone could run; slots at the ends of their waits. -/
theorem witness_WaitingSlots :
    (let P (n : Nat) := { plot0 with claims := [⟨0, .A, n⟩] }
     let S := { slot0 with wait := .vclaim }
     let G := { gang0 with a := some S, tentry := 0x2000 }
     (∀ n, (stateOf (P n) G gang1).plot? 0 = some (P n) ∧ (stateOf (P n) G gang1).gang? 0 0 = some G ∧ (P n).id = 0 ∧ G.plot = 0 ∧ G.idx = 0 ∧
       G.slot .A = some S ∧ (P n).claims = [⟨0, .A, n⟩]) ∧
     (160 ≤ (P 160).reserve ∧ G.nv + 160 ≤ 192 ∧ (P 168).reserve < 168) ∧
     (let s := { stateOf (P 168) G gang1 with gangs := [(0, G)] }
      s.plot? 0 = some (P 168) ∧ s.gang? 0 0 = some G ∧ s.gangsOf 0 = [G] ∧ G.life = .running ∧ S.wait = .vclaim ∧ G.slot (otherSlot .A) = none ∧ G.tentry ≠ 0 ∧
       ∀ f ∈ G.frames, f.kind ≠ .trap)) ∧
    (let S := { slot0 with wait := .chwait 0, spin := 32, demoted := some 0 }
     let s := { stateOf plot0 { gang0 with a := some S } gang1 with ticks := 4096 }
     s.plot? 0 = some plot0 ∧ s.gang? 0 0 = some { gang0 with a := some S } ∧ plot0.place = .resident ∧ S.demoted = some 0 ∧ S.wait = .chwait 0 ∧
      { slot0 with wait := .waitc 0 64 .eq 0 10 1 8 }.wait = .waitc 0 64 .eq 0 10 1 8) := by
  refine ⟨⟨fun n => ⟨rfl, rfl, rfl, rfl, rfl, rfl, rfl⟩, by decide, rfl, rfl, rfl, by decide, by decide, by decide, by decide, by decide⟩,
    rfl, rfl, by decide, rfl, rfl, rfl⟩

/-- The gang with these operations in its CP class, and their block of 128 bytes with fields at offsets. -/
def descOf (fields : List (Nat × Nat × Nat)) : List Byte := fields.foldl (fun b f => putAt b f.1 (leOf f.2.1 f.2.2)) (List.replicate 128 0)
def tmovDesc (src dst ctl : Nat) : List Byte := descOf [(0, 8, src), (8, 8, dst), (16, 8, ctl), (24, 4, 4), (52, 4, 4), (80, 4, 4)]
/-- CTL of one dimension of four-byte elements from a source to a destination space. -/
def ctlOf (ssp dsp : Nat) : Nat := 2 ^ 8 + 2 * 2 ^ 6 + 8 * dsp + ssp
def engOp (kind : EngKind) (desc : List Byte) (phase : EngPhase) (k : Nat) (code : Byte) : EngOp := ⟨0, kind, 0, 256, desc, phase, k, 0, [1, 2, 3, 4], code, 0, 0, none, 0⟩
def cpGang (o : EngOp) : Gang := { gang0 with engCp := [o], cp := { gang0.cp with count := 1, issued := 1 } }

/-- A block at the bower's end, past it and off its unit; a full counter; a group in which the plot has a rank; and a post
whose turn has come, and one that must wait. -/
theorem witness_EngineWords :
    (Fits plot0 (put gang0 [(8, 3968)] []) slot0 [] [8, 10] ∧ gang0.fencing .A = false ∧ ¬ 63 ≤ (gang0.cls 0).count ∧ (3968 : Int) % 128 = 0 ∧
      ¬ ((3968 : Int) < 0 ∨ (plot0.tmpl.l1s : Int) < 3968 + 128) ∧ (plot0.tmpl.l1s : Int) < 4096 + 128 ∧ (64 : Int) % 128 ≠ 0) ∧
    (let G := { gang0 with cp := { gang0.cp with count := 63 } }
     Fits plot0 G slot0 [] [8, 10] ∧ 63 ≤ (G.cls 0).count) ∧
    (∀ q ∈ gang0.engCl, q.num ≠ gang0.cl.issued) ∧ (⟨0, 0, [(0, plot0.lid)], [0]⟩ : Group).rankOf s0.partno plot0 = some 0 ∧
    (gang0.postq < 4 ∧ gang0.slot (otherSlot .A) = none) ∧ (let G := { gang0 with postq := 4, ev := { gang0.ev with count := 63 } }; Fits plot0 G slot0 [] [8, 10] ∧ ¬ G.postq < 4 ∧ 63 ≤ (G.cls 3).count) :=
  ⟨⟨⟨⟨rfl, rfl, rfl, rfl⟩, by decide, by decide⟩, by decide⟩, ⟨⟨⟨rfl, rfl, rfl, rfl⟩, by decide, by decide⟩, by decide⟩, by decide, by decide, by decide,
    ⟨⟨rfl, rfl, rfl, rfl⟩, by decide, by decide⟩, by decide⟩

/-- A counter above the bound and at it, with a covered failure; and a promise whose copy is still open, due and not due. -/
theorem witness_EngineWaits :
    (let G := { gang0 with cp := ⟨1, 2, 0, 1, [⟨0, 3, 0, 256⟩], 0⟩ }
     Fits plot0 G slot0 [] [10] ∧ 0 < (G.cls 0).count ∧ ¬ (1 : BitVec 6).toNat < (G.cls 0).count ∧ ((G.cls 0).fails.filter fun f => decide ((1 : Word64) ≠ f.num)) ≠ []) ∧
    (let G (v : Word64) := { put (cpGang (engOp .tmov [] .start 0 0)) [(8, v)] [] with a := some { slot0 with wait := .psleep 8 } }
     let open_ (G : Gang) (v : Word64) : Prop := ∃ o ∈ G.engCp, o.num.toNat % 2 ^ 16 = v.toNat / 2 ^ 48
     (∀ v, (stateOf plot0 (G v) gang1).plot? 0 = some plot0 ∧ (stateOf plot0 (G v) gang1).gang? 0 0 = some (G v)) ∧ open_ (G 0) 0 ∧ open_ (G 100) 100 ∧
      ¬ open_ (G 0) 0x1000000000000 ∧ (s0.ticks % 2 ^ 48 + 2 ^ 48 - (0 : Word64).toNat % 2 ^ 48) % 2 ^ 48 < 2 ^ 47 ∧
      ¬ (s0.ticks % 2 ^ 48 + 2 ^ 48 - (100 : Word64).toNat % 2 ^ 48) % 2 ^ 48 < 2 ^ 47) :=
  ⟨⟨⟨⟨rfl, rfl, rfl, rfl⟩, by decide, by decide⟩, by decide⟩, fun _ => ⟨rfl, rfl⟩, by decide, by decide, by decide, by decide, by decide⟩

/-- A ring of two slots of 64 bytes at 128, its object at 64, the first slot filled or empty. -/
def ringPlot (fill : Nat) : Plot := { plot0 with bower := plot0.bower.writeN 64 (leOf 4 128 ++ leOf 4 64 ++ [2, 0, 0, 0, 0, 0, 0, 0] ++ leOf 8 fill ++ leOf 8 0) }
theorem witness_SlotRings :
    (Fits plot0 (put gang0 [(8, 64), (9, 128), (11, 64)] []) slot0 [] [8, 9, 11] ∧ (64 : Int) % 32 = 0 ∧ ¬ (plot0.tmpl.l1s : Int) < 4064 + 32 ∧
      (plot0.tmpl.l1s : Int) < 4096 + 32 ∧ (1 ≤ 2 ∧ 2 ≤ 64 ∧ 64 % 64 = 0 ∧ 64 ≤ 64 ∧ 64 ≤ 65536 ∧ 128 % 64 = 0) ∧ ¬ plot0.tmpl.l1s < 3968 + 2 * 64 ∧ plot0.tmpl.l1s < 4032 + 2 * 64) ∧
    (∀ full : Bool, let P := ringPlot full.toNat
      Fits P (put gang0 [(8, 64)] []) slot0 [] [10, 8] ∧ P.bower.poisoned 64 32 = false ∧ (P.bower.nat 72 1, P.bower.nat 73 1, P.bower.nat 74 1, P.bower.nat 75 1) = (2, 0, 0, 0) ∧
      (P.bower.nat 64 4, P.bower.nat 68 4) = (128, 64) ∧ 128 + 2 * 64 ≤ P.tmpl.l1s ∧ (BitVec.ofNat 64 (P.bower.nat 80 8)).getLsbD 0 = full) ∧
    (plot0.bower.poisoned 64 32 = false ∧ ¬ 1 ≤ plot0.bower.nat 72 1) := by
  refine ⟨⟨⟨⟨rfl, rfl, rfl, rfl⟩, by decide, by decide⟩, by decide⟩, ?_, by decide⟩
  intro full
  cases full <;> exact ⟨⟨⟨rfl, rfl, rfl, rfl⟩, by decide, by decide⟩, by decide, by decide, by decide, by decide, by decide⟩

/-- A copy at each of its steps, from memory and from the bower and to each, its last element, and a descriptor that is bad. -/
def tmovAt (ssp dsp : Nat) (phase : EngPhase) (k : Nat) : EngOp := engOp .tmov (tmovDesc 64 128 (ctlOf ssp dsp)) phase k 0
/-- The first gang's operation in its class, on the plot with scratchpads and over mapped memory. -/
def withOp (c : Nat) (o : EngOp) : Gang :=
  if c = 0 then { gang0 with engCp := [o] } else if c = 1 then { gang0 with engGs := [o] } else { gang0 with engCl := [o] }
def engState (c : Nat) (o : EngOp) : State := mapped { padsState with gangs := [(0, withOp c o), (1, gang1)] }
def gathDesc (ix count ctl : Nat) : List Byte := (descOf [(0, 8, 64), (8, 8, 128), (16, 4, ix), (20, 4, count), (24, 4, ctl)]).take 64
/-- A GATH of four-byte elements from global memory to the bower. -/
def gathAt (ix count : Nat) (phase : EngPhase) (k : Nat) (data : List Byte) : EngOp := { engOp .gath (gathDesc ix count 0x88) phase k 0 with data := data }

/-- Sound blocks and bad ones of both shapes, elements that all pass, and an index array at the bower's end, past it, and empty. -/
theorem witness_EngineSteps_starts :
    (∀ o ∈ [tmovAt 0 1 .start 0, engOp .tmov (tmovDesc 64 128 0) .start 0 0, engOp .tmovR (tmovDesc 64 128 (ctlOf 0 1)) .start 0 0,
        engOp .tmovV (tmovDesc 64 128 (ctlOf 0 1)) .start 0 0, engOp .tmovZ (descOf [(8, 8, 128), (16, 8, ctlOf 0 1), (24, 4, 4), (80, 4, 4)]) .start 0 0],
      EngineAt (engState 0 o) 0 0 0 0 plotPads (withOp 0 o) o ∧ o.code = 0 ∧ o.phase = .start ∧ o.kind.isCopy = true) ∧
    ((tmovAt 0 1 .start 0).tmovBad = none ∧ (engOp .tmov (tmovDesc 64 128 0) .start 0 0).tmovBad = some 16 ∧
      (engOp .tmovZ (descOf [(8, 8, 128), (16, 8, ctlOf 0 1), (24, 4, 4), (80, 4, 4)]) .start 0 0).tmovBad = none ∧ 0 < (tmovAt 0 1 .start 0).ext.foldl (fun a b => a * b) 1) ∧
    (let o := engOp .tmovV (tmovDesc 64 128 (ctlOf 0 1)) .start 0 0
     o.tmovBad = none ∧ s0.spotFault plot0 8 true (spotOf o.dsp o.dst 0) = none ∧ ∀ k < 4,
      s0.spotFault plot0 o.esz false (spotOf o.ssp o.src (strideSum k o.ext (o.strides 52))) = none ∧
      s0.spotFault plot0 o.esz true (spotOf o.dsp (o.dst + 8) (strideSum k o.ext (o.strides 80))) = none) ∧
    (∀ o ∈ [gathAt 4080 4 .start 0 [], gathAt 4084 4 .start 0 [], gathAt 0 0 .start 0 [], gathAt 4080 4 .index 3 (List.replicate 12 0)],
      EngineAt (engState 1 o) 0 0 1 0 plotPads (withOp 1 o) o ∧ o.code = 0 ∧ o.kind.isGath = true ∧ o.gathBad = none) ∧
    ((engOp .gath (gathDesc 0 4 0x800) .start 0 0).gathBad = some 24 ∧ 4080 + 4 * 4 ≤ plotPads.tmpl.l1s ∧ plotPads.tmpl.l1s < 4084 + 4 * 4 ∧
      (gathAt 4080 4 .index 3 (List.replicate 12 0)).gCount = 4 ∧ plotPads.bower.poisoned (4080 + 4 * 3) 4 = false) := by
  refine ⟨?_, by decide, by decide, ?_, by decide⟩
  · intro o ho
    simp only [List.mem_cons, List.not_mem_nil, or_false] at ho
    rcases ho with rfl | rfl | rfl | rfl | rfl <;> exact ⟨⟨rfl, rfl, rfl, ⟨rfl, rfl, rfl⟩, rfl⟩, rfl, rfl, rfl⟩
  · intro o ho
    simp only [List.mem_cons, List.not_mem_nil, or_false] at ho
    rcases ho with rfl | rfl | rfl | rfl <;> exact ⟨⟨rfl, rfl, rfl, ⟨rfl, rfl, rfl⟩, rfl⟩, rfl, rfl, by decide⟩

/-- The last element of a read from memory, from each scratchpad and from a tile, and elements that fail in each space. -/
theorem witness_EngineSteps_reads :
    (∀ ssp, EngineAt (engState 0 (tmovAt ssp 1 .read 3)) 0 0 0 0 plotPads (withOp 0 (tmovAt ssp 1 .read 3)) (tmovAt ssp 1 .read 3)) ∧
    (∀ ssp ∈ [0, 1, 2, 3, 4], let o := tmovAt ssp 1 .read 3
      let E : Elements := ⟨o.ext.foldl (fun a b => a * b) 1, o.esz, o.ssp, o.src, fun k => strideSum k o.ext (o.strides 52)⟩
      o.Sources 0 0 E ∧ o.phase = .read ∧ o.code = 0 ∧ o.fid = none ∧ o.k < E.n ∧ E.n = o.k + 1 ∧ E.space = ssp ∧ E.z = 4 ∧
        E.addr o.k = if ssp = 4 then 12 else 76) ∧
    AllPass (gmChecks s0.domain 4 false) 1 (fun _ => 76) ∧
    (let s := engState 0 (tmovAt 0 1 .read 3)
     s.lookup 0 76 .engRead .engines = (.ok (.hbm 76) 0xFB, s) ∧ (s.countAccess 0 76 (.die 0)).poisonedLoc (.hbm 76) 4 = false) ∧
    (∀ lv < 3, (padsState.scratch plotPads lv).any (fun q => decide (76 + 4 ≤ q.2) && !q.1.poisoned 76 4) = true) ∧
    ({ plot0 with tiles := [⟨0, []⟩] } : Plot).tiles[0]? = some ⟨0, []⟩ ∧
    (let E (space base : Nat) (off : Int) : Elements := ⟨1, 4, space, base, fun _ => off⟩
     ElementBad s0 plot0 (E 0 (2 ^ 50) 0) 0 4 3 ∧ ElementBad s0 plot0 (E 1 4096 0) 0 5 0 ∧ ElementBad s0 plot0 (E 1 2 0) 0 4 6 ∧
      ElementBad s0 plot0 (E 2 0 0) 0 6 0 ∧ ElementBad s0 plot0 (E 4 32 0) 0 5 0) := by
  refine ⟨fun _ => ⟨rfl, rfl, rfl, ⟨rfl, rfl, rfl⟩, rfl⟩, ?_, by unfold AllPass; decide, ⟨rfl, by decide⟩, by decide, rfl, ?_⟩
  · intro ssp h
    simp only [List.mem_cons, List.not_mem_nil, or_false] at h
    rcases h with rfl | rfl | rfl | rfl | rfl <;> exact ⟨rfl, rfl, rfl, rfl, by decide⟩
  · have scr (a : Int) (code sub : Nat) (h : if (a + 0) % (4 : Nat) ≠ 0 then code = 4 ∧ sub = 6 else (a + 0 < 0 ∨ ((4096 : Nat) : Int) < a + 0 + (4 : Nat)) ∧ code = 5 ∧ sub = 0) := h
    exact ⟨.inl ⟨rfl, 2, _, rfl, by decide, by decide, rfl, rfl⟩, .inr (.inl ⟨0, by decide, rfl, scr 4096 5 0 (by decide)⟩),
      .inr (.inl ⟨0, by decide, rfl, scr 2 4 6 (by decide)⟩), .inr (.inl ⟨1, by decide, rfl, rfl, rfl⟩), .inr (.inr ⟨rfl, by decide, rfl, rfl⟩)⟩

/-- The last element of a write to memory, to each scratchpad and to a tile; of TMOV.Z; of TMOV.R at its slot's end; and one that the
owner refuses. -/
theorem witness_EngineSteps_writes :
    (∀ dsp ∈ [0, 1, 2, 3, 4], let o := tmovAt 0 dsp .write 3
      let E : Elements := ⟨o.ext.foldl (fun a b => a * b) 1, o.esz, o.dsp, o.dst, fun k => strideSum k o.ext (o.strides 80)⟩
      EngineAt (engState 0 o) 0 0 0 0 plotPads (withOp 0 o) o ∧ o.Destinations 0 E ∧ o.phase = .write ∧ o.code = 0 ∧ o.fid = none ∧ o.k < E.n ∧
        E.n = o.k + 1 ∧ E.space = dsp ∧ E.addr o.k = if dsp = 4 then 12 else 140) ∧
    (let o := engOp .tmovR (tmovDesc 64 128 (ctlOf 0 1)) .write 3 0
     let o := { o with desc := putAt o.desc 112 (leOf 4 256 ++ leOf 4 64) }
     (o.aux % 2 ^ 32 : Nat) + strideSum 3 o.ext (o.strides 80) = 268 ∧ o.aux % 2 ^ 32 + o.aux / 2 ^ 32 = 320) ∧
    ({ engOp .tmovZ (descOf [(8, 8, 128), (16, 8, ctlOf 0 1), (24, 4, 4), (80, 4, 4)]) .write 0 0 with data := [] } : EngOp).data = [] ∧
    AllPass (gmChecks s0.domain 4 false) 1 (fun _ => 140) ∧
    (let s := engState 0 (tmovAt 0 0 .write 3)
     s.lookup 0 140 .engWrite .engines = (.ok (.hbm 140) 0xFB, s)) ∧
    (let s := shut (engState 0 (engOp .tmovW (tmovDesc 64 128 (ctlOf 0 0)) .write 0 0))
     s.lookup 0 128 .engWrite .engines = (.refuse, s)) := by
  refine ⟨?_, by decide, rfl, by unfold AllPass; decide, rfl, rfl⟩
  intro dsp h
  simp only [List.mem_cons, List.not_mem_nil, or_false] at h
  rcases h with rfl | rfl | rfl | rfl | rfl <;> exact ⟨⟨rfl, rfl, rfl, ⟨rfl, rfl, rfl⟩, rfl⟩, rfl, rfl, rfl, rfl, by decide⟩

/-- Each of TMOV.W's three kinds of read; the last with a palette of none and of two. -/
def segOp (k : Nat) (data : List Byte) : EngOp := { engOp .tmovW (tmovDesc 64 128 (ctlOf 0 0)) .read k 0 with data := data }
def segHead72 : List Byte := List.replicate 64 0 ++ [0, 0, 0, 0, 0, 0, 1, 0]
theorem witness_EngineSteps_segments :
    (∀ np : Bool, ∀ o ∈ [segOp 0 [], segOp 1 (List.replicate 64 0), segOp 2 segHead72],
      let s := { engState 0 o with hbm := Store.empty.writeN 64 [if np then 2 else 0] }
      EngineAt s 0 0 0 0 plotPads (withOp 0 o) o ∧ o.kind = .tmovW ∧ o.phase = .read ∧ o.code = 0 ∧ o.fid = none ∧
        s.lookup 0 64 .engRead .engines = (.ok (.hbm 64) 0xFB, s) ∧ (s.countAccess 0 64 (.die 0)).poisonedLoc (.hbm 64) 64 = false ∧
        (s.countAccess 0 64 (.die 0)).hbm.nat 64 1 = if np then 2 else 0) ∧
    (AllPass (gmChecks s0.domain 64 false) 1 (fun _ => 64) ∧ AllPass (gmChecks s0.domain 8 false) 1 (fun _ => 64)) ∧
    (fieldAt segHead72 64 8 / 2 ^ 48 = 1 ∧ fieldAt segHead72 64 8 % 2 ^ 48 = 0 ∧ fieldAt segHead72 16 8 = 0 ∧ (segOp 2 segHead72).src = 64 ∧
      2 ^ 1 < 2 * 2 ∧ 2 ≤ 2 ^ 1) := by
  refine ⟨?_, ⟨by unfold AllPass; decide, by unfold AllPass; decide⟩, by decide⟩
  intro np o ho
  simp only [List.mem_cons, List.not_mem_nil, or_false] at ho
  rcases ho with rfl | rfl | rfl <;> cases np <;>
    exact ⟨⟨rfl, rfl, rfl, ⟨rfl, rfl, rfl⟩, rfl⟩, rfl, rfl, rfl, rfl, rfl, by decide, by decide⟩

/-- Two plots that are the two ranks of group 1, each with its first operation there: both wait, one has failed, they disagree, one still
reads, and both are past their checks. -/
def rankOp (kind : EngKind) (phase : EngPhase) (code : Byte) (v : Nat) : EngOp :=
  { engOp kind ((descOf [(0, 8, 64), (8, 8, 128), (16, 4, 1), (20, 4, 1), (24, 4, 0x40)]).take 64) phase 0 code with data := leOf 8 v }
def rankGang (p : Nat) (o : EngOp) : Gang := { gang0 with plot := p, engCl := [o] }
def group1 : Group := ⟨0, 1, [(0, 1), (0, 2)], [1, 1]⟩
def rankState (a b : EngOp) : State :=
  { s0 with plots := [(0, plot0), (1, { plot0 with id := 1, lid := 2 })], gangs := [(0, rankGang 0 a), (16, rankGang 1 b)], groups := [group1] }
theorem witness_EngineSteps_meetings :
    ∀ x ∈ [(rankOp .collAr .wait 0 5, rankOp .collAr .wait 0 7), (rankOp .collAr .wait 0 5, rankOp .collAr .wait 8 7),
        (rankOp .collAr .wait 0 5, rankOp .collRs .wait 0 7), (rankOp .collAr .wait 0 5, rankOp .collAr .read 0 7),
        (rankOp .collAr .ready 0 5, rankOp .collAr .ready 0 7), (rankOp .collAr .ready 0 5, rankOp .collAr .ready 7 7),
        (rankOp .collAr .ready 0 5, rankOp .collAr .check 0 7)],
      let s := rankState x.1 x.2
      let ms := [(rankGang 0 x.1, x.1), (rankGang 1 x.2, x.2)]
      EngineAt s 0 0 2 0 plot0 (rankGang 0 x.1) x.1 ∧ x.1.kind.isColl = true ∧ (x.1.phase = .wait ∨ x.1.phase = .ready) ∧
        s.group? x.1.cGroup = some group1 ∧ s.partno ∈ s.domain ∧ (∀ r ∈ group1.ranks, r.1 = s.partno) ∧
        (∀ r < 2, s.collOf group1 x.1.ring (group1.ranks.getD r (0, 0)) = ms[r]?) ∧
        (∀ m ∈ ms, s.gang? m.1.plot m.1.idx = some m.1) ∧ (ms.map fun m => gangKey m.1.plot m.1.idx).Nodup := by
  intro x hx
  simp only [List.mem_cons, List.not_mem_nil, or_false] at hx
  rcases hx with rfl | rfl | rfl | rfl | rfl | rfl | rfl <;>
    exact ⟨⟨rfl, rfl, rfl, ⟨rfl, rfl, rfl⟩, rfl⟩, rfl, by decide, rfl, by decide, by decide, by decide, by decide, by decide⟩

/-- A CPYDEC whose key is absent, whose salt differs, whose owners do, and which goes on; its checks with the last word still to come and
with none, of a frame that the context owns and of one that it does not; a CPYENC; and the last word of each data phase. -/
def copyOp (kind : EngKind) (src dst salt : Nat) (phase : EngPhase) (k : Nat) : EngOp :=
  engOp kind ((descOf [(0, 8, src), (8, 8, dst), (16, 4, 6), (24, 4, salt)]).take 64) phase k 0
def confContext : Context := { Context.fresh with conf := true, keys := [some ⟨0, 0, 10, 0, 4⟩] }
def hostBase : Nat := 8 * 2 ^ 48
def copyState (o : EngOp) : State :=
  let s := engState 0 o
  { s with contexts := [(0, { confContext with keys := [some ⟨0, 3, 10, 4, 4⟩] })], frames := [((0, 0), 0)]
           fw := { s.fw with access := s.fw.access ++ [((8, 1), 7)] }
           tlb := [⟨0, 0, 0, 2 ^ 30, 0x4FB⟩, ⟨8, 0, 0, 2 ^ 30, 0xFB⟩] }
theorem witness_EngineSteps_copies :
    (∀ o ∈ [copyOp .cpydec hostBase 64 3 .start 0, copyOp .cpydec hostBase 64 2 .start 0, copyOp .cpydec 64 64 3 .start 0, copyOp .cpydec hostBase 64 3 .check 4,
        copyOp .cpydec hostBase 64 3 .check 6, copyOp .cpydec hostBase 64 3 .read 4, copyOp .cpydec hostBase 64 3 .write 4,
        copyOp .cpyenc 64 hostBase 3 .start 0, copyOp .cpyenc 64 hostBase 3 .read 4, copyOp .cpyenc 64 hostBase 3 .write 4],
      EngineAt (copyState o) 0 0 0 0 plotPads (withOp 0 o) o ∧ o.code = 0 ∧ o.fid = none ∧ o.cpyBad = none ∧ o.cpyLen = 6 ∧ o.desc.length = 64 ∧
        ((copyState o).context 0).conf = true ∧ ((copyState o).context 0).keys.getD o.cpySlot none = some ⟨0, 3, 10, 4, 4⟩) ∧
    (Context.fresh.conf = false ∧ ownerOf hostBase = 8 ∧ ownerOf 64 ≠ 8 ∧ fieldAt (copyOp .cpydec hostBase 64 2 .start 0).desc 24 4 ≠ (3 : Word).toNat) ∧
    (AllPass (gmChecks s0.domain 1 false) 1 (fun _ => 68) ∧ AllPass (gmChecks s0.domain 1 false) 1 (fun _ => hostBase + 4)) ∧
    (let s := copyState (copyOp .cpydec hostBase 64 3 .check 4)
     s.lookup 0 68 .engWrite .engines = (.ok (.hbm 68) 0x4FB, s) ∧ s.lookup 0 68 .engRead .engines = (.ok (.hbm 68) 0x4FB, s) ∧
      s.lookup 0 (hostBase + 4) .engRead .engines = (.ok (.host 4) 0xFB, s) ∧ s.lookup 0 (hostBase + 4) .engWrite .engines = (.ok (.host 4) 0xFB, s) ∧
      0x4FB / 2 ^ 10 % 2 = 1 ∧ assoc s.frames (68 / 2 ^ 37, 68 % 2 ^ 37 / 65536) = some 0 ∧
      (s.countAccess 0 68 (.die 0)).poisonedLoc (.hbm 68) 2 = false ∧ (s.countAccess 0 (hostBase + 4) (.die 0)).poisonedLoc (.host 4) 2 = false) ∧
    (let o := copyOp .cpydec hostBase 64 3 .check 4
     let s := { copyState o with tlb := [⟨0, 0, 0, 2 ^ 30, 0xFB⟩], frames := [] }
     s.lookup 0 68 .engWrite .engines = (.ok (.hbm 68) 0xFB, s) ∧ 0xFB / 2 ^ 10 % 2 ≠ 1) := by
  refine ⟨?_, by decide, ⟨by unfold AllPass; decide, by unfold AllPass; decide⟩, ⟨rfl, rfl, rfl, rfl, by decide⟩, rfl, by decide⟩
  intro o ho
  simp only [List.mem_cons, List.not_mem_nil, or_false] at ho
  rcases ho with rfl | rfl | rfl | rfl | rfl | rfl | rfl | rfl | rfl | rfl <;>
    exact ⟨⟨rfl, rfl, rfl, ⟨rfl, rfl, rfl⟩, rfl⟩, rfl, rfl, by decide, by decide, by decide, rfl, rfl⟩

/-- A class that is empty, whose oldest operation goes on, and is finished; a post that ends with a slot blocked in EVPOST, and none. -/
theorem witness_EngineSteps_completion :
    (gang0.eng 0 = [] ∧ (cpGang (tmovAt 0 1 .finished 0)).eng 0 = [tmovAt 0 1 .finished 0] ∧ (cpGang (tmovAt 0 1 .read 0)).eng 0 = [tmovAt 0 1 .read 0] ∧
      gang0.life = .running ∧ plot0.away = false) ∧
    (let o := engOp .evpost [] .finished 0 0
     let G := { gang0 with engEv := [o], a := some { slot0 with wait := .evpost 3 64 } }
     G.eng 3 = o :: [] ∧ o.phase = .finished ∧ G.slot .A = some { slot0 with wait := .evpost 3 64 } ∧ G.slot (otherSlot .A) = none ∧
      ∀ sl S m q, ({ gang0 with engEv := [o] } : Gang).slot sl = some S → S.wait ≠ .evpost m q) := by
  refine ⟨by decide, rfl, rfl, rfl, rfl, ?_⟩
  intro sl S m q h
  cases sl <;> cases h
  nofun

/-- The bytes of two parts that stand one behind the other. -/
theorem bytesAt_left (a b : List Byte) : bytesAt (a ++ b) 0 a.length = a := by
  apply List.ext_getElem
  · simp [bytesAt]
  · intro i h _
    simp only [bytesAt, List.length_map, List.length_range] at h
    simp [bytesAt, List.getElem?_append, h]

theorem bytesAt_right (a b : List Byte) : bytesAt (a ++ b) a.length b.length = b := by
  apply List.ext_getElem
  · simp [bytesAt]
  · intro i h _
    simp only [bytesAt, List.length_map, List.length_range] at h
    simp [bytesAt, List.getElem?_append, h, Nat.not_lt.2 (Nat.le_add_right a.length i)]

def stream0 (kind : Nat) : Stream := ⟨kind, 4096, 6, 0, 0, 1, 0, 5, 5, [], 0, 0, true, false, [⟨0, 9, 0⟩], [], 64, 0, 0, 2, 0, false, 0, 0, 0, 0⟩
/-- The state with stream 5 of a kind, its ring at 4096, and the firmware running. -/
def streamsOn (kind : Nat) (s : State) : State :=
  let t := mapped s
  { t with streams := [(5, stream0 kind)], fw := { t.fw with boot := .running } }
/-- Its capability: the first 20 bytes, with all rights, and the seal. -/
def capHead (kind : Nat) : List Byte := leOf 2 (5 + kind * 2 ^ 12) ++ [0x6F, 0, 0, 0, 0, 0] ++ leOf 8 4096 ++ leOf 4 0
noncomputable def cap5 (s : State) (kind : Nat) : List Byte := capHead kind ++ s.seal (capHead kind)
theorem cap5_sealed (s : State) (kind : Nat) : bytesAt (cap5 s kind) 20 12 = s.seal (cap5 s kind) := by
  have e : bytesAt (cap5 s kind) 20 12 = s.seal (capHead kind) := by
    have := bytesAt_right (capHead kind) (s.seal (capHead kind))
    rw [State.seal_length] at this
    exact this
  have e' : bytesAt (cap5 s kind) 0 20 = capHead kind := bytesAt_left (capHead kind) (s.seal (capHead kind))
  rw [e, State.seal, State.seal, e', show bytesAt (capHead kind) 0 20 = capHead kind from rfl]

/-- A field that lies in the first of two parts, and one that lies in the second. -/
theorem fieldAt_left (a b : List Byte) (off n : Nat) (h : off + n ≤ a.length) : fieldAt (a ++ b) off n = fieldAt a off n := by
  have : bytesAt (a ++ b) off n = bytesAt a off n := by
    apply List.ext_getElem
    · simp [bytesAt]
    · intro i hi _
      simp only [bytesAt, List.length_map, List.length_range] at hi
      simp [bytesAt, List.getElem?_append, show off + i < a.length by omega]
  unfold fieldAt
  rw [this]

theorem fieldAt_right (a b : List Byte) (off n : Nat) : fieldAt (a ++ b) (a.length + off) n = fieldAt b off n := by
  have : bytesAt (a ++ b) (a.length + off) n = bytesAt b off n := by
    apply List.ext_getElem
    · simp [bytesAt]
    · intro i _ _
      simp [bytesAt, List.getElem?_append, Nat.add_assoc, Nat.not_lt.2 (Nat.le_add_right a.length (off + i))]
  unfold fieldAt
  rw [this]

theorem cap5_field (s : State) (kind off n : Nat) (h : off + n ≤ 20) : fieldAt (cap5 s kind) off n = fieldAt (capHead kind) off n :=
  fieldAt_left _ _ off n h
theorem cap5_length (s : State) (kind : Nat) : (cap5 s kind).length = 32 := by rw [cap5, List.length_append, State.seal_length]; rfl

/-- The stream's capability unseals, whatever the part's key. -/
theorem cap5_unseals' (s : State) (kind : Nat) (st : Stream) (hs : s.streams.find 5 = some st) (hk : kind < 4) (h1 : st.kind = kind)
    (h2 : st.ring = 4096) (h3 : st.log2 = 6) (h4 : st.gen = 0) :
    s.unseal (cap5 s kind) = some st := by
  unfold State.unseal capLog2 capStream capKind capRing capGen
  simp only [cap5_sealed, cap5_field _ _ 0 2 (by decide), cap5_field _ _ 2 1 (by decide), cap5_field _ _ 3 1 (by decide), cap5_field _ _ 6 2 (by decide),
    cap5_field _ _ 8 8 (by decide), cap5_field _ _ 16 4 (by decide)]
  match kind, hk with
  | 0, _ => rw [show fieldAt (capHead 0) 0 2 % 2 ^ 12 = 5 from rfl, hs]; simp only [h1, h2, h3, h4]; rfl
  | 1, _ => rw [show fieldAt (capHead 1) 0 2 % 2 ^ 12 = 5 from rfl, hs]; simp only [h1, h2, h3, h4]; rfl
  | 2, _ => rw [show fieldAt (capHead 2) 0 2 % 2 ^ 12 = 5 from rfl, hs]; simp only [h1, h2, h3, h4]; rfl
  | 3, _ => rw [show fieldAt (capHead 3) 0 2 % 2 ^ 12 = 5 from rfl, hs]; simp only [h1, h2, h3, h4]; rfl

theorem cap5_unseals (s : State) (kind : Nat) (hk : kind < 4) : (streamsOn kind s).unseal (cap5 (streamsOn kind s) kind) = some (stream0 kind) :=
  cap5_unseals' _ kind _ rfl hk rfl rfl rfl rfl

/-- A TMOV.R at its ring, which is open, busy, unsound, poisoned, and off its unit; its fill in turn and out of turn; a TMOV.V whose version is as
expected and not; and a CPYDEC whose key slot is empty, of another generation, replayed, and due for its tag. -/
def ringOp (phase : EngPhase) (slot : Nat) : EngOp := { engOp .tmovR (tmovDesc 0 64 (ctlOf 0 1)) phase 0 0 with ring := slot }
def verOp (v : Nat) : EngOp := engOp .tmovV (putAt (tmovDesc 0 64 (ctlOf 0 1)) 112 (leOf 8 v)) .claim 0 0
def keyOp (gen ctr : Nat) : EngOp := { engOp .cpydec (descOf [(28, 8, ctr)]) .claim 0 0 with ring := gen, data := List.replicate 36 0 }
theorem witness_EngineClaims :
    (∀ o ∈ [ringOp .reserve 0, ringOp .fill 0, ringOp .fill 1, verOp 128, verOp 5, keyOp 4 11, keyOp 4 10, keyOp 3 11], ∀ f : Bool,
      EngineAt (stateOf (ringPlot f.toNat) (cpGang o) gang1) 0 0 0 0 (ringPlot f.toNat) (cpGang o) o) ∧
    ((cpGang (ringOp .reserve 0)).ringTurn (ringOp .reserve 0) = true ∧ (ringOp .reserve 0).dst = 64 ∧
      0 < (ringOp .reserve 0).ext.foldl (fun a b => a * b) 1 ∧ (ringOp .reserve 0).desc.length = 128) ∧
    (let ring (f : Nat) := Ring.of ((ringPlot f).bower.readN 64 32)
     (ring 0).ok 4096 = true ∧ (ringPlot 0).bower.poisoned 64 32 = false ∧ (ring 0).resv.getLsbD (ring 0).np = false ∧ (ring 0).fill.getLsbD (ring 0).np = false ∧
      (ring 1).fill.getLsbD (ring 1).np = true ∧ (Ring.of (plot0.bower.readN 64 32)).ok 4096 = false ∧ (ring 0).wp = (ringOp .fill 0).ring ∧ (ring 0).wp ≠ (ringOp .fill 1).ring) ∧
    ((verOp 5).dsp = 1 ∧ (verOp 5).dst = 64 ∧ 0 < (verOp 5).ext.foldl (fun a b => a * b) 1 ∧ (ringPlot 0).bower.nat 64 8 = (verOp (64 * 2 ^ 32 + 128)).aux ∧
      (ringPlot 0).bower.nat 64 8 ≠ (verOp 5).aux ∧ (ringPlot 0).bower.poisoned 64 8 = false) ∧
    (let st := ({ (ringPlot 0).bower with poison := [16] } : Store)
     st.poisoned 64 32 = true ∧ (engOp .tmovR (tmovDesc 0 72 (ctlOf 0 1)) .reserve 0 0).dst % 32 ≠ 0) ∧
    (let s := engState 0 (engOp .tmovV (putAt (tmovDesc 0 64 (ctlOf 0 0)) 112 (leOf 8 0)) .claim 0 0)
     s.lookup 0 64 .atomic .engines = (.ok (.hbm 64) 0xFB, s) ∧ (s.countAccess 0 64 (.die 0)).poisonedLoc (.hbm 64) 8 = false ∧
      (s.countAccess 0 64 (.die 0)).hbm.nat 64 8 = 0 ∧ AllPass (gmChecks s0.domain 8 false) 1 (fun _ => 64)) ∧
    ((cpGang (keyOp 4 11)).engCp.head? = some (keyOp 4 11) ∧ Context.fresh.conf = false ∧ confContext.keys.getD (keyOp 4 11).cpySlot none = some ⟨0, 0, 10, 0, 4⟩ ∧
      ({ s0 with contexts := [(0, confContext)] } : State).context 0 = confContext ∧ fieldAt (keyOp 4 11).desc 28 8 = 11) := by
  refine ⟨?_, by decide, by decide, by decide, by decide, ⟨rfl, by decide, by decide, by unfold AllPass; decide⟩, rfl, rfl, rfl, rfl, by decide⟩
  intro o ho f
  simp only [List.mem_cons, List.not_mem_nil, or_false] at ho
  rcases ho with rfl | rfl | rfl | rfl | rfl | rfl | rfl | rfl <;> exact ⟨rfl, rfl, rfl, ⟨rfl, rfl, rfl⟩, rfl⟩

/-- A CPYDEC whose tag is the one that its ciphertext has. -/
noncomputable def sealedOp : EngOp :=
  let head := (descOf [(28, 8, 11)]).take 36
  { keyOp 4 11 with desc := head ++ gcmTag (keyBytes 0) (bytesAt head 24 12) [] }
theorem witness_EngineClaims_tag : gcmTag (keyBytes 0) sealedOp.cpyIv (sealedOp.data.drop 36) = sealedOp.cpyTag ∧ fieldAt sealedOp.desc 28 8 = 11 ∧ sealedOp.cpySlot = 0 := by
  have len : (gcmTag (keyBytes 0) (bytesAt ((descOf [(28, 8, 11)]).take 36) 24 12) []).length = 16 := by
    simp only [gcmTag, xorBytes_length, aesBlock_length]; decide
  refine ⟨?_, rfl, rfl⟩
  have h := bytesAt_right ((descOf [(28, 8, 11)]).take 36) (gcmTag (keyBytes 0) (bytesAt ((descOf [(28, 8, 11)]).take 36) 24 12) [])
  rw [len] at h
  exact h.symm

def auto0 : Automaton := ⟨0, 8192, (descOf [(18, 1, 1), (17, 1, 1), (12, 2, 4), (96, 2, 5)]) ++ List.replicate 384 0 ++ leOf 8 (0x10 + 7 * 2 ^ 16 + 0xFFFF * 2 ^ 32) ++ leOf 8 0, [], [0, 0, 0, 0], [], 0, 0, 0, 0, 0, 0, [], [], [], 0⟩
def event0 : List Byte := putAt (List.replicate 64 0) 0 (leOf 8 3 ++ leOf 8 0 ++ leOf 2 7)
def streamWith (kind : Nat) (l : List EvEntry) : Stream := { stream0 kind with evq := l, e := 1 }
def autoState (a : Automaton) (l : List EvEntry) : State := { streamsOn 1 s0 with autos := [(2, a)], streams := [(5, streamWith 1 l)] }

/-- A capability's home and stream; and a mapped record beside an unmapped one. -/
theorem witness_StreamsAndPosts_queries :
    (Fits plot0 (put gang0 [(8, 0)] []) slot0 [] [10, 8] ∧ gang0.chimes = [] ∧ gang0.fencing .A = false ∧ gang0.storing = false ∧ (0 : Int) % 32 = 0 ∧ (0 : Int) + 32 ≤ plot0.tmpl.l1s ∧
      (4095 : Int) % 32 ≠ 0 ∧ (plot0.tmpl.l1s : Int) < 4096 + 32 ∧ ({ plot0.bower with poison := [7] } : Store).poisoned 0 32 = true ∧ plot0.bower.poisoned 0 32 = false ∧
      s0.capHome (List.replicate 32 0) = some true ∧ s0.unseal (List.replicate 32 0) = none) ∧
    (∀ kind < 4, (streamsOn kind s0).unseal (cap5 (streamsOn kind s0) kind) = some (stream0 kind)) ∧
    (AllPass (gmChecks s0.domain 64 false) 1 (fun _ => 8192) ∧ (∃ ck, FirstBad (gmChecks s0.domain 64 false) 1 (fun _ => 32) ck 0) ∧
      ((autoState auto0 []).autos.find? fun q => q.2.ctx == 0 && q.2.addr == 8192) = some (2, auto0) ∧ (s0.autos.find? fun q => q.2.ctx == 0 && q.2.addr == 8192) = none) :=
  ⟨⟨⟨⟨rfl, rfl, rfl, rfl⟩, by decide, by decide⟩, by decide⟩, fun kind h => cap5_unseals s0 kind h, by unfold AllPass; decide,
    ⟨_, [_, _, _, _, _], [_], rfl, by unfold AllPass; decide, by decide⟩, rfl, rfl⟩

/-- A post of a gang and of a hart on an ORDERED stream of this part. -/
noncomputable def postOp (kind : EngKind) : EngOp := engOp kind (cap5 (streamsOn 1 s0) 1 ++ putAt (List.replicate 64 0) 0 (leOf 8 6)) .start 0 0
noncomputable def evGang (kind : EngKind) : Gang := { gang0 with engEv := [postOp kind] }
def hart0 (skctx : Word64) : Hart := { Hart.fresh with skctx := skctx, x := (Vector.replicate 32 0).set 5 (4096 + 2048) }
def hartState (H : Hart) : State := { streamsOn 1 s0 with cur := .hart 3, harts := [(3, H)] }
theorem witness_StreamsAndPosts_hub :
    (∀ kind ∈ [EngKind.evpost, .evwm], (stateOf plot0 (evGang kind) gang1).plot? 0 = some plot0 ∧ (stateOf plot0 (evGang kind) gang1).gang? 0 0 = some (evGang kind) ∧
      (evGang kind).nextPost = some (postOp kind) ∧ (evGang kind).pastBoundary 0 = true ∧ (evGang kind).pastChimes 0 = true ∧ (evGang kind).pastAcqLoads 0 = true) ∧
    ((streamsOn 1 s0).capHome (cap5 (streamsOn 1 s0) 1) = some true ∧ (streamsOn 1 s0).unseal (cap5 (streamsOn 1 s0) 1) = some (stream0 1) ∧
      (streamsOn 1 s0).streams.find (capStream (cap5 (streamsOn 1 s0) 1)) = some (stream0 1) ∧ fieldAt (cap5 (streamsOn 1 s0) 1) 2 1 % 2 = 1 ∧
      fieldAt (cap5 (streamsOn 1 s0) 1) 2 1 / 2 % 2 = 1 ∧ (stream0 1).kind = 1 ∧ ¬ (6 : Int) ≤ (stream0 1).w ∧ (5 : Int) ≤ (stream0 1).w ∧
      ¬ (stream0 1).released + 2 ^ 6 ≤ (stream0 1).tail) ∧
    ((streamsOn 1 s0).partAccess 0 (4096 + 64 * (1 % 2 ^ 6)) .engWrite .engines ⟨0, 0, 0, 0⟩ .other [0] =
      (.ok (.hbm 4160), (streamsOn 1 s0).countAccess 0 4160 .other)) ∧
    ((hartState (hart0 (2 ^ 63))).cur = .hart 3 ∧ (hartState (hart0 (2 ^ 63))).hart? 3 = some (hart0 (2 ^ 63)) ∧ (hart0 (2 ^ 63)).skctx.getLsbD 63 = true ∧
      (hart0 0).skctx.getLsbD 63 = false ∧ ((hart0 0).reg 5).toNat % 64 = 0 ∧ ((hart0 0).setReg 6 16).reg 6 = 16 ∧
      (hartState (hart0 (2 ^ 63))).readRecord 3 (hart0 (2 ^ 63)) 6144 3 = (.ok (List.replicate 96 0), ((hartState (hart0 (2 ^ 63))).countAccess 0 6144 .other)) ∧
      ∃ b s1, (hartState (hart0 (2 ^ 63))).readRecord 3 (hart0 (2 ^ 63)) 6144 2 = (.ok b, s1)) := by
  refine ⟨?_, ⟨?_, cap5_unseals s0 1 (by decide), ?_, ?_, ?_, rfl, by decide, by decide, by decide⟩, rfl, rfl, rfl, by decide, by decide, by decide, rfl, rfl, ⟨_, _, rfl⟩⟩
  · intro kind hk
    simp only [List.mem_cons, List.not_mem_nil, or_false] at hk
    rcases hk with rfl | rfl <;> exact ⟨rfl, rfl, rfl, rfl, rfl, rfl⟩
  · unfold State.capHome capRing; rw [cap5_field _ _ 8 8 (by decide)]; rfl
  · unfold capStream; rw [cap5_field _ _ 0 2 (by decide)]; rfl
  · rw [cap5_field _ _ 2 1 (by decide)]; rfl
  · rw [cap5_field _ _ 2 1 (by decide)]; rfl

/-- A notify block that passes its checks, from each function in turn, one outside its IDE stream, and one behind a posted write; a
stream that a tail lies beyond, and a mark above its watermark; an
ORDERED stream's next event, a late one, and one with another SEQ; a REPLAY stream's next record; and lost records. -/
noncomputable def notifyBlock : List Byte := cap5 (streamsOn 1 s0) 1 ++ (leOf 8 2 ++ List.replicate 24 0)
def notifyState : State :=
  let t := streamsOn 1 s0
  { t with notifyPages := [(9, 0)], vfs := [(63, ⟨0, .unlocked, none⟩)], fw := { t.fw with access := [((8, 4), 2), ((8, 5), 2)] } }
def pfFn : BusFn := ⟨0, none, none⟩
def vfFn : BusFn := ⟨0, some 63, none⟩
def fetchState : State := { streamsOn 1 s0 with hbm := Store.empty.writeN 4096 (leOf 8 6) }
def lostStream : Stream := { stream0 3 with lost := 2 }
theorem witness_StreamsAndPosts_steps :
    (notifyState.notifyPages.find ((8 * 65536 + 64) / 65536) = none ∧ (9 * 65536 + 64) / 65536 = 9 ∧ (9 * 65536 + 1) % 65536 = 1 ∧ notifyState.notifyPages.find 9 = some 0 ∧ notifyState.fw.boot = .running ∧ notifyState.notifyFail 1 [] = some 3 ∧
      notifyState.notifyFail 64 notifyBlock = none ∧ notifyState.streams.find (capStream notifyBlock) = some (stream0 1) ∧ fieldAt notifyBlock 48 1 = 0 ∧
      ¬ (stream0 1).released + 2 ^ (stream0 1).log2 < fieldAt notifyBlock 32 8 ∧ (stream0 1).released + 2 ^ (stream0 1).log2 < 2 ^ 64 - 1 ∧
      (stream0 1).overrun = false ∧ (stream0 1).w < 6) ∧
    (∀ f ∈ [pfFn, vfFn], fnValid f = true ∧ notifyState.ideBad f = false ∧ notifyState.behind f = false ∧
      (notifyState.fnReaches f 0 && notifyState.tableAllows targetHub (fnMaster f) .store) = true) ∧
    (notifyState.fnReaches vfFn 1 = false ∧ ({ notifyState with vfs := [(63, ⟨0, .run, some 1⟩)] } : State).ideBad vfFn = true ∧
      ({ notifyState with posted := [⟨some pfFn, .notify 9 64 []⟩] } : State).behind pfFn = true) ∧
    (let s := streamsOn 1 s0
     s.scanNext = some 5 ∧ s.partAccess 0 (4096 + 64 * (0 % 2 ^ 6)) .engRead .escapement (hubWho .engRead) .other [5] = (.ok (.hbm 4096), s.countAccess 0 4096 .other) ∧
      (let ev := (s.countAccess 0 4096 .other).readLoc (.hbm 4096) 64
       fieldAt ev 8 8 = (stream0 1).e ∧ (fieldAt ev 0 8 : Int) ≤ (s.countAccess 0 4096 .other).watermark (stream0 1) ∧ fieldAt ev 8 8 ≠ { stream0 1 with e := 64 }.e)) ∧
    (fetchState.scanNext = some 5 ∧ fetchState.streams.find 5 = some (stream0 1) ∧
      fetchState.partAccess 0 (4096 + 64 * (0 % 2 ^ 6)) .engRead .escapement (hubWho .engRead) .other [5] = (.ok (.hbm 4096), fetchState.countAccess 0 4096 .other) ∧
      (fetchState.countAccess 0 4096 .other).poisonedLoc (.hbm 4096) 64 = false ∧
      (let ev := (fetchState.countAccess 0 4096 .other).readLoc (.hbm 4096) 64
       fieldAt ev 8 8 = (stream0 1).e ∧ (fetchState.countAccess 0 4096 .other).watermark (stream0 1) < fieldAt ev 0 8) ∧ ∃ r ∈ (stream0 1).readers, r.pos ≤ (stream0 1).e ∧ ∀ q ∈ (stream0 1).readers, r.pos ≤ q.pos) ∧
    (let s := streamsOn 2 s0
     s.streams.find 5 = some (stream0 2) ∧ (stream0 2).e < (stream0 2).nrec * (stream0 2).epochs ∧ (stream0 2).nrec ≤ 2 ^ 32 ∧ (stream0 2).epoch0 + (stream0 2).epochs ≤ 2 ^ 31 ∧
      ∃ loc s1, s.partAccess 0 (4096 + 64 * replayOrder 64 0 0 0) .engRead .escapement (hubWho .engRead) .other [5] = (.ok loc, s1)) ∧
    (let s := { streamsOn 3 s0 with streams := [(5, lostStream)] }
     s.streams.find 5 = some lostStream ∧ (stream0 3).lost = 0 ∧ 0 < lostStream.lost ∧ lostStream.tail < lostStream.released + 2 ^ lostStream.log2 ∧
      s.lookup 0 (4096 + 64 * (1 % 2 ^ 6)) .engWrite .escapement = (.ok (.hbm 4160) 0xFB, s)) := by
  have whole : bytesAt notifyBlock 0 32 = cap5 (streamsOn 1 s0) 1 := by
    have h := bytesAt_left (cap5 (streamsOn 1 s0) 1) (leOf 8 2 ++ List.replicate 24 0)
    rwa [cap5_length] at h
  have number : fieldAt notifyBlock 0 2 = 4101 := by
    rw [notifyBlock, fieldAt_left _ _ 0 2 (by rw [cap5_length]; decide), cap5_field _ _ 0 2 (by decide)]; rfl
  have rest (off n : Nat) : fieldAt notifyBlock (32 + off) n = fieldAt (leOf 8 2 ++ List.replicate 24 0) off n := by
    have h := fieldAt_right (cap5 (streamsOn 1 s0) 1) (leOf 8 2 ++ List.replicate 24 0) off n
    rwa [cap5_length] at h
  have rights : hasRight (cap5 (streamsOn 1 s0) 1) rightPost = true := by
    unfold hasRight capRights; rw [cap5_field _ _ 2 1 (by decide)]; rfl
  refine ⟨⟨rfl, by decide, by decide, rfl, rfl, rfl, ?_, ?_, ?_, ?_, by decide, rfl, by decide⟩, by decide, by decide, ⟨by decide, rfl, by decide⟩, ⟨by decide, rfl, rfl, by decide, by decide, by decide⟩, ⟨rfl, by decide, by decide, by decide, ⟨_, _, rfl⟩⟩, rfl, rfl, by decide, by decide, rfl⟩
  · have unseals : notifyState.unseal (cap5 (streamsOn 1 s0) 1) = some (stream0 1) := cap5_unseals s0 1 (by decide)
    have len : notifyBlock.length = 64 := by rw [notifyBlock, List.length_append, cap5_length]; rfl
    simp only [State.notifyFail, whole, unseals, len, rights, rest 17 15, rest 16 1]
    decide
  · unfold capStream; rw [number]; rfl
  · exact (rest 16 1).trans (by decide)
  · rw [rest 0 8]; decide

/-- The record with state 1 accepting or not, with a timeout or without. -/
def auto1 (act : Nat) (timeout : Bool) : Automaton :=
  { auto0 with raw := putAt (putAt auto0.raw 280 (leOf 8 act)) 272 (leOf 8 (if timeout then 2 ^ 42 + 2 ^ 49 else 0)) }
def svOp (phase : EngPhase) : EngOp := engOp .svcall (descOf []) phase 0 0
def svGang (phase : EngPhase) : Gang := { gang0 with engEv := [svOp phase], engCp := [tmovAt 2 1 phase 0] }
/-- A call of a service and a function for a level, with 128 bytes. -/
def callOp (service function level : Nat) (phase : EngPhase) : EngOp :=
  engOp .svcall (descOf [(0, 4, service), (4, 4, function), (8, 8, 9), (16, 8, level), (24, 8, 128)]) phase 0 0
def callState (o : EngOp) (calls : List ((Nat × Nat × Word64) × Word64)) : State :=
  { engState 0 o with gangs := [(0, { gang0 with engEv := [o] }), (1, gang1)], contexts := [(0, { Context.fresh with calls := calls })] }
theorem witness_ServicesAndAutomata_services :
    (s0.mayCreate 5 ⟨1, 0, 4096, 6, 0, 0, 0, 0, 0⟩ = true ∧ s0.mayCreate 4095 ⟨0, 0, 64, 20, 0, 0, 0, 0, 0⟩ = true ∧ s0.mayCreate 4096 ⟨0, 0, 64, 20, 0, 0, 0, 0, 0⟩ = false ∧
      s0.mayCreate 5 ⟨1, 0, 4096, 3, 0, 0, 0, 0, 0⟩ = false) ∧
    (let s := streamsOn 1 s0
     s.streams.find 5 = some (stream0 1) ∧ (s.context 0).errStream ≠ some 5 ∧ (stream0 1).gen < 65536 ∧ (stream0 1).log2 < 32 ∧ (stream0 1).ring < 2 ^ 64 ∧
      s.lookup 0 8192 .engWrite .harts = (.ok (.hbm 8192) 0xFB, s) ∧ (stream0 3).kind = 3 ∧ (stream0 1).kind ≠ 3) ∧
    (let s := stateOf plot0 (svGang .wait) gang1
     s.plot? 0 = some plot0 ∧ s.gang? 0 0 = some (svGang .wait) ∧ (svGang .wait).op? 3 0 = some (svOp .wait) ∧ (svOp .wait).kind = .svcall ∧ plot0.place ≠ .saved ∧ plot0.id = 0 ∧
      s.gangsOf 0 = [svGang .wait, gang1] ∧ (∃ o ∈ (svGang .wait).engCp ++ (svGang .wait).engGs ++ (svGang .wait).engCl, o.phase ≠ .finished ∧ o.uses (1 + 1) = true)) ∧
    (∀ o ∈ [callOp 0 0 0 .start, callOp 1 0 0 .start, callOp 5 0 0 .start, callOp 2 1 1 .start, callOp 2 2 1 .start, callOp 2 2 2 .start, callOp 4 0 0 .start,
        callOp 2 1 1 .wait, callOp 2 1 2 .wait], ∀ calls,
      EngineAt (callState o calls) 0 0 3 0 plotPads { gang0 with engEv := [o] } o ∧ o.kind = .svcall ∧ (callState o calls).context 0 = { Context.fresh with calls := calls }) ∧
    (let key := (plotPads.lid, fieldAt (callOp 2 1 1 .wait).desc 0 4, BitVec.ofNat 64 (fieldAt (callOp 2 1 1 .wait).desc 8 8))
     let s := callState (callOp 2 1 1 .wait) []
     let t := (s.setPlot { plotPads with pav := none }).dropPads
     assoc ([(key, 7)] : List ((Nat × Nat × Word64) × Word64)) key = some 7 ∧ t.padLoad 1 0 + 128 ≤ 2 ^ 23 ∧ s.pads.find 1 = some ⟨1, 0, 0, 4096, Store.empty⟩ ∧ plotPads.core / 12 = 0) ∧
    (∀ i < 2, ((mapped s0).tlbHit 0 (ownerOf (64 + i)) (offOf (64 + i)) .engWrite).isSome = true ∧
      (mapped s0).lookup 0 (64 + i) .engWrite .harts = (.ok (.hbm (64 + i)) 0xFB, mapped s0)) ∧
    (let s := stateOf plot0 (svGang .finished) gang1
     s.gangsOf 0 = [svGang .finished, gang1] ∧ ∀ G ∈ [svGang .finished, gang1], ∀ o ∈ G.engCp ++ G.engGs ++ G.engCl, o.phase = .finished) := by
  refine ⟨by decide, ⟨rfl, by decide, by decide, by decide, by decide, rfl, rfl, by decide⟩, ⟨rfl, rfl, rfl, rfl, by decide, rfl, rfl, by decide⟩, ?_,
    by decide, ?_, rfl, by decide⟩
  · intro o ho calls
    simp only [List.mem_cons, List.not_mem_nil, or_false] at ho
    rcases ho with rfl | rfl | rfl | rfl | rfl | rfl | rfl | rfl | rfl <;> exact ⟨⟨rfl, rfl, rfl, ⟨rfl, rfl, rfl⟩, rfl⟩, rfl, rfl⟩
  · intro i hi
    match i, hi with
    | 0, _ => exact ⟨rfl, rfl⟩
    | 1, _ => exact ⟨rfl, rfl⟩

def cand0 : Cand := ⟨0, 0, 1, 0, false, List.replicate 4 none, [0, 0, 0, 0], false, none, false⟩
/-- A record whose one candidate fills it, under a policy, with a diagnostic waiting. -/
def fullAuto (policy : Nat) : Automaton :=
  { auto0 with raw := putAt (putAt auto0.raw 12 [1, 0]) 8 [BitVec.ofNat 8 (8 + 2 * policy)], cands := [cand0], nextUid := 1, diags := [event0] }
/-- A candidate in state 1 at the end of its time: by a timeout, or by the bound of its one exit. -/
def autoEnds (timeout : Bool) : Automaton :=
  { auto1 0 timeout with cands := [cand0], nextUid := 1, raw := putAt (putAt (auto1 0 timeout).raw 528 (leOf 8 (1 + 2 ^ 56) ++ leOf 8 5)) 17 [2] }
def launchItem : Launch := { launch0 with tmplAt := 8192 }
/-- An event that a creation takes, to a state that accepts and to one that does not, with room and with none under each policy, and one
that none takes; no item; a timeout and an expiry; a launch of a record and of none; a post; a diagnostic; and a free slot. -/
theorem witness_ServicesAndAutomata_automata :
    (∀ a ∈ [auto1 0 false, auto1 1 false], let s := autoState a [⟨0, event0⟩]
      s.autos.find 2 = some a ∧ s.autoBlocked a = false ∧ a.TagsOk ∧ (∀ o, (a.offers o a.cands).2.2 = false ∧ (a.offers o a.cands).1 = []) ∧ 0 < a.capacity ∧
      (∃ o, s.nextItem a = some (.event o) ∧ ∃ q, ((a.exits 0).find? fun q => q.matchesCand (a.newCand a.nextCand (fieldAt o.ev 0 8)) o) = some q ∧ a.act q.dest = a.act 1)) ∧
    ((auto1 0 false).act 1 = 0 ∧ (auto1 1 false).act 1 = 1) ∧
    (∀ policy < 3, let a := fullAuto policy
     let s := autoState a [⟨0, event0⟩]
     s.autoBlocked a = false ∧ a.TagsOk ∧ a.policy = policy ∧ a.diag = true ∧ a.diags ≠ [] ∧ a.deadline cand0 = none ∧
      ∃ o, s.nextItem a = some (.event o) ∧ (a.offers o a.cands).1 = cand0 :: [] ∧ (a.offers o a.cands).2.2 = false ∧ a.capacity ≤ (a.offers o a.cands).1.length ∧
        ((a.exits 0).find? fun q => q.matchesCand (a.newCand a.nextCand (fieldAt o.ev 0 8)) o).isSome = true) ∧
    (∃ o, (autoState auto0 [⟨0, putAt event0 16 [8]⟩]).nextItem auto0 = some (.event o) ∧
      ((auto0.exits 0).find? fun q => q.matchesCand (auto0.newCand auto0.nextCand (fieldAt o.ev 0 8)) o).isNone = true) ∧
    (autoState auto0 []).nextItem auto0 = none ∧
    (∀ timeout : Bool, (autoState (autoEnds timeout) []).autos.find 2 = some (autoEnds timeout) ∧ (autoEnds timeout).timesOut cand0 = timeout ∧
      (autoEnds timeout).TagsOk ∧ ∃ d c, (autoState (autoEnds timeout) []).nextItem (autoEnds timeout) = some (.virtual d c)) ∧
    (let a := { auto0 with launches := [launchItem] }
     let s := autoState a []
     s.autos.find 2 = some a ∧ a.launches = launchItem :: [] ∧ (s.slotLaunches 2).find? s.mayEnter = some launchItem ∧ s.backlogLoad < 65536 ∧
      ({ s with autos := [], orphans := [{ launchItem with slot := 2 }] } : State).slotLaunches 2 = [{ launchItem with slot := 2 }] ∧
      (∀ l ∈ s0.slotLaunches 2, s0.mayEnter l = false) ∧
      s.partAccess 0 (8192 + 26) .engRead .escapement (hubWho .engRead) .other [2] = (.ok (.hbm 8218), s.countAccess 0 8218 .other)) ∧
    (let a := { auto0 with posts := [⟨0, 0, event0, false⟩] }
     let s := autoState a []
     s.autos.find 2 = some a ∧ a.posts = ⟨0, 0, event0, false⟩ :: [] ∧ s.autos.find 63 = none) := by
  refine ⟨?_, by decide, ?_, ⟨_, rfl, by decide⟩, rfl, ?_, ⟨rfl, rfl, rfl, by decide, rfl, nofun, rfl⟩, rfl, rfl, rfl⟩
  · intro a ha
    simp only [List.mem_cons, List.not_mem_nil, or_false] at ha
    rcases ha with rfl | rfl <;> exact ⟨rfl, by decide, by unfold Automaton.TagsOk; decide, fun o => ⟨rfl, rfl⟩, by decide, _, rfl, _, rfl, by decide⟩
  · intro policy h
    match policy, h with
    | 0, _ => exact ⟨by decide, by unfold Automaton.TagsOk; decide, by decide, by decide, by decide, by decide, _, rfl, by decide, by decide, by decide, by decide⟩
    | 1, _ => exact ⟨by decide, by unfold Automaton.TagsOk; decide, by decide, by decide, by decide, by decide, _, rfl, by decide, by decide, by decide, by decide⟩
    | 2, _ => exact ⟨by decide, by unfold Automaton.TagsOk; decide, by decide, by decide, by decide, by decide, _, rfl, by decide, by decide, by decide, by decide⟩
  · intro timeout
    cases timeout <;> exact ⟨rfl, by decide, by unfold Automaton.TagsOk; decide, _, _, rfl⟩

/-- The post action of a record whose source names stream 5, with room for one entry, and none. -/
noncomputable def postAuto : Automaton :=
  { auto0 with raw := List.replicate 96 0 ++ (cap5 (streamsOn 1 s0) 1 ++ List.replicate 384 0), posts := [⟨0, 0, putAt (List.replicate 64 0) 0 (leOf 8 6), false⟩] }
noncomputable def postState (tail : Nat) : State := { streamsOn 1 s0 with autos := [(2, postAuto)], streams := [(5, { stream0 1 with tail := tail })] }
theorem bytesAt_mid (a b c : List Byte) : bytesAt (a ++ (b ++ c)) a.length b.length = b := by
  apply List.ext_getElem
  · simp [bytesAt]
  · intro i h _
    simp only [bytesAt, List.length_map, List.length_range] at h
    simp [bytesAt, List.getElem?_append, h, Nat.not_lt.2 (Nat.le_add_right a.length i)]

theorem postAuto_cap : postAuto.cap 0 = cap5 (streamsOn 1 s0) 1 := by
  have h := bytesAt_mid (List.replicate 96 0) (cap5 (streamsOn 1 s0) 1) (List.replicate 384 0)
  rw [cap5_length, List.length_replicate] at h
  exact h

theorem witness_ServicesAndAutomata_post : (postState 1).autos.find 2 = some postAuto ∧
    (∀ tail q, tail = 1 ∧ q = 0 ∨ tail = 64 ∧ q = 0x12 → ∃ u e s1, (postState tail).hubPost (postAuto.cap 0) (putAt (List.replicate 64 0) 0 (leOf 8 6)) .escapement
      (hubWho .engWrite) [2, 0] = (.done q u e, s1)) ∧
    (({ auto0 with diags := [event0] } : Automaton).posts = [] ∧ (autoState { auto0 with diags := [event0] } []).hubPost (auto0.cap 4) event0 .escapement
      (hubWho .engWrite) [2, 4] = (.done 0x10 0 0, autoState { auto0 with diags := [event0] } [])) := by
  refine ⟨rfl, ?_, rfl, rfl⟩
  intro tail q h
  have unseals : (postState tail).unseal (cap5 (streamsOn 1 s0) 1) = some { stream0 1 with tail := tail } := cap5_unseals' (postState tail) 1 _ rfl (by decide) rfl rfl rfl rfl
  have rights : hasRight (cap5 (streamsOn 1 s0) 1) rightPost = true := by
    unfold hasRight capRights; rw [cap5_field _ _ 2 1 (by decide)]; rfl
  have home : (postState tail).capHome (cap5 (streamsOn 1 s0) 1) = some true := by
    unfold State.capHome capRing; rw [cap5_field _ _ 8 8 (by decide)]; rfl
  have number : capStream (cap5 (streamsOn 1 s0) 1) = 5 := by unfold capStream; rw [cap5_field _ _ 0 2 (by decide)]; rfl
  rw [postAuto_cap]
  unfold State.hubPost State.hubPostHere
  simp only [home, unseals, rights, number]
  rcases h with ⟨rfl, rfl⟩ | ⟨rfl, rfl⟩ <;> exact ⟨_, _, _, rfl⟩

/-- The target that the plot's first gang handles, with a permission, a pending vector and an enabled one. -/
def target0 (pend enable : Word64) : Target := ⟨0, 0, 0, 8192, pend, enable, List.replicate 64 ⟨0, 0, 0, 0, 0⟩, (0x800001, 1) :: List.replicate 31 (0, 0), 0, 0⟩
def targetPlot : Plot := { plot0 with target := some 1, handler := 0 }
def targetState (G : Gang) (t : Target) : State := { mapped (stateOf targetPlot G gang1) with targets := [((0, 1), t)], doorbells := [(9, (0, 0x800001))] }
theorem witness_ChimesAndTargets_words :
    (Fits plot0 gang0 slot0 [] [10, 8, 9] ∧ gang0.fencing .A = false ∧ gang0.chimes = [] ∧ plot0.target = none ∧ s0.targetOf plot0 = none) ∧
    (let G := { gang0 with chentry := 0x2000 }
     Fits targetPlot G slot0 [] [10, 8, 9] ∧ targetPlot.target ≠ none ∧ targetPlot.handler = G.idx ∧ G.chentry ≠ 0 ∧
      (targetState G (target0 0 0)).targetOf targetPlot = some (1, target0 0 0) ∧ Ready (targetState G (target0 0 0)) ⟨targetPlot, G, .A, slot0⟩ ∧
      CanIssue (targetState G (target0 0 0)) ⟨targetPlot, G, .A, slot0⟩ [] [10, 8, 9]) ∧
    (let G := { gang0 with chimes := [⟨1, .infoPend, 10, false⟩] }
     Fits plot0 G slot0 [] [] ∧ G.chimes ≠ []) ∧
    (AllPass (gmChecks s0.domain 2048 false) 1 (fun _ => 8192) ∧ (∃ ck, FirstBad (gmChecks s0.domain 2048 false) 1 (fun _ => 1024) ck 0) ∧
      (s0.context 0).nextTarget < 0x0FFFFFFE ∧ 0x0FFFFFFE ≤ { Context.fresh with nextTarget := 0x0FFFFFFE }.nextTarget ∧
      (mapped s0).lookup 0 8192 .engWrite .escapement = (.ok (.hbm 8192) 0xFB, mapped s0) ∧ plot0.place = .resident ∧
      ∀ q ∈ s0.plots, q.2.id = q.1) :=
  ⟨⟨⟨⟨rfl, rfl, rfl, rfl⟩, by decide, by decide⟩, by decide, by decide, rfl, rfl⟩,
    ⟨⟨⟨rfl, rfl, rfl, rfl⟩, by decide, by decide⟩, by decide, by decide, by decide, rfl, ⟨rfl, rfl, rfl, rfl⟩, by decide, by decide⟩,
    ⟨⟨⟨rfl, rfl, rfl, rfl⟩, by decide, by decide⟩, by decide⟩,
    by unfold AllPass; decide, ⟨_, [_, _, _, _, _], [_], rfl, by unfold AllPass; decide, by decide⟩, by decide, by decide, rfl, rfl, by decide⟩

/-- A request at the hub: a chime on vector 63 and on vector 1, which has no permission, each other request, and one whose register is
of the copy that is set aside; the target's plot on its core, halted and saved, suspended and runnable; a doorbell from a function that
may write there and from one that may not; and a delivery. -/
def chimeGang (c : ChimeReq) : Gang := { gang0 with chimes := [c], seq := 1, chentry := 0x2000 }
def ringOf1 (v : Nat) : ChimeReq := ⟨1, .ring 1 v 7, 10, false⟩
def chimeReqs : List ChimeReq :=
  [ringOf1 0, ringOf1 63, ⟨1, .perm 31 5 1, 10, false⟩, ⟨1, .mode 63 3, 10, false⟩,
   ⟨1, .enable 1, 10, false⟩, ⟨1, .infoPend, 10, false⟩, ⟨1, .infoEn, 10, false⟩, ⟨1, .infoDeny, 10, false⟩, ⟨1, .infoVec 63 true, 60, true⟩]
def bellBytes (v : Nat) : List Byte := leOf 4 1 ++ [BitVec.ofNat 8 v] ++ List.replicate 3 0 ++ leOf 4 7 ++ leOf 4 0
def placedPlot (place : Place) (suspended runnable : Bool) : Plot := { targetPlot with place := place, suspended := suspended, runnable := runnable }
def openBell : State :=
  let t := targetState gang0 (target0 0 0)
  { t with vfs := [(63, ⟨0, .unlocked, none⟩)], fw := { t.fw with boot := .running, access := [((8, 4), 2), ((8, 5), 2)] } }
theorem witness_ChimesAndTargets_steps :
    (∀ c ∈ chimeReqs, let s := targetState (chimeGang c) (target0 0 0)
      s.plot? 0 = some targetPlot ∧ targetPlot.id = 0 ∧ s.gang? 0 0 = some (chimeGang c) ∧ targetPlot.away = false ∧ (chimeGang c).chimes = c :: [] ∧
      (c.sh = true → 56 ≤ c.dest.toNat ∧ c.dest.toNat ≤ 60) ∧ (chimeGang c).pastBoundary 1 = true ∧ s.target? 0 1 = some (target0 0 0) ∧
      s.targetOf targetPlot = some (1, target0 0 0)) ∧
    (∀ c ∈ chimeReqs, let s := stateOf plot0 (chimeGang c) gang1
      s.plot? 0 = some plot0 ∧ s.gang? 0 0 = some (chimeGang c) ∧ s.targetOf plot0 = none ∧ plot0.target = none ∧ plot0.place = .resident ∧
      (s.context 0).nextTarget < 0x0FFFFFFE ∧ s.target? 0 1 = none) ∧
    ((1 : Word).toNat / 2 ^ 28 = s0.partno ∧ { chimeGang (ringOf1 0) with pend := some ⟨.phase, 0⟩ }.pastBoundary 1 = false ∧
      0x0FFFFFFE ≤ { Context.fresh with nextTarget := 0x0FFFFFFE }.nextTarget ∧ targetPlot.target = some 1 ∧ targetPlot.handler = 0) ∧
    (let sid : BitVec 24 := BitVec.ofNat 24 (2 ^ 23 + 2 ^ 18 * (s0.partno % 16) + targetPlot.lid % 2 ^ 18)
     (∃ q ∈ (target0 0 0).perms, q.1 = sid ∧ q.2.getLsbD 0 = true) ∧ (¬ ∃ q ∈ (target0 0 0).perms, q.1 = sid ∧ q.2.getLsbD 1 = true) ∧
      (target0 0 0).ctx = 0 ∧ (target0 0 1).enable.getLsbD 0 = true ∧ (target0 0 0).enable.getLsbD 0 = false) ∧
    (∀ place suspended runnable, let Q := placedPlot place suspended runnable
      let s := { targetState (chimeGang (ringOf1 0)) (target0 0 1) with plots := [(0, Q)] }
      s.plot? (target0 0 1).plot = some Q ∧ Q.id = (target0 0 1).plot ∧ Q.place = place ∧ Q.suspended = suspended ∧ Q.runnable = runnable) ∧
    (openBell.doorbells.find ((9 * 65536 + 16) / 65536) = some (0, 0x800001) ∧ (9 * 65536 + 16) % 65536 % 16 = 0 ∧ openBell.fw.boot = .running ∧ (0 % 16 = 0 ∧ (bellBytes 63).length = 16 ∧ fieldAt (bellBytes 63) 4 1 = 63 ∧
      fieldAt (bellBytes 63) 5 3 = 0 ∧ fieldAt (bellBytes 63) 12 4 = 0 ∧ fieldAt (bellBytes 63) 0 4 = 1) ∧ ¬ fieldAt (bellBytes 64) 4 1 < 64) ∧
    (∀ f ∈ [pfFn, vfFn, ⟨1, none, none⟩], fnValid f = true ∧ openBell.ideBad f = false ∧ openBell.behind f = false ∧
      (openBell.fnReaches f 0 && openBell.tableAllows targetHub (fnMaster f) .store) = (f.port == 0)) ∧
    (∀ place ∈ [Place.resident, .halted], let t := target0 (2 ^ 63 + 1) (2 ^ 63)
     let G := { gang0 with chentry := 0x2000 }
     let P := placedPlot place false false
     let s := { targetState G t with plots := [(0, P)] }
     s.plot? 0 = some P ∧ s.gang? 0 0 = some G ∧ P.place ≠ .saved ∧ P.suspended = false ∧ P.saving = none ∧ G.defer = [] ∧ s.denialDue G = false ∧ G.storing = false ∧
      P.target = some 1 ∧ P.handler = 0 ∧ s.target? 0 1 = some t ∧ G.chentry ≠ 0 ∧ G.frames = [] ∧ G.life = .running ∧ G.a.map (·.wait) = some .none ∧ G.b = none ∧
      t.pend.getLsbD 63 = true ∧ t.enable.getLsbD 63 = true ∧ ∀ w < 63, ¬ (t.pend.getLsbD w = true ∧ t.enable.getLsbD w = true)) := by
  refine ⟨?_, ?_, by decide, by decide, fun _ _ _ => ⟨rfl, rfl, rfl, rfl, rfl⟩, ⟨rfl, rfl, by decide⟩, by decide, ?_⟩
  · intro c hc
    simp only [chimeReqs, List.mem_cons, List.not_mem_nil, or_false] at hc
    rcases hc with rfl | rfl | rfl | rfl | rfl | rfl | rfl | rfl | rfl <;> exact ⟨rfl, rfl, rfl, rfl, rfl, by decide, rfl, rfl, rfl⟩
  · intro c _
    exact ⟨rfl, rfl, rfl, rfl, rfl, (by decide : (0 : Nat) < 0x0FFFFFFE), rfl⟩
  · intro place h
    simp only [List.mem_cons, List.not_mem_nil, or_false] at h
    rcases h with rfl | rfl <;>
      exact ⟨rfl, rfl, by decide, rfl, rfl, rfl, by decide, by decide, rfl, rfl, rfl, by decide, rfl, rfl, rfl, rfl, by decide, by decide, by decide⟩

/-- The plot with FP32 tiles 0 and 1 of 2 x 32, and its stream in a state. -/
def shape32 : Word := BitVec.ofNat 32 (1 + 16 * 2 + 4096 * 32)
def tilePlot (q : SqState) : Plot := { plot0 with tiles := [⟨shape32, []⟩, ⟨shape32, []⟩], stream := { SeqStream.idle with state := q, start := 0x4000, pc := 0x4000 } }
theorem witness_TilesAndStreamGates :
    (Fits (tilePlot .idle) gang0 slot0 [2] [8] ∧ (tilePlot .idle).tiles[1]? = some ⟨shape32, []⟩ ∧ (tilePlot .idle).tiles[2]? = none ∧ gang0.active slot0 g0 ≠ 0 ∧
      gang0.active slot0 ⟨0, true⟩ = 0 ∧ Memory.wf [] = true) ∧
    (let v := shape32.toNat
     v < 2 ^ 21 ∧ v % 16 = 1 ∧ v / 16 % 256 = 2 ∧ v / 4096 % 512 = 32 ∧ ¬ 2 ^ 21 < 2 ^ 21) ∧
    (let far (o : Nat) : Mask := maskOf fun i => (BitVec.allOnes 96 : Mask).getLsbD i && decide (16384 < o + 4 * i + 4)
     far 16000 = 0 ∧ (far 16004).getLsbD 95 = true ∧ (∀ j < 95, (far 16004).getLsbD j = false) ∧ 16000 % 4 = 0 ∧ 2 % 4 ≠ 0) ∧
    (∀ q, let P := tilePlot q
      Fits P gang0 slot0 [] [10, 8] ∧ P.stream.state = q ∧ P.stream.sa[0] - gang0.sw[0] = 0 ∧ P.stream.sg[15] < 65535 ∧ P.id = gang0.plot ∧ P.tmpl.seqa = 0) ∧
    (let P := { tilePlot .run with stream := { (tilePlot .run).stream with sa := (Vector.replicate 16 (0 : Word)).set 3 1, sg := (Vector.replicate 16 0).set 3 65535 } }
     Fits P gang0 slot0 [] [] ∧ P.stream.sa[3] - gang0.sw[3] ≠ 0 ∧ 65535 ≤ P.stream.sg[3]) ∧
    (AllPass (gmChecks s0.domain 8 false) 1 (fun _ => 64) ∧ (64 : Word64).toNat % 64 = 0 ∧ AllPass (gmChecks s0.domain 8 false) 1 (fun _ => 8) ∧ (8 : Word64).toNat % 64 ≠ 0 ∧
      ∃ ck, FirstBad (gmChecks s0.domain 8 false) 1 (fun _ => 4) ck 0) := by
  refine ⟨⟨⟨⟨rfl, rfl, rfl, rfl⟩, by decide, by decide⟩, by decide⟩, by decide, by decide, ?_, ⟨⟨⟨rfl, rfl, rfl, rfl⟩, by decide, by decide⟩, by decide, by decide⟩,
    by unfold AllPass; decide, by decide, by unfold AllPass; decide, by decide, ⟨_, [_, _, _, _, _], [_], rfl, by unfold AllPass; decide, by decide⟩⟩
  intro q
  cases q <;> exact ⟨⟨⟨rfl, rfl, rfl, rfl⟩, by decide, by decide⟩, by decide⟩

/-- A plot's stream under its own word. -/
def onStream (P : Plot) : State := { stateOf P gang0 gang1 with cur := .stream 0 }
theorem witness_StreamControlWords :
    (OnStream (onStream (tilePlot .run)) (tilePlot .run) ∧ ((0x4000 : Word64) + (8 : BitVec 32).signExtend 64).toNat % 8 = 0 ∧
      ((0x4000 : Word64) + (4 : BitVec 32).signExtend 64).toNat % 8 ≠ 0 ∧ ((0x4000 : Word64) + (4 : BitVec 16).signExtend 64).toNat % 8 ≠ 0 ∧
      ((0x4000 : Word64) + (0xFFF8 : BitVec 16).signExtend 64).toNat % 8 = 0 ∧ (tilePlot .run).stream.lc[3] + 1 < (2 : BitVec 16).toNat ∧
      ¬ (tilePlot .run).stream.lc[3] + 1 < (1 : BitVec 16).toNat ∧ (0 : BitVec 16).toNat ≤ (tilePlot .run).stream.sg[15] ∧ (tilePlot .run).stream.sg[15] < (1 : BitVec 16).toNat) ∧
    (let P := { tilePlot .run with stream := { (tilePlot .run).stream with sa := (Vector.replicate 16 (0 : Word)).set 3 0xFFFFFFFF } }
     OnStream (onStream P) P ∧ (onStream P).gangsOf 0 = [gang0, gang1] ∧ gang0.life = .running ∧ P.stream.sa[3] - gang0.sw[3] = 0xFFFFFFFF ∧
      ¬ (P.stream.sa[2] - gang0.sw[2] = 0xFFFFFFFF ∨ P.stream.sa[2] - gang1.sw[2] = 0xFFFFFFFF)) ∧
    (let P := { tilePlot .wait with stream := { (tilePlot .wait).stream with want := some (15, 1) } }
     (onStream P).plot? 0 = some P ∧ P.place = .resident ∧ P.stream.state = .wait ∧ P.stream.want = some (15, 1) ∧ P.stream.sg[15] < 1) ∧
    (onStream { tilePlot .run with place := .halted }).plot? 0 = some { tilePlot .run with place := .halted } :=
  ⟨⟨⟨rfl, rfl, rfl⟩, by decide⟩, ⟨⟨rfl, rfl, rfl⟩, rfl, by decide, by decide, by decide⟩, ⟨rfl, rfl, rfl, rfl, by decide⟩, rfl⟩

/-- Five tiles: FP32 of 2 x 32 twice, FP32 of 2 x 2, FP16 of 2 x 32, and one block of T8. -/
def shapeOf (f r c : Nat) : Word := BitVec.ofNat 32 (f + 16 * r + 4096 * c)
def matPlot : Plot := { tilePlot .run with tiles := [⟨shape32, []⟩, ⟨shape32, []⟩, ⟨shapeOf 1 2 2, []⟩, ⟨shapeOf 2 2 32, []⟩, ⟨shapeOf 4 1 1, []⟩, ⟨0, []⟩] }
theorem passes {P : Plot} (ts : List (TReg × List Nat))
    (h : ts.all (fun t => decide (t.1.toNat < P.tiles.length) && decide (P.shapeAt t.1.toNat ≠ 0) &&
      (t.2.isEmpty || t.2.contains ((P.shapeAt t.1.toNat).toNat % 16))) = true) : TilesPass P ts := by
  intro t m
  have := List.all_eq_true.1 h t m
  simp only [Bool.and_eq_true, Bool.or_eq_true, decide_eq_true_eq, List.isEmpty_iff, List.contains_iff_mem] at this
  exact ⟨this.1.1, this.1.2, this.2⟩

/-- Rows that move at their own length and apart, up to the bower's end and past it; blocks that are sound and not; tiles of
one shape and of two; and the exchange's places. -/
theorem witness_StreamTileWords :
    (OnStream (onStream matPlot) matPlot ∧ matPlot.bower.mem.wf = true ∧ Memory.wf [] = true) ∧
    -- word 32 of the bower poisoned: the second of two rows of 128 bytes, the second block, TAMAX's word, and a word of which a row covers half
    (let hurt (a n : Nat) : Prop := ∃ k ∈ [32], 4 * k < a + n ∧ a < 4 * k + 4
     FirstOf (List.range 2) (fun r => hurt (r * 128) 128) 1 ∧ (∀ r < 2, ¬ hurt (256 + r * 128) 128) ∧
      FirstOf (List.range 3) (fun u => hurt (64 * u) 64 ∨ (none : Option Nat) ≠ none) 2 ∧ 128 / 4 ∈ [32] ∧ 136 / 4 ∉ [32] ∧
      (∃ a, 4 * 32 ≤ a ∧ a < 4 * 32 + 4 ∧ ∀ r < 1, a < 126 + r * 4 ∨ 126 + r * 4 + 4 ≤ a) ∧
      ¬ ∃ a, 4 * 32 ≤ a ∧ a < 4 * 32 + 4 ∧ ∀ r < 2, a < 126 + r * 4 ∨ 126 + r * 4 + 4 ≤ a) ∧
    (TilesPass matPlot [(0, [])] ∧ FirstOf [((6 : TReg), ([] : List Nat))] (fun t => matPlot.tiles.length ≤ t.1.toNat) (6, []) ∧
      FirstOf [((5 : TReg), ([] : List Nat))] (fun t => matPlot.shapeAt t.1.toNat = 0) (5, [])) ∧
    (4096 - 256 + (2 - 1) * 128 + 128 ≤ matPlot.tmpl.l1s ∧ matPlot.tmpl.l1s < 4096 - 192 + (2 - 1) * 128 + 128 ∧ (64 * (1 : BitVec 8).toNat < 128) ∧ 128 ≤ 64 * (2 : BitVec 8).toNat) ∧
    (TilesPass matPlot [(4, [])] ∧ (matPlot.shapeAt 4).toNat % 16 = 4 ∧ blkCheck (matPlot.bower.mem.readN 0 64) (fun f => f == 1) = some 1 ∧
      blkCheck ((Store.empty.writeN 0 [1]).mem.readN 0 64) (fun f => f == 1) = none) ∧
    (TilesPass matPlot [(0, [1]), (1, [1]), (0, [1])] ∧ matPlot.shapeAt 1 = matPlot.shapeAt 0 ∧ TilesPass matPlot [(0, [1]), (2, [1]), (2, [1])] ∧
      matPlot.shapeAt 2 ≠ matPlot.shapeAt 0 ∧ FirstOf [((3 : TReg), [1])] (fun t => t.2 ≠ [] ∧ (matPlot.shapeAt t.1.toNat).toNat % 16 ∉ t.2) (3, [1])) ∧
    (4088 % 8 = 0 ∧ 4088 + 8 ≤ matPlot.tmpl.l1s ∧ matPlot.tmpl.l1s < 4096 + 8 ∧ 4 % 8 ≠ 0) ∧
    (TilesPass matPlot [(0, [1]), (3, [])] ∧ (3 : TReg) ≠ 0 ∧ (matPlot.shapeAt 3).toNat % 16 = 2 ∧ (matPlot.shapeAt 3).toNat / 4096 % 512 = 32 ∧
      ¬ (matPlot.shapeAt 2).toNat % 16 = 2) :=
  ⟨⟨⟨rfl, rfl, rfl⟩, by decide, by decide⟩,
    ⟨⟨[0], [], rfl, by decide, by decide⟩, by decide, ⟨[0, 1], [], rfl, by decide, by decide⟩, by decide, by decide, ⟨130, by decide, by decide, by decide⟩,
      by rintro ⟨a, h1, h2, h⟩; have := h 0 (by omega); have := h 1 (by omega); omega⟩,
    ⟨passes _ (by decide), ⟨[], [], rfl, by decide, nofun⟩, ⟨[], [], rfl, by decide, nofun⟩⟩, by decide,
    ⟨passes _ (by decide), by decide, by decide, by decide⟩, ⟨passes _ (by decide), by decide, passes _ (by decide), by decide, ⟨[], [], rfl, by decide, nofun⟩⟩, by decide,
    passes _ (by decide), by decide⟩

/-- A product of tiles 0 and 1 into tile 2, a word of it under way, and groups of FP16 with the first group's rows. -/
def matRun : MatRun := ⟨false, ⟨shape32, []⟩, [(0, 2, ⟨shape32, []⟩)], 2, shapeOf 1 2 2, 0⟩
def runPlot : Plot := { matPlot with stream := { matPlot.stream with mat := some matRun } }
def groupPlot (n : Nat) : Plot := { matPlot with bower := matPlot.bower.writeN 64 [BitVec.ofNat 8 n] }
theorem witness_MatrixWords :
    (OnStream (onStream matPlot) matPlot ∧ matPlot.stream.mat = none ∧ TilesPass matPlot [(0, [1]), (1, [1]), (2, [1])] ∧
      (matPlot.shapeAt 0).toNat / 4096 % 512 = (matPlot.shapeAt 1).toNat / 4096 % 512 ∧ (matPlot.shapeAt 2).toNat / 16 % 256 = (matPlot.shapeAt 0).toNat / 16 % 256 ∧
      (matPlot.shapeAt 2).toNat / 4096 % 512 = (matPlot.shapeAt 1).toNat / 16 % 256 ∧ ¬ 4 ≤ (matPlot.shapeAt 0).toNat % 16 ∧ TilesPass matPlot [(0, [1]), (2, [1]), (0, [1])] ∧
      (matPlot.shapeAt 0).toNat / 4096 % 512 ≠ (matPlot.shapeAt 2).toNat / 4096 % 512) ∧
    (TilesPass matPlot [(4, [4]), (4, [4]), (2, [1])] ∧ blkCheck ((matPlot.tiles.getD 4 Tile.fresh).mem.readN 0 64) (fun f => f == 1) = some 1) ∧
    (OnStream (onStream runPlot) runPlot ∧ runPlot.stream.mat = some matRun ∧ matRun.groups = (0, 2, ⟨shape32, []⟩) :: [] ∧
      (shape32.toNat / 16 % 256 = matRun.cshape.toNat / 4096 % 512) ∧ (runPlot.tiles.getD 2 Tile.fresh).mem.wf = true) ∧
    (∀ n, OnStream (onStream (groupPlot n)) (groupPlot n) ∧ (groupPlot n).stream.mat = none) ∧
    (TilesPass (groupPlot 2) [(3, [2]), (2, [1])] ∧ (groupPlot 2).tiles.length ≤ 16 ∧ 64 % 64 = 0 ∧ 64 + 2 * 1 ≤ (groupPlot 2).tmpl.l1s ∧
      (∃ k ∈ [16], 4 * k < 64 + 2 * 1 ∧ 64 < 4 * k + 4) ∧ (¬ ∃ k ∈ [17], 4 * k < 64 + 2 * 1 ∧ 64 < 4 * k + 4) ∧
      (groupPlot 2).bower.nat 64 2 = 2 ∧ (groupPlot 3).bower.nat 64 2 = 3 ∧ (groupPlot 0).bower.nat 64 2 = 0 ∧ (groupPlot 2).shapeAt 3 = shapeOf 2 2 32 ∧
      (groupPlot 2).tmpl.l1s < 4096 + 2 * 1) :=
  ⟨⟨⟨rfl, rfl, rfl⟩, rfl, passes _ (by decide), by decide, by decide, by decide, by decide, passes _ (by decide), by decide⟩, ⟨passes _ (by decide), by decide⟩,
    ⟨⟨rfl, rfl, rfl⟩, rfl, rfl, by decide, by decide⟩, fun _ => ⟨⟨rfl, rfl, rfl⟩, rfl⟩, passes _ (by decide), by decide⟩

/-- Marks at the powers of two from 1/8 to 8, their record at 64 of the bower, and their dial in a core. -/
def marks0 : Marks := [0x3E000000, 0x3E800000, 0x3F000000, 0x3F800000, 0x40000000, 0x40800000, 0x41000000]
def dialPlot : Plot := { plot0 with bower := plot0.bower.writeN 64 (marks0.flatMap fun w => leOf 4 w.toNat), dials := plot0.dials.set 1 (some marks0) }
def withDial (c : Core) (s : State) : State := s.setCore 0 c
theorem witness_DialWords :
    (Fits dialPlot (put gang0 [(8, 64)] []) slot0 [1, 2, 3] [8, 10] ∧ dialPlot.dials[0] = none ∧ dialPlot.dials[1] = some marks0) ∧
    (let mark (k : Nat) : Nat := fieldAt (dialPlot.bower.readN 64 32) (4 * k) 4
     (∀ k < 7, 0x00800000 ≤ mark k ∧ mark k < 0x7F800000) ∧ (∀ k < 6, mark k < mark (k + 1)) ∧ fieldAt (dialPlot.bower.readN 64 32) 28 4 = 0 ∧
      dialPlot.bower.poisoned 64 32 = false ∧ (64 : Int) % 32 = 0 ∧ (64 : Int) + 32 ≤ dialPlot.tmpl.l1s ∧ fieldAt (plot0.bower.readN 64 32) 0 4 < 0x00800000) ∧
    (let c := { Core.fresh with dials := Core.fresh.dials.set 1 (some marks0) }
     let s := withDial c (stateOf dialPlot gang0 gang1)
     Ready s ⟨dialPlot, gang0, .A, slot0⟩ ∧ CanIssue s ⟨dialPlot, gang0, .A, slot0⟩ [1, 2, 3] [8, 10] ∧ (s.core 0).dials.toList[1]? = some (some marks0) ∧ (s.core 0).compile = []) ∧
    (((stateOf dialPlot gang0 gang1).core 0).dials.toList[1]? = some none ∧ (withDial { Core.fresh with compile := [(1, marks0)] } s0).core 0 = { Core.fresh with compile := [(1, marks0)] } ∧
      [((1 : Nat), marks0)] = [] ++ (1, marks0) :: [] ∧ (∀ q ∈ s0.gangs, s0.dialWanted 0 1 q.2 = false)) ∧
    (let G := { gang0 with a := some { slot0 with wait := .dial 1 marks0 } }
     let s := withDial { Core.fresh with dials := Core.fresh.dials.set 1 (some marks0) } (stateOf dialPlot G gang1)
     (0, G) ∈ s.gangs ∧ s.dialWanted 0 1 G = true) ∧
    (gang0.active slot0 g0 ≠ 0 ∧ gang0.active slot0 ⟨0, true⟩ = 0 ∧ blkCheck (plot0.bower.readN 0 64) (fun _ => true) = some 1 ∧
      blkCheck ((Store.empty.writeN 0 [0x10, 0]).readN 0 64) (fun _ => true) = none ∧ blkCheck ((Store.empty.writeN 0 [1, 0]).readN 0 64) (fun _ => true) = none ∧ marks0.tag ≠ 0) :=
  ⟨⟨⟨⟨rfl, rfl, rfl, rfl⟩, by decide, by decide⟩, by decide⟩, by decide, ⟨⟨rfl, rfl, rfl, rfl⟩, ⟨by decide, by decide⟩, rfl, rfl⟩, ⟨rfl, rfl, rfl, by decide⟩, ⟨.head _, by decide⟩, by decide⟩

theorem marks_valid (m : Marks) (h : (decide (m.length = 7) && m.all (fun w => Nat.ble 0x00800000 w.toNat && Nat.blt w.toNat 0x7F800000) &&
    (List.range 6).all fun k => Nat.blt (m.getD k 0).toNat (m.getD (k + 1) 0).toNat) = true) : ValidDial m := by
  simp only [Bool.and_eq_true, decide_eq_true_eq, List.all_eq_true, Nat.ble_eq, Nat.blt_eq, List.mem_range] at h
  exact ⟨h.1.1, h.1.2, h.2⟩
theorem witness_DialTablesAreExact : ValidDial marks0 := marks_valid _ (by decide)
/-- A mark at each end of its range too. -/
theorem witness_DialConversions : ValidDial marks0 ∧ ValidDial [0x00800000, 0x00800001, 0x3F800000, 0x40000000, 0x40400000, 0x7F7FFFFE, 0x7F7FFFFF] :=
  ⟨marks_valid _ (by decide), marks_valid _ (by decide)⟩

/-- A launch at the head of a backlog, its template at 8192, its context on cluster 0 and the firmware running. -/
def template0 (gangs : Nat) : List Byte := descOf [(0, 8, 0x1000), (16, 2, 192), (18, 1, 2), (19, 1, gangs), (20, 4, 4096), (25, 1, 2), (26, 1, 3)]
def headEntry (what : Entry) : Backlog := ⟨3, 7, what, 0⟩
def admitState (what : Entry) (gangs : Nat) (s : State) : State :=
  let t := mapped s
  { t with fw := { t.fw with boot := .running }, contexts := [(0, { Context.fresh with clusters := [0] })], backlog := [headEntry what], hbm := t.hbm.writeN 8192 (template0 gangs) }
def launchHead : Entry := .launch launchItem
/-- A saved plot of one gang without registers, a record that it might have left, and the record once the runtime has moved its PC. -/
def savedPlot : Plot := { plot0 with place := .saved, rec_ := 16384, tmpl := { tmpl0 with l1s := 0, gangs := 1, tiles := 0 }, tiles := [] }
def savedGang (pc : Word64) : Gang := { gang0 with v := [], a := some { slot0 with pc := pc } }
def plainState : State := { State.reset with plots := [(0, savedPlot)], gangs := [(0, savedGang 0x1000)] }
def editedState : State := { plainState with gangs := [(0, savedGang 0x2000)] }
def recordBytes (state : Nat) : List Byte :=
  let b := editedState.sections savedPlot
  leOf 4 state ++ List.replicate 20 0 ++ leOf 8 (b.length + 128) ++ leOf 8 9 ++ List.replicate 24 0 ++ b ++ List.replicate 56 0 ++ leOf 8 9
def savedState (state : Nat) : State :=
  let t := admitState (.plot 0) 2 plainState
  { t with hbm := { t.hbm with mem := Memory.ofBytes 16384 (recordBytes state) } }
def admitGrant (l2s : Nat) : State :=
  let t := admitState launchHead 2 State.reset
  { t with hbm := t.hbm.writeN 8192 (putAt (template0 2) 28 (leOf 4 l2s)) }

theorem witness_Admission :
    (∀ gangs ∈ [2, 0], let s := admitState launchHead gangs State.reset
      headOf s.backlog = some (headEntry launchHead) ∧ s.booted = true ∧ (s.context (s.entryCtx launchHead)).clusters.contains (11 / 12) = true ∧
      ∃ t s1, s.readTemplate 0 8192 .escapement [0] = (.ok t, s1) ∧ fieldAt t 19 1 = gangs ∧ tmplBad t = decide (gangs = 0) ∧ s1.plots = [] ∧ (templateOf t gangs).l2s = 0 ∧
        ((templateOf t gangs).span, (templateOf t gangs).l1s, (templateOf t gangs).budget, (templateOf t gangs).vregs) = (0, 4096, 192, 16)) ∧
    (let s := admitState launchHead 2 (stateOf { plot0 with budget := 1536 } gang0 gang1)
     ∃ t s1, s.readTemplate 0 8192 .escapement [0] = (.ok t, s1) ∧ (s1.plots.map fun q => (q.2.core, q.2.place, q.2.budget)) = [(0, Place.resident, 1536)]) ∧
    (∃ t s1, (admitGrant 128).readTemplate 0 8192 .escapement [0] = (.ok t, s1) ∧ tmplBad t = false ∧ (templateOf t 2).l2s = 128 ∧ s1.padLoad 1 (11 / 12) = 0) ∧
    (∀ n, (savedState n).backlog = [headEntry (.plot 0)] ∧ (savedState n).plot? 0 = some savedPlot ∧ savedPlot.id = 0 ∧ savedPlot.place = .saved ∧ savedPlot.moveTo = none ∧
      savedPlot.pav = none ∧ savedPlot.cons = none) ∧
    (∃ r s1, (savedState 1).readSave savedPlot = (.ok r, s1) ∧ s1.plots = (savedState 1).plots ∧ s1.gangs = (savedState 1).gangs ∧ r = recordBytes 1) ∧
    (fieldAt (recordBytes 1) 0 4 = 1 ∧ fieldAt (recordBytes 1) (fieldAt (recordBytes 1) 24 8 - 8) 8 = fieldAt (recordBytes 1) 32 8 ∧
      ((recordBytes 1).take ((recordBytes 1).length - 64)).drop 64 = editedState.sections savedPlot) ∧
    (let s := savedState 1
     let x := s.savedPlot savedPlot (((recordBytes 1).take ((recordBytes 1).length - 64)).drop 64)
     let Q := x.1.P
     let loaded := (s.retarget x.1).loadGangs savedPlot (natOf (x.2.take 1)) (x.2.drop 1)
     (∀ g < 16, (s.gang? 0 g).all (fun G => decide (G.plot = 0 ∧ G.idx = g)) = true) ∧ (s.placesOf Q, Q.budget, Q.tmpl.l1s, Q.tmpl.tiles, Q.circles.length) = (1, 192, 0, 0, 1) ∧
      (loaded.1.gang? 0 0).map (fun G => slotView G.a) = some (some (0x2000, BitVec.allOnes 96, .none)) ∧
      ((s.plots.map (·.2)).filter fun P => P.core == 11 && P.place != .saved) = [] ∧ savedPlot.late = []) ∧
    (∃ r s1, (savedState 0).readSave savedPlot = (.ok r, s1) ∧ fieldAt r 0 4 ≠ 1) ∧
    (∃ s1, ({ savedState 1 with tlb := [] } : State).readSave savedPlot = (.error .wait, s1)) ∧
    (∃ s1, (shut (savedState 1)).readSave savedPlot = (.error .denied, s1)) ∧
    (admitState (.plot 0) 2 s0).plot? 0 = some plot0 := by
  refine ⟨?_, ⟨_, _, rfl, rfl⟩, ⟨_, _, rfl, by decide, by decide, by decide⟩, fun _ => ⟨rfl, rfl, rfl, rfl, rfl, rfl, rfl⟩, ⟨_, _, rfl, rfl, rfl, by decide⟩, by decide,
    ⟨by decide, by decide, by decide, rfl, rfl⟩, ⟨_, _, rfl, by decide⟩, ⟨_, rfl⟩, ⟨_, rfl⟩, rfl⟩
  intro gangs hg
  simp only [List.mem_cons, List.not_mem_nil, or_false] at hg
  rcases hg with rfl | rfl <;> exact ⟨rfl, rfl, rfl, _, _, rfl, rfl, rfl, rfl, rfl, rfl⟩

/-- A gang with one engine operation under way, a full tile, and a slot in each wait that a record keeps, with a FID and without. -/
theorem witness_RecordSections :
    ((gang0.engCp.map (·.num)).Nodup ∧ gang0.engCp.length < 2 ^ 16 ∧
      ((Field.decode gangFields (Field.encode gangFields (savedGang 0x1002)) gang0).1.a.map (·.pc)) = some 0x1000 ∧
      ∀ o ∈ (Field.decode gangFields [] gang0).1.engCp, o.kind = .tmovR → o.phase = .reserve → o.desc.length = 128 ∧ o.off < 2 ^ 32) ∧
    (⟨shape32, Memory.writeN [] 0 (List.replicate 256 1)⟩ : Tile).mem.Within 16384 ∧
    (∀ w ∈ [Wait.none, .vclaim, .bar 255, .join 7], ∀ f ∈ [none, some 5], let S : PcSlot := { slot0 with wait := w, fid := f }
      S = { PcSlot.fresh S.pc S.mask with wait := S.wait, fid := S.fid } ∧ (∀ n, S.fid = some n → n < 2 ^ 32) ∧
        (S.wait = .none ∨ S.wait = .vclaim ∨ (∃ c < 256, S.wait = .bar c) ∨ ∃ t < 2 ^ 64, S.wait = .join t)) := by
  refine ⟨by decide, ?_, ?_⟩
  · exact ⟨by decide, fun a h => Memory.read_writeN_other _ _ _ _ (.inr (by simp only [List.length_replicate]; omega))⟩
  · intro w hw f hf
    simp only [List.mem_cons, List.not_mem_nil, or_false] at hw hf
    rcases hf with rfl | rfl <;> rcases hw with rfl | rfl | rfl | rfl <;> simp [slot0, PcSlot.fresh]

/-- Twelve plots that fill the cores of cluster 0, the first of one gang whose slot may be swapped out; and a launch that
has been the head since tick 0. -/
def fullPlot (k budget : Nat) : Plot := { plot0 with id := k, core := k, budget := budget }
def swapGang : Gang := { gang0 with a := some { slot0 with swap := true } }
def crowd (prio budget ticks : Nat) (G : Gang) : State :=
  { admitState launchHead 2 State.reset with
    ticks := ticks, backlog := [⟨prio, 7, launchHead, 0⟩], headSince := some (7, 0)
    plots := (List.range 12).map (fun k => (k, fullPlot k budget)), gangs := [(0, G)] }
def crowdNeed : Need := ⟨2, 192, 4096, 2, 1, []⟩

theorem gang?_stateOf (P : Plot) (G H : Gang) (p g : Nat) (K : Gang) (hg : g < 16) (h : (stateOf P G H).gang? p g = some K) :
    (p = 0 ∧ g = 0 ∧ K = G) ∨ (p = 0 ∧ g = 1 ∧ K = H) := by
  have h : Tbl.find [(0, G), (1, H)] (gangKey p g) = some K := h
  by_cases h0 : gangKey p g = 0
  · rw [h0] at h
    exact .inl ⟨by unfold gangKey at h0; omega, by unfold gangKey at h0; omega, (Option.some.inj h).symm⟩
  by_cases h1 : gangKey p g = 1
  · rw [h1] at h
    exact .inr ⟨by unfold gangKey at h1; omega, by unfold gangKey at h1; omega, (Option.some.inj h).symm⟩
  · simp [Tbl.find, Ne.symm h0, Ne.symm h1] at h

/-- The head before 20 µs and at them, with a core that holds it and with none; the plots that it may move out, and none. -/
theorem witness_PreemptionAndSaves_heads :
    (∀ q ∈ [(3, 192, 21999, swapGang), (3, 192, 22000, swapGang), (3, 1536, 22000, swapGang), (2, 1536, 22000, gang0)], let ⟨prio, budget, ticks, G⟩ := q
      let s := crowd prio budget ticks G
      headOf s.backlog = some ⟨prio, 7, launchHead, 0⟩ ∧ s.headSince = some (7, 0) ∧ s.entryNeed launchHead = some crowdNeed ∧
        (s.context launchItem.ctx).clusters = [0] ∧ s.ticks = ticks) ∧
    (crowd 3 192 22000 swapGang).fits 0 crowdNeed none = true ∧
    (∀ k < 12, (crowd 3 1536 22000 swapGang).fits k crowdNeed none = false) ∧
    ((fullPlot 11 1536).tmpl.prio + 3 ≤ 3 ∧ ¬ (fullPlot 11 1536).tmpl.prio + 3 ≤ 2) ∧
    (crowd 3 1536 22000 swapGang).fits 11 crowdNeed (some 11) = true ∧
    (crowd 3 1536 22000 swapGang).gangsOf 0 = [swapGang] ∧ (crowd 3 1536 22000 swapGang).entryDue (fullPlot 0 1536) swapGang = false ∧ swapGang.life = .running ∧ swapGang.a = some { slot0 with swap := true } ∧ swapGang.b = none ∧
    (crowd 3 1536 22000 gang0).gangsOf 0 = [gang0] ∧ gang0.a = some slot0 ∧ slot0.swap = false := by
  refine ⟨?_, by decide⟩
  intro q h
  simp only [List.mem_cons, List.not_mem_nil, or_false] at h
  rcases h with rfl | rfl | rfl | rfl <;> exact ⟨rfl, rfl, rfl, rfl, rfl⟩

/-- Tables of owner 0 for context 0 at 4096, 8192, 12288 and 16384, each pointing to the next by its first entry, but for the
last level `lv`, whose first entry is `e`. -/
def tabAt (j : Nat) : Nat := 4096 * (j + 1)
def tablesOf (lv e : Nat) : Store :=
  ((List.range lv).foldl (fun (st : Store) j => st.writeN (tabAt j) (leOf 8 (tabAt (j + 1) + 1))) Store.empty).writeN (tabAt lv) (leOf 8 e)
def walkState (owner lv e : Nat) : State :=
  { State.reset with roots := [((0, owner), 4096)], hbm := tablesOf lv e, fw := { State.reset.fw with access := (List.range 10).map fun k => ((owner, k), 7) } }
/-- A leaf with READ, WRITE and EXEC and its frame at 512 MiB, and with PIN for the host. -/
def leafE (owner : Nat) : Nat := 2 ^ 29 * 2 + 0x3B + (if owner = 8 then 256 else 0)

def haltedPlot (emergency : Bool) : Plot := { plot0 with place := .halted, emergency := emergency }
/-- A halted plot that is quiet, one whose word sleeps or waits on a fault in WAITC, and one with an atomic under way; a save at its
first line and at its last, to the host and to a page that the owner gives or has no leaf for; a saved plot with a watch,
runnable or not, suspended or not, whose word lies on the part, in host memory and nowhere. -/
def watchPlot (suspended : Bool) : Plot := { plot0 with place := .saved, rec_ := 4096, watches := [8192, 8 * 2 ^ 48], suspended := suspended }
def savingPlot (emergency suspended runnable : Bool) (done : Nat) : Plot :=
  { plot0 with place := .halted, emergency := emergency, suspended := suspended, runnable := runnable, trapper := if suspended then some (0, true) else none
               saving := some ⟨16384, 1, List.replicate 192 0, done⟩ }
theorem witness_PreemptionAndSaves_saves :
    (∀ P G, P.id = 0 → G.plot = 0 → G.idx = 0 → let s := stateOf P G gang1
      (∀ q ∈ s.plots, q.2.id = q.1) ∧ (s.plots.map (·.1)).Nodup ∧ (s.gangs.map (·.1)).Nodup ∧ s.plot? 0 = some P ∧
        ∀ p, ∀ g < 16, ∀ K, s.gang? p g = some K → K.plot = p ∧ K.idx = g) ∧
    (let G := { gang0 with a := some { slot0 with wait := .sleep 500 } }
     let s := stateOf (haltedPlot false) G gang1
     s.plot? 0 = some (haltedPlot false) ∧ (haltedPlot false).stream.state ≠ .run ∧ s.gangsOf 0 = [G, gang1] ∧ ∀ H ∈ [G, gang1], s.quiet (haltedPlot false) H = true) ∧
    (plot0.place ≠ .halted ∧ (haltedPlot false).place = .halted ∧ (stateOf (haltedPlot false) busyGang gang1).saveReady (haltedPlot false) = false) ∧
    (∀ e, (haltedPlot e).place = .halted ∧ (stateOf (haltedPlot e) gang0 gang1).saveReady (haltedPlot e) = true ∧ (haltedPlot e).target = none ∧
      (haltedPlot e).pav = none ∧ (haltedPlot e).cons = none ∧ (haltedPlot e).emergency = e ∧ (haltedPlot e).suspended = false ∧
      (stateOf (haltedPlot e) gang0 gang1).host.mem.wf = true ∧ ((stateOf (haltedPlot e) gang0 gang1).context (haltedPlot e).ctx).saveSeq + 1 < 2 ^ 64) ∧
    (let S := { slot0 with wait := .waitc 0 64 .eq 0 10 1 8, fid := some 3 }
     let G := { gang0 with a := some S }
     (stateOf (haltedPlot false) G gang1).quiet (haltedPlot false) G = true ∧ (stateOf (haltedPlot false) G gang1).entryDue (haltedPlot false) G = false ∧ S.fid.isSome = true) ∧
    (∀ e su r, ∀ done ∈ [0, 128], let P := savingPlot e su r done
      let s := mapped (stateOf P gang0 gang1)
      s.plot? 0 = some P ∧ P.id = 0 ∧ P.saving = some ⟨16384, 1, List.replicate 192 0, done⟩ ∧ P.emergency = e ∧ P.suspended = su ∧ P.runnable = r ∧
        (s.plots.map (·.1)).Nodup ∧ P.watches = [] ∧ P.target = none ∧ P.pav = none ∧ P.cons = none ∧ s.gang? 0 0 = some gang0 ∧
        (su = true → P.trapper = some (0, true))) ∧
    (∀ su r, let s := mapped (stateOf (savingPlot false su r 128) gang0 gang1)
      ∃ l s1, s.partAccess 0 16512 .engWrite .governors (hubWho .engWrite) .other [0] = (.ok l, s1) ∧ s1.plots = s.plots ∧ s1.gangs = s.gangs) ∧
    (∃ s1, (stateOf (savingPlot false false false 0) gang0 gang1).partAccess 0 16384 .engWrite .governors (hubWho .engWrite) .other [0] = (.wait, s1)) ∧
    ((walkState 0 1 (leafE 0)).homeOf 0 8192 = some (.hbm (2 ^ 30 + 8192)) ∧ (Loc.hbm 8192).meets 8 (.hbm 8196) 4 = true ∧ (Loc.hbm 8192).meets 8 (.hbm 8200) 4 = false ∧
      (walkState 8 1 (leafE 8)).homeOf 0 (8 * 2 ^ 48) = some (.host (2 ^ 30)) ∧ s0.homeOf 0 (2 ^ 52) = some (.peer (2 ^ 52)) ∧ s0.homeOf 0 8192 = none) ∧
    ({ haltedPlot true with runnable := true }.runnable = true ∧ (stateOf { haltedPlot true with runnable := true } gang0 gang1).saveReady { haltedPlot true with runnable := true } = true) ∧
    (∀ b, 8192 ∈ (watchPlot b).watches ∧ 4096 ∉ (watchPlot b).watches ∧ (watchPlot b).place = .saved ∧ (watchPlot b).suspended = b ∧ (watchPlot b).runnable = false ∧
      (watchPlot b).id = 0) ∧
    (s0.fw.boot ≠ .running ∧ (opened s0).fw.boot = .running ∧ (∀ by_ ∈ [SupBy.host pfFn, .orangery, .governor], (opened s0).supWrites by_ = true) ∧
      (opened s0).supWrites (.host vfFn) = false ∧ ({ opened s0 with fw := { (opened s0).fw with access := [] } } : State).supWrites .governor = false) := by
  refine ⟨?_, ⟨rfl, by decide, rfl, by decide⟩, by decide, ?_, by decide, ?_, ?_, ⟨_, rfl⟩, by decide, by decide, by decide, by decide⟩
  · intro P G hP h1 h2
    refine ⟨?_, show [0].Nodup by decide, show [0, 1].Nodup by decide, rfl, ?_⟩
    · intro q hq
      rw [List.mem_singleton.1 (show q ∈ [(0, P)] from hq)]
      exact hP
    · intro p g hg K h
      obtain ⟨rfl, rfl, rfl⟩ | ⟨rfl, rfl, rfl⟩ := gang?_stateOf P G gang1 p g K hg h
      · exact ⟨h1, h2⟩
      · exact ⟨rfl, rfl⟩
  · intro e
    cases e <;> decide
  · intro e su r done hd
    simp only [List.mem_cons, List.not_mem_nil, or_false] at hd
    rcases hd with rfl | rfl <;> cases su <;>
      exact ⟨rfl, rfl, rfl, rfl, rfl, rfl, show [0].Nodup by decide, rfl, rfl, rfl, rfl, rfl, fun h => by cases h <;> rfl⟩
  · intro su r
    cases su <;> cases r <;> exact ⟨_, (mapped (stateOf (savingPlot false _ _ 128) gang0 gang1)).countAccess 0 16512 .other, rfl, rfl, rfl⟩

theorem witness_TableWalks :
    (∀ owner ∈ [0, 8], ∀ lv ∈ [1, 2, 3], let s := walkState owner lv (leafE owner)
      assoc s.roots (0, owner) = some 4096 ∧ s.hbm.poison = [] ∧ s.tlb = [] ∧ s.partno < 16 ∧ tabAt 0 = 4096 ∧ s.tableAllows owner .cores .store = true) ∧
    (∀ lv ∈ [1, 2, 3], let s := walkState 0 lv (leafE 0)
      (∀ j < lv, let e := s.hbm.nat (tabAt j) 8
        e % 4 = 1 ∧ e / 2 ^ 52 = 0 ∧ e / 4 % 64 = 0 ∧ e / 256 % 16 = 0 ∧ e / 2 ^ 37 % 2 ^ 15 = 0 ∧ tabAt (j + 1) = e / 256 % 2 ^ 44 * 256) ∧
      s.hbm.nat (tabAt lv) 8 = leafE 0) ∧
    (∀ owner ∈ [0, 8], let e := leafE owner
      e % 4 = 3 ∧ e / 2 ^ 52 = 0 ∧ e / 2 ^ 12 % 16 = 0 ∧ e / 4 % 2 = 0 ∧ (owner ≠ 8 → e / 256 % 2 = 0 ∧ e / 2 ^ 37 % 2 ^ 15 = 0) ∧ e / 2 ^ 16 % 32 = 0 ∧ e / 2 ^ 16 % 2 ^ 14 = 0 ∧
        e / 8 % 2 = 1 ∧ e / 16 % 2 = 1 ∧ e / 32 % 2 = 1 ∧ e / 2 ^ 10 % 2 = 0 ∧ e / 2 ^ 11 % 2 = 0 ∧ (owner = 8 → e / 256 % 2 = 1)) ∧
    ((walkState 0 3 0).hbm.nat (tabAt 3) 8 % 2 = 0 ∧ (walkState 0 0 3).hbm.nat (tabAt 0) 8 % 4 = 3 ∧ (leafE 0 - 16) / 16 % 2 = 0) ∧
    -- a confidential frame of another context and of the own one, a page that migrates, and a host page that is not pinned
    ((leafE 0 + 2 ^ 10) / 2 ^ 10 % 2 ≠ 0 ∧ assoc (walkState 0 3 (leafE 0 + 2 ^ 10)).frames (0, 8192) ≠ some 0 ∧
      assoc ({ State.reset with frames := [((0, 8192), 0)] } : State).frames (0, 8192) = some 0 ∧
      (leafE 0 + 2 ^ 11) / 2 ^ 11 % 2 = 1 ∧ AccKind.store.writes = true ∧ AccKind.load.writes = false ∧ (leafE 8 - 2 ^ 8) / 2 ^ 8 % 2 = 0) ∧
    -- a translation whose page a checked operation writes to, and the same one with nothing written there
    (let s := engState 0 { engOp .tmovW (tmovDesc 64 128 (ctlOf 0 0)) .write 0 0 with data := [0, 0, 0, 0, 0, 0, 1, 1] }
     ∃ t ∈ s.tlb, (t.owner = 0 ∧ t.ctx = 0 ∧ t.base ≤ 128 ∧ 128 < t.base + t.size) ∧ s.owes 0 0 t.base (t.base + t.size) = true ∧
      (mapped s0).owes 0 0 t.base (t.base + t.size) = false) := by
  refine ⟨by decide, by decide, by decide, by decide, by decide, ?_⟩
  exact ⟨_, .head _, by decide, by decide, by decide⟩

/-- A fault outstanding and one denied; and a gang with a deferred trap, in a trap, with a handler and without one. -/
def fault0 (denied : Bool) : FaultRec := ⟨5, 0, 64, 65536, 0, putAt (List.replicate 28 0) 4 [2], [], denied⟩
def deferred0 : Deferred := ⟨0x07, 2, 1, 5, 0x10000, 3, .A, 0x1000, true⟩
def deferGang (tentry : Word64) (inTrap : Bool) : Gang :=
  { gang0 with defer := [deferred0], tentry := tentry, frames := if inTrap then [⟨.trap, some slot0, none, 0⟩] else [] }
theorem witness_Verdicts :
    (fault0 false ∈ { State.reset with faults := [fault0 false] }.faults ∧ (fault0 false).denied = false ∧ (fault0 false).fid < 2 ^ 32 ∧
      ([fault0 false].map (·.fid)).Nodup) ∧
    (∀ f ∈ [fault0 true], f.fid = (5 : BitVec 32).toNat → f.denied = true) ∧
    (∀ tentry inTrap, let G := deferGang tentry inTrap
      (stateOf plot0 G gang1).plot? 0 = some plot0 ∧ (stateOf plot0 G gang1).gang? 0 0 = some G ∧ plot0.place = .resident ∧ G.defer = deferred0 :: [] ∧ G.life = .running ∧
        G.storing = false ∧ G.a = some slot0 ∧ G.b = none ∧ slot0.wait = .none ∧ G.tentry = tentry ∧ (inTrap = true → ∃ f ∈ G.frames, f.kind = .trap) ∧
        (inTrap = false → ¬ ∃ f ∈ G.frames, f.kind = .trap)) := by
  refine ⟨by decide, by decide, ?_⟩
  intro tentry inTrap
  cases inTrap
  · exact ⟨rfl, rfl, rfl, rfl, rfl, rfl, rfl, rfl, rfl, rfl, nofun, fun _ ⟨_, h, _⟩ => nomatch h⟩
  · exact ⟨rfl, rfl, rfl, rfl, rfl, rfl, rfl, rfl, rfl, rfl, fun _ => ⟨_, .head _, rfl⟩, nofun⟩

/-- A counter at its threshold, with a list at 8192 whose translation is held; below it; and without a list. -/
def extContext (extN n : Nat) : Context := { Context.fresh with extT := 8, extN := extN, extAddr := 8256, counters := [((0, 3), (n, 4 * 3 + 64 * 5))] }
def extState (extN n : Nat) (m : Store) : State := { mapped State.reset with contexts := [(0, extContext extN n)], hbm := m }
theorem extState_lookup (m : Store) (a : Nat) (k : AccKind) (ha : a = 8192 ∨ a = 8256) (hk : k = .engRead ∨ k = .engWrite) :
    (extState 6 0 m).lookup 0 a k .governors = (.ok (.hbm a) 0xFB, extState 6 0 m) := by
  have ht : (extState 6 0 m).tableAllows 0 .governors k = true := by
    rcases hk with rfl | rfl
    · show (mapped State.reset).tableAllows 0 .governors .engRead = true; decide
    · show (mapped State.reset).tableAllows 0 .governors .engWrite = true; decide
  have hu : (extState 6 0 m).useLeaf 0 (ownerOf a) (offOf a) (levelOf (2 ^ 30)) (0xFB : Word64).toNat k .governors = .ok (.hbm a) 0xFB := by
    unfold State.useLeaf
    rw [show (extState 6 0 m).tableAllows (ownerOf a) .governors k = true by rcases ha with rfl | rfl <;> exact ht]
    rcases ha with rfl | rfl <;> rcases hk with rfl | rfl <;> rfl
  unfold State.lookup
  simp only []
  rw [show (extState 6 0 m).tlbHit 0 (ownerOf a) (offOf a) k = some ⟨0, 0, 0, 2 ^ 30, 0xFB⟩ by
    rcases ha with rfl | rfl <;> rcases hk with rfl | rfl <;> rfl]
  simp only [hu]
  rcases ha with rfl | rfl <;> rfl

theorem witness_ExtentsAndMigrations_extents :
    (∀ extN n, (extState extN n Store.empty).context 0 = extContext extN n) ∧
    (((assoc (extContext 6 255).counters (0, 3)).getD (0, 0)).1 + 1 = 2 ^ 8 ∧ ((assoc (extContext 6 255).counters (0, 3)).getD (0, 0)).1 < 2 ^ 8 ∧
      2 ^ 8 ≤ ((assoc (extContext 6 256).counters (0, 3)).getD (0, 0)).1 ∧ (extContext 0 256).extN = 0 ∧
      (extContext 6 256).extN ≠ 0 ∧ (extContext 6 256).extT ≠ 0 ∧ ((assoc (extContext 6 256).counters (0, 3)).getD (0, 0)).2 = 4 * 3 + 64 * 5 ∧
      ((assoc (extContext 6 256).counters (0, 3)).getD (0, 0)).2 ≠ 4 * 2 + 64 * 5) ∧
    (Store.empty.poison = [] ∧ Store.empty.mem.wf = true ∧ Store.empty.nat 8192 8 = 0 ∧ Store.empty.nat 8200 8 = 0 ∧ 8192 + 64 ≤ 8256 ∧ 8256 - 64 = 8192 ∧ 8256 + 32 * (0 % 2 ^ 6) = 8256) ∧
    (∀ m, (∀ k ∈ [AccKind.engRead, .engWrite], (extState 6 0 m).lookup 0 8192 k .governors = (.ok (.hbm 8192) 0xFB, extState 6 0 m)) ∧
      (extState 6 0 m).lookup 0 8256 .engWrite .governors = (.ok (.hbm 8256) 0xFB, extState 6 0 m)) := by
  refine ⟨fun _ _ => rfl, by decide, by decide, fun m => ⟨?_, extState_lookup m 8256 _ (.inr rfl) (.inr rfl)⟩⟩
  intro k hk
  simp only [List.mem_cons, List.not_mem_nil, or_false] at hk
  exact extState_lookup m 8192 k (.inl rfl) hk

/-- A page of 64 KiB at a leaf with MIG or without it, its migration to another frame, its source sound or poisoned, and its leaf
gone; and two parts in the domain, one of them with traffic. -/
def mig0 : Migration := ⟨0, 0, 0, 65536, 16384, 0x70000⟩
def migState (mig : Bool) (poison : List Nat) : State :=
  let s := walkState 0 3 (leafE 0 + if mig then 2048 else 0)
  { s with hbm := { s.hbm with poison := poison }, migrations := [mig0] }
theorem witness_ExtentsAndMigrations_migrations :
    (∀ mig, (migState mig []).leafOf 0 0 0 = some (3, 16384, leafE 0 + if mig then 2048 else 0)) ∧
    (leafE 0 / 2 ^ 11 % 2 = 0 ∧ (leafE 0 + 2048) / 2 ^ 11 % 2 = 1 ∧ 0x70000 % 2 ^ 16 = 0) ∧
    (∀ mig p, (migState mig p).migration? 0 0 0 = some mig0) ∧
    ((migState true []).migLeaf mig0 = some (leafE 0 + 2048) ∧ (migState false []).migLeaf mig0 = none ∧ (walkState 0 3 0).migLeaf mig0 = none ∧
      (walkState 0 3 0).hbm.nat mig0.leaf 8 % 2 = 0) ∧
    (let old := 0 * 2 ^ 37 + (leafE 0 + 2048) / 2 ^ 16 % 2 ^ 36 * 65536
     (migState true []).hbm.poisoned old 65536 = false ∧ (migState true [2 ^ 28]).hbm.poisoned old 65536 = true ∧ (migState true [2 ^ 28]).migLeaf mig0 = some (leafE 0 + 2048)) ∧
    ((migState true []).hbm.mem.wf = true ∧ mig0.newPa < 2 ^ 52 ∧ mig0.newPa % 65536 = 0 ∧ mig0.leaf + 8 ≤ mig0.newPa ∧ mig0.off < 2 ^ 48 ∧ (migState true []).partno < 16) ∧
    (3 ∈ ({ State.reset with domain := [0, 3] } : State).domain ∧ State.reset.partno ≠ 3 ∧ (tmovAt 0 1 .read 0).reaches 3 = false ∧
      (engOp .tmov (tmovDesc (3 * 2 ^ 52 + 64) 128 (ctlOf 0 1)) .read 0 0).reaches 3 = true) := by
  exact ⟨by decide, by decide, fun _ _ => rfl, by decide, by decide, by decide, by decide⟩

/-- The firmware runs with every table open; VF 63 belongs to context 0, aperture 0 names its offset 0 and aperture 1 the hub's
windows. The same state with a bad word, with no translation, and with no right. -/
def busState : State :=
  let t := opened (mapped State.reset)
  { t with vfs := [(63, ⟨0, .unlocked, none⟩)], domain := [0, 3], apertures := [(0, (0, 0)), (1, (0, 0x8800000000000))]
           fw := { t.fw with access := (mapped State.reset).fw.access ++ t.fw.access ++ [((8, 3), 2)] } }
def busPoison : State := { busState with hbm := { busState.hbm with poison := [1024] } }
def busUnmapped : State := { busState with tlb := [] }
def busShut : State := { busState with fw := { busState.fw with access := [] } }
/-- With the interface of VF 63 in a state. -/
def faceState (t : Tdisp) : State := { busState with vfs := [(63, ⟨0, t, some 2⟩)] }
def p1Fn : BusFn := ⟨1, none, none⟩

/-- A request of each function that its owner takes, holds back and refuses; one outside its IDE stream, behind a held write, through no
aperture, of another context, past the page's end, and at the hub; a hart's access with its MMU off and on; and a peer part's. -/
theorem witness_BusRequests :
    (∀ f ∈ [pfFn, vfFn, p1Fn], busState.fw.boot = .running ∧ ((f.port = 0 ∧ ∀ v, f.vf = some v → v < 64) ∨ (f.port = 1 ∧ f.vf = none)) ∧ busState.posted = [] ∧
      (f.vf = none ∨ f.vf.bind busState.vfs.find = some ⟨0, .unlocked, none⟩)) ∧
    (vfFn.vf.bind (faceState .run).vfs.find = some ⟨0, .run, some 2⟩ ∧ vfFn.ide = none ∧ some 1 ≠ some 2 ∧ Tdisp.unlocked ≠ .run ∧
      (⟨0, some 62, none⟩ : BusFn).vf.bind (faceState .run).vfs.find = none) ∧
    (let s := { busState with posted := [⟨some vfFn, .aperture 0 [1]⟩, ⟨some vfFn, .notify 9 64 []⟩] }
     s.posted[0]? = some ⟨some vfFn, .aperture 0 [1]⟩ ∧ s.posted[1]? = some ⟨some vfFn, .notify 9 64 []⟩) ∧
    (busState.apertures.find (4096 / 2 ^ 21) = some (0, 0) ∧ busState.apertures.find (2 ^ 22 / 2 ^ 21) = none ∧ 0 + 4096 % 2 ^ 21 = 4096) ∧
    (4088 % 4096 + 8 ≤ 4096 ∧ ¬ 4089 % 4096 + 8 ≤ 4096 ∧ 4088 % 8 = 0 ∧ 4092 % 8 ≠ 0 ∧ ¬ 4096 / 2 ^ 48 % 16 = 8) ∧
    (∀ k ∈ [AccKind.load, .store, .atomic], ∀ m ∈ [(Master.port0pf, [0, 0]), (.port0vf, [0, 64]), (.port1, [1, 0]), (.harts, [3]), (.links, [3])],
      (∃ s1, busState.partAccess 0 4096 k m.1 (hubWho k) .other m.2 = (.ok (.hbm 4096), s1) ∧ s1.poisonedLoc (.hbm 4096) 8 = false) ∧
      (∃ s1, busPoison.partAccess 0 4096 k m.1 (hubWho k) .other m.2 = (.ok (.hbm 4096), s1) ∧ s1.poisonedLoc (.hbm 4096) 8 = true) ∧
      (∃ s1, busUnmapped.partAccess 0 4096 k m.1 (hubWho k) .other m.2 = (.wait, s1)) ∧ (∃ s1, busShut.partAccess 0 4096 k m.1 (hubWho k) .other m.2 = (.denied, s1))) ∧
    (∀ k ∈ [AccKind.load, .store, .atomic, .engRead, .engWrite], ∃ s1, busState.partAccess 0 4096 k .links (hubWho k) (.peer 3) [3] = (.ok (.hbm 4096), s1) ∧
      s1.poisonedLoc (.hbm 4096) 8 = false) ∧
    (3 ≠ busState.partno ∧ 3 ∈ busState.domain ∧ 4096 / 2 ^ 52 % 16 = busState.partno) ∧
    (let H (priv : Priv) (satp : Word64) : Hart := { Hart.fresh with priv := priv, csrs := [(0x180, satp), (0x280, satp), (0x680, satp)] }
     (∀ priv ∈ [Priv.m, .hs, .u, .vs, .vu], (((H priv 0).csrs.find 0x180).getD 0).toNat / 2 ^ 60 ≠ 9 ∧ busState.hartVa 3 (H priv 0) priv 4096 .load = (.ok 4096, busState)) ∧
      (∃ u, busState.hartVa 3 (H .hs 0x9000000000000000) .hs 4096 .load = (.error (.fault 13), u)) ∧
      (∃ u, busUnmapped.hartVa 3 (H .hs 0x9000000000000000) .hs 4096 .load = (.error .wait, u)) ∧
      (∃ c u, busState.hartVa 3 (H .vs 0x9000000000000000) .vs 4096 .store = (.error (.fault c), u)) ∧ Hart.fresh.skctx.toNat % 65536 = 0) ∧
    ((0x8800000000000 : Nat) / 2 ^ 48 % 16 = 8 ∧ (0x8800000000000 : Nat) % 2 ^ 48 = 0x800000000000 ∧ (0x88000FFFFFFFF : Nat) % 2 ^ 48 < 0x800100000000 ∧
      (0x8800100000000 : Nat) % 2 ^ 48 = 0x800100000000 ∧ (0x88001FFFFFFFF : Nat) % 2 ^ 48 < 0x800200000000 ∧ (0x8800000000000 : Nat) / 2 ^ 52 % 16 = busState.partno ∧
      busState.tableAllows targetHub .harts .store = true ∧ busShut.tableAllows targetHub .harts .store = false) := by
  refine ⟨?_, by decide, ⟨rfl, rfl⟩, by decide, by decide, ?_, ?_, by decide, ⟨?_, ⟨_, rfl⟩, ⟨_, rfl⟩, ⟨_, _, rfl⟩, rfl⟩, by decide⟩
  · intro f h
    simp only [List.mem_cons, List.not_mem_nil, or_false] at h
    rcases h with rfl | rfl | rfl
    · exact ⟨rfl, .inl ⟨rfl, nofun⟩, rfl, .inl rfl⟩
    · exact ⟨rfl, .inl ⟨rfl, fun v h => by cases h; decide⟩, rfl, .inr rfl⟩
    · exact ⟨rfl, .inr ⟨rfl, rfl⟩, rfl, .inl rfl⟩
  · intro k hk m hm
    simp only [List.mem_cons, List.not_mem_nil, or_false] at hk hm
    rcases hk with rfl | rfl | rfl <;> rcases hm with rfl | rfl | rfl | rfl | rfl <;> exact ⟨⟨_, rfl, rfl⟩, ⟨_, rfl, rfl⟩, ⟨_, rfl⟩, ⟨_, rfl⟩⟩
  · intro k hk
    simp only [List.mem_cons, List.not_mem_nil, or_false] at hk
    rcases hk with rfl | rfl | rfl | rfl | rfl <;> exact ⟨_, rfl, rfl⟩
  · intro priv h
    simp only [List.mem_cons, List.not_mem_nil, or_false] at h
    rcases h with rfl | rfl | rfl | rfl | rfl <;> exact ⟨by decide, rfl⟩

/-- Interfaces in each of their states, with the tables open and shut, and a second one of the same context; an aperture bound and a
context frozen, and neither; plots of a context, resident, halted and saved; keys; harts in each mode. -/
def tdispState (t : Tdisp) : State := { faceState t with contexts := [(0, { Context.fresh with conf := true })], plots := [(0, plot0), (1, { haltedPlot true with id := 1 }), (2, { watchPlot true with id := 2 })] }
theorem witness_InterfacesAndKeys :
    (∀ t, (tdispState t).vfs.find 63 = some ⟨0, t, some 2⟩ ∧ (tdispState t).apertures.find 0 = some (0, 0) ∧ (tdispState t).apertures.find 7 = none ∧
      (tdispState t).vfs.find 0 = none ∧ ((tdispState t).vfs.map (·.1)).Nodup ∧ ((tdispState t).context 0).conf = true ∧
      (∀ q ∈ (tdispState t).vfs, q.2.ctx ≠ 1) ∧ (tdispState t).frozenOf 0 = (if t = .locked ∨ t = .run then [63] else []) ∧
      (tdispState t).fw.boot = .running ∧ (tdispState t).tableAllows targetSecurity .governors .store = true ∧
      (∀ q ∈ (tdispState t).plots, q.2.place = .saved → q.2.suspended = true)) ∧
    (0 < 524288 ∧ 524287 < 524288 ∧ (2 ^ 21) % 2 ^ 21 = 0 ∧ (2 ^ 20) % 2 ^ 21 ≠ 0) ∧ ((tdispState .unlocked).context 1).conf = false ∧
    (busShut.fw.boot = .running ∧ busShut.tableAllows targetSecurity .governors .store = false) ∧
    (∀ priv, ({ busState with harts := [(15, { Hart.fresh with priv := priv })] } : State).hart? 15 = some { Hart.fresh with priv := priv }) ∧
    (State.reset.booted = false ∧ State.reset.fw.boot ≠ .running ∧ ({ State.reset with fw := { State.reset.fw with boot := .running } } : State).booted = true) := by
  refine ⟨fun t => ?_, by decide, by decide, by decide, fun _ => rfl, by decide⟩
  cases t <;> exact ⟨rfl, rfl, rfl, rfl, by decide, rfl, by decide, by decide, rfl, by decide, by decide⟩

/-- Harts in each mode, with the exception delegated, once and twice, and not; words of the base set: ADDI, ECALL, a branch taken and
not, a load and a store whose access ends, waits and faults, an AMO; and a write of the custom CSR by either mode. -/
def delegated (p : Priv) (m h : Word64) : Hart := { Hart.fresh with priv := p, csrs := [(0x302, m), (0x602, h)] }
theorem witness_HartInstructions :
    ((delegated .m 256 256).priv = .m ∧ ((delegated .u 256 0).raw 0x302).getLsbD 8 = true ∧ ((delegated .vu 0 0).raw 0x302).getLsbD 8 = false ∧
      ((delegated .vu 256 256).raw 0x602).getLsbD 8 = true ∧ ((delegated .vu 256 0).raw 0x602).getLsbD 8 = false ∧ 8 < 64) ∧
    (∀ old ∈ [0, 1, 3], let H : Hart := { Hart.fresh with priv := .m, csrs := [(0x300, BitVec.ofNat 64 (2 ^ 39 + 2 ^ 11 * old))] }
      H.priv = .m ∧ (H.raw 0x300).toNat / 2 ^ 11 % 4 = old ∧ (H.raw 0x300).getLsbD 39 = true) ∧
    (∀ q ∈ [((0x00150513 : BitVec 32), 0x13, 0), (0xFFF50513, 0x13, 0), (0x00B50533, 0x33, 0), (0x00051563, 0x63, 1), (0x00053503, 0x03, 3), (0x00B53023, 0x23, 3),
        (0x00B5352F, 0x2F, 3), (0x5C0512F3, 0x73, 1)],
      (q.1.extractLsb' 0 7).toNat = q.2.1 ∧ (q.1.extractLsb' 12 3).toNat = q.2.2) ∧
    ((0x5C0512F3 : BitVec 32).extractLsb' 20 12 = 0x5C0 ∧ (0x00B5352F : BitVec 32).extractLsb' 20 5 = 11 ∧ (0x00B5352F : BitVec 32).toNat / 2 ^ 27 = 0) ∧
    (let H : Hart := { Hart.fresh with priv := .m, x := Hart.fresh.x.set 10 4096 }
     (∃ u, busState.hartDo 3 H .m (H.reg 10) (.read 8) = (.ok (List.replicate 8 0), u)) ∧ (∃ u, busUnmapped.hartDo 3 H .m (H.reg 10) (.read 8) = (.error .wait, u)) ∧
      (∃ u, busShut.hartDo 3 H .m (H.reg 10) (.read 8) = (.error (.fault 5), u)) ∧ (∃ u, busState.hartDo 3 H .m (H.reg 10) (.write (leOf 8 7)) = (.ok [], u)) ∧
      (H.reg 10).toNat % 8 = 0 ∧ H.dataMode = .m ∧ ∃ u, busState.hartReach 3 H .m (H.reg 10) 8 .atomic = (.ok (.mem (.hbm 4096)), u)) := by
  refine ⟨by decide, by decide, by decide, by decide, ⟨_, rfl⟩, ⟨_, rfl⟩, ⟨_, rfl⟩, ⟨_, rfl⟩, by decide, rfl, ⟨_, rfl⟩⟩

/-- Compressed words stand for the words of the base set: C.ADDI a0, 1; C.LI a0, -1; C.LD a2, 8(a0); C.SDSP ra, 8(sp); C.J .+0 is JAL x0;
the all-zero word and a reserved C.ADDI4SPN are illegal. -/
theorem test_compressed : rvExpand 0x0505 = some 0x00150513 ∧ rvExpand 0x557D = some 0xFFF00513 ∧ rvExpand 0x6510 = some 0x00853603 ∧
    rvExpand 0xE406 = some 0x00113423 ∧ rvExpand 0xA001 = some 0x0000006F ∧ rvExpand 0x0000 = none ∧ rvExpand 0x0010 = none := by decide
/-- ECALL from VU-mode, delegated to VS-mode, goes to vstvec with scause 8; MRET to U-mode. -/
theorem test_hart_traps :
    (let H : Hart := { Hart.fresh with pc := 0x5000, priv := .vu, csrs := [(0x302, 256), (0x602, 256), (0x205, 0x8000)] }
     let t := ((s0.setHart 3 H).rvStep 3 H 0x00000073 4 0).hart? 3
     t.map (fun t => (t.pc, t.priv, t.raw 0x241, t.raw 0x242)) = some (0x8000, .vs, 0x5000, 8)) ∧
    (let H : Hart := { Hart.fresh with pc := 0x5000, priv := .m, csrs := [(0x341, 0x6000)] }
     ((s0.setHart 3 H).rvStep 3 H 0x30200073 4 0).hart? 3 |>.map (fun t => (t.pc, t.priv))) = some (0x6000, .u) := by decide
/-- MULHSU of -1 by 2; DIV by zero; SRAIW; FADD.D of 1 and 2. -/
theorem test_hart_arithmetic :
    (let H : Hart := { Hart.fresh with x := (Hart.fresh.x.set 10 (BitVec.allOnes 64)).set 11 2, f := (Hart.fresh.f.set 1 0x3FF0000000000000).set 2 0x4000000000000000, csrs := [(0x300, 0x2000)] }
     let r (w : BitVec 32) : Option Word64 := (((s0.setHart 3 H).rvStep 3 H w 4 0).hart? 3).map (·.reg 12)
     r 0x02B52633 = some (BitVec.allOnes 64) ∧ r 0x02054633 = some (BitVec.allOnes 64) ∧ r 0x4015561B = some (BitVec.allOnes 64) ∧
      (((s0.setHart 3 H).rvStep 3 H 0x022081D3 4 0).hart? 3).map (fun t => t.f[3]) = some 0x4008000000000000) := by decide

/-- A cluster of known heat and budget; states of two plots of one priority on clusters 0 and 1; and the part with a matrix word under
way on every cluster. -/
def cluster0 (temp limit : Nat) (charges : List Nat) : Cluster := ⟨0, 2, 2, temp, limit, charges, [], 0, 0, false, false, false, 100, 0, List.replicate 8 (Monitor.cleared 0xF0)⟩
def heatPlot (id core req : Nat) (moved : Option Nat) : Plot := { plot0 with id := id, core := core, req := req, lastMove := moved }
def heatState (t1 : Nat) (moved : Option Nat) : State :=
  { State.reset with
    ticks := 11000000, contexts := [(0, { Context.fresh with clusters := [0, 1] })]
    clusters := [(0, cluster0 95 90 []), (1, cluster0 t1 90 [])], plots := [(0, heatPlot 0 0 2 moved), (1, heatPlot 1 12 2 none)] }
def loadedState : State := { State.reset with plots := (List.range 32).map fun k => (k, { heatPlot k (12 * k) 2 none with stream := { plot0.stream with mat := some matRun } }) }
abbrev hereOf (s : State) (c : Nat) : List Plot := (s.plots.map (·.2)).filter fun P => P.core / 12 == c && P.place != .saved
abbrev mostOf (l : List Nat) (m : Nat) : Prop := (∀ x ∈ l, x ≤ m) ∧ (m = 0 ∨ m ∈ l)
abbrev beforeOf (s : State) (c k : Nat) : Prop := mostOf ((hereOf s k).map (·.req)) 2 ∧
  ((s.cluster k).drawn < (s.cluster c).drawn ∨ ((s.cluster k).drawn = (s.cluster c).drawn ∧ k < c))
abbrev targetOf (s : State) (c temp : Nat) (P : Plot) (d : Nat) : Prop :=
  d ∈ (s.context P.ctx).clusters ∧ d ≠ c ∧ (s.cluster d).temp < (s.cluster d).limit ∧ (s.cluster d).temp + 6 ≤ temp

theorem witness_ClassesAndHeat :
    Fits plot0 gang0 slot0 [] [10] ∧
    (((withQueue [entry0] s0).core 0).sfq ≠ [] ∧ (∀ k < 12, (s0.core k).sfq = []) ∧ ¬ s0.ticks < (s0.cluster 0).lanesTill ∧
      (let s := { s0 with clusters := [(0, { cluster0 60 90 [] with lanesTill := 1 })] }; s.ticks < (s.cluster 0).lanesTill) ∧ mostOf [2] 2 ∧ (2 ≠ (s0.cluster 0).cls ∧ 0 = (s0.cluster 0).cls)) ∧
    -- a word of each weight; one with no lane array, one with a vector register, a pair; the three FP64 words
    (arraysOf 0x0000_0E45_0500_0300 = 0 ∧ arraysOf 0xFF40_0002_4260_0100 ≠ 0 ∧ (0x444 : BitVec 128).extractLsb' 2 9 = 0x111 ∧ namesVector 0xFF40_0002_4260_0100 = true ∧
      namesVector 0x0000_0E45_0500_0300 = false ∧ isPair 0x7FE = true) ∧
    (let s := heatState 60 none
     (∀ k < 32, k ∈ ([] : List Nat) ↔ beforeOf s 0 k) ∧ (∀ k < 32, k ∈ [0] ↔ beforeOf s 1 k) ∧ [0].Nodup ∧ mostOf ((hereOf s 1).map (·.req)) 2 ∧ 1 ≤ [0].length ∧ 0 < 1 ∧
      ¬ mostOf ((hereOf s 2).map (·.req)) 2 ∧ hereOf s 2 = []) ∧
    (∀ c < 32, ∃ P ∈ hereOf loadedState c, P.place = .resident ∧ P.stream.mat ≠ none) ∧
    (∀ l ∈ [[74], [75], [87], [88]], ({ State.reset with clusters := [(31, cluster0 60 90 l)] } : State).cluster 31 = cluster0 60 90 l) ∧
    ((0 :: [74]).sum = 74 ∧ 4 * 74 < 3 * 100 ∧ 3 * 100 ≤ 4 * 75 ∧ 8 * 87 < 7 * 100 ∧ 7 * 100 ≤ 8 * 88 ∧ 3 * 100 ≤ 4 * 88) ∧
    (∀ t1 ∈ [60, 95], ∀ moved ∈ [none, some 0, some 1], let s := heatState t1 moved
      (s.cluster 0).limit = 90 ∧ heatPlot 0 0 2 moved ∈ hereOf s 0 ∧ (heatPlot 0 0 2 moved).place = .resident ∧ hereOf s 0 = [heatPlot 0 0 2 moved] ∧ hereOf s 2 = [] ∧
        (s.cluster 2).limit = 95) ∧
    (90 ≤ 90 ∧ 90 < 95 ∧ 115 ≤ 115 ∧ 105 ≤ 105 ∧ 105 < 115 ∧ 105 ≤ 114 ∧ 104 < 105 ∧ 90 < 104 ∧ 11000000 < 1 + 11000000 ∧ 0 + 11000000 ≤ 11000000) ∧
    (targetOf (heatState 60 none) 0 95 (heatPlot 0 0 2 none) 1 ∧ ∀ d ∈ [0, 1], ¬ targetOf (heatState 95 none) 0 95 (heatPlot 0 0 2 none) d) ∧
    (let s := { State.reset with clusters := (List.range 32).map fun k => (k, cluster0 95 90 []) }
     ∀ c < 32, (s.cluster c).limit < (s.cluster c).temp) ∧
    (∀ t ∈ [84, 85], let s := { State.reset with clusters := [(0, cluster0 t 90 [])] }
     ¬ (s.cluster 0).limit < (s.cluster 0).temp ∧ (t = 84 → (s.cluster 0).temp + 6 ≤ (s.cluster 0).limit) ∧ (t = 85 → (s.cluster 0).limit < (s.cluster 0).temp + 6)) :=
  ⟨⟨⟨rfl, rfl, rfl, rfl⟩, by decide, by decide⟩, by decide, by decide, by decide, by decide, by decide, by decide, by decide,
    by decide, by decide, by decide, by decide⟩

/-- Each writer that the tables let in, one that they refuse, and the settings that no one else than the governors makes; the states of
an interface, of its context and of one without; the ends of the ranges of the settings; and clusters at and past the last. -/
abbrev supBit (s : State) (m : Master) : Bool := ((assoc s.fw.access (targetSupervisor, m.num)).getD 0).getLsbD 1
theorem witness_SupervisorSettings :
    (∀ t, (tdispState t).fw.boot = .running ∧ State.reset.fw.boot ≠ .running ∧ ((tdispState t).vfs.map (·.1)).Nodup ∧
      (tdispState t).vfs.find 63 = some ⟨0, t, some 2⟩ ∧ (tdispState t).vfs.find 0 = none) ∧
    ((∃ q ∈ (tdispState .run).vfs, q.2.ctx = 0 ∧ (q.2.tdisp = .locked ∨ q.2.tdisp = .run)) ∧
      (∀ q ∈ (tdispState .run).vfs, ¬ (q.2.ctx = 1 ∧ (q.2.tdisp = .locked ∨ q.2.tdisp = .run))) ∧ ¬ 8 ≤ 7 ∧ 8 ≤ 8 ∧ 31 < 32 ∧ 32 ≤ 32 ∧ 64 ≤ 64) ∧
    (let x := ({ State.reset with clusters := [(31, cluster0 60 90 [74])] } : State).clusterNow 31
     4 * x.charges.sum < 3 * 99 ∧ 3 * 98 ≤ 4 * x.charges.sum ∧ 8 * x.charges.sum < 7 * 98 ∧ 7 * 84 ≤ 8 * x.charges.sum) ∧
    (∀ m ∈ [Master.governors, .harts, .port0pf], supBit busState m = true ∧ supBit busShut m = false) ∧
    (pfFn.port = 0 ∧ pfFn.vf = none ∧ vfFn.vf ≠ none ∧ p1Fn.port ≠ 0 ∧ (∀ t m b, Setting.budget 0 0 ≠ .access t m b) ∧ 63 < 64) ∧
    (7 < 8 ∧ 8 ≤ 8 ∧ (0 = 0 ∨ (8 ≤ 0 ∧ 0 ≤ 24)) ∧ ¬ (7 = 0 ∨ (8 ≤ 7 ∧ 7 ≤ 24)) ∧ (24 = 0 ∨ (8 ≤ 24 ∧ 24 ≤ 24)) ∧ ¬ (25 = 0 ∨ (8 ≤ 25 ∧ 25 ≤ 24))) :=
  ⟨fun t => by cases t <;> exact ⟨rfl, by decide, by decide, rfl, rfl⟩, by decide, by decide, by decide, ⟨by decide, by decide, by decide, by decide, nofun, by decide⟩, by decide⟩

/-- An image of 192 bytes with a first word, an SVN and a length. -/
def imageOf (magic svn len : Nat) : List Byte := leOf 4 magic ++ leOf 4 svn ++ leOf 8 len ++ List.replicate 176 0
def bootFw (life : LifeCycle) (img : List Byte) : Firmware := { Firmware.reset with life := life, flash := img, minSvn := 4, boot := .loader }
/-- Two records of an emergency area, the first in a state and its marker as it should be or not, the second not restored. -/
def areaOf (st mark : Nat) : Store :=
  let r (st m : Nat) : List Byte := leOf 4 st ++ List.replicate 20 0 ++ leOf 8 64 ++ leOf 8 7 ++ List.replicate 16 0 ++ leOf 8 m
  Store.empty.writeN 4096 (r st mark ++ r 1 7)
/-- The image passes each of the first four checks, and fails each one first; the keys are free values, so either of the last two clauses
is met by the fifth, and in DECOMMISSIONED it fails; an area of none, of whole and of broken records; and clusters of each heat. -/
theorem witness_BootAndTrips :
    (let good := imageOf 0x57464B53 4 64
     fieldAt good 0 4 = 0x57464B53 ∧ fieldAt good 16 16 = 0 ∧ (64 ≤ fieldAt good 8 8 ∧ fieldAt good 8 8 ≤ 2 ^ 26) ∧ ¬ fieldAt good 4 4 < 4) ∧
    (fieldAt (imageOf 0 4 64) 0 4 ≠ 0x57464B53 ∧ fieldAt (putAt (imageOf 0x57464B53 4 64) 31 [1]) 16 16 ≠ 0 ∧ ¬ 64 ≤ fieldAt (imageOf 0x57464B53 4 63) 8 8 ∧
      ¬ fieldAt (imageOf 0x57464B53 4 (2 ^ 26 + 1)) 8 8 ≤ 2 ^ 26 ∧ fieldAt (imageOf 0x57464B53 3 64) 4 4 < 4) ∧
    (∀ key img sig, ecdsaOk key img sig = true ∨ ecdsaOk key img sig ≠ true) ∧
    (∀ b, ({ State.reset with power := b } : State).power = b) ∧
    (let rec_ (k : Nat) : Nat := 4096 + 64 * k
     (∀ st ∈ [1, 3], ∀ mark ∈ [7, 8], ∀ k < 2, let m := areaOf st mark
       natOf (m.readN (rec_ k) 4) = (if k = 0 then st else 1) ∧ natOf (m.readN (rec_ k + 24) 8) = 64 ∧ rec_ (k + 1) = rec_ k + 64 ∧
       (natOf (m.readN (rec_ k + 64 - 8) 8) = natOf (m.readN (rec_ k + 32) 8) ↔ mark = 7 ∨ k = 1)) ∧
     (∀ st ∈ [1, 3], natOf ((areaOf st 7).readN (rec_ 2) 4) = 0 ∧ natOf ((areaOf st 7).readN (rec_ 2 + 24) 8) = 0) ∧ natOf (Store.empty.readN 4096 4) = 0 ∧ rec_ 0 = 4096 ∧ 2 < 512) ∧
    (∀ t ∈ [104, 105, 114, 115], let s := { State.reset with clusters := [(3, cluster0 t 90 [])] }
     ((∃ q ∈ s.clusters, q.1 < 32 ∧ 105 ≤ q.2.temp) ↔ t ≠ 104) ∧ ((∃ q ∈ s.clusters, q.1 < 32 ∧ 115 ≤ q.2.temp) ↔ t = 115)) ∧
    (let s : State := { State.reset with contexts := [(2, Context.fresh)], fw := { State.reset.fw with boot := .running, recovery := [(1, .restorable)] } }
     s.fw.boot = .running ∧ (1, Recovery.restorable) ∈ s.fw.recovery ∧ (2, Context.fresh) ∈ s.contexts) ∧
    (∀ life img, (bootFw life img).boot = .loader ∧ (bootFw life img).life = life ∧ (bootFw life img).flash = img ∧ (bootFw life img).minSvn = 4) ∧
    (LifeCycle.production ≠ .decommissioned ∧ State.reset.power = true ∧ Boot.running ≠ .loader ∧ Boot.loader ≠ .running) :=
  ⟨by decide, by decide, fun key img sig => by cases ecdsaOk key img sig <;> simp, fun _ => rfl, by decide, by decide, ⟨rfl, .head _, .head _⟩, fun _ _ => ⟨rfl, rfl, rfl, rfl⟩, by decide⟩

/-- A state whose core holds a line with one word, and whose plot's stream holds a line with one word and is in a state. -/
def lineState (w : Nat) (sw : Nat) (q : SqState) : State :=
  let P := { plot0 with stream := { SeqStream.idle with state := q, pc := 0x4000, line := some (0x4000 / 64, leOf 64 sw) } }
  { stateOf P gang0 gang1 with cores := [(0, { Core.fresh with icache := [((0, 0x1000 / 64), leOf 64 w)] })] }
abbrev readsState (s : State) (tile : Bool) : Prop := s.mayIssue plot0 gang0 slot0 = true ∧ ∃ w, s.wordOf plot0 slot0 = some w ∧
  if tile = true then (w.extractLsb' 2 9 = 0x1D2 ∨ w.extractLsb' 2 9 = 0x1D3) else wordSources w ≠ []

/-- An entry that no one has claimed, one that the host has and one that it has not, with the tables open, shut and before the boot; the
last monitor of a cluster; a resident plot whose word reads a register or a tile, or neither, and whose stream's word does or does not;
and the four states of the life cycle with the identity key. -/
theorem witness_RoutingMonitorsReports :
    (∀ src, ((opened State.reset).fw.route src).2 = none ∧ State.reset.fw.boot ≠ .running) ∧
    (∀ v who, let f := { State.reset.fw with routing := [(.thermal, (v, some who))] }
      (f.route .thermal).2 = some who ∧ (f.route .thermal).2 ≠ none) ∧ Claimant.host ≠ .orangery ∧
    (∀ m ∈ [Master.port0pf, .harts], supBit (opened State.reset) m = true ∧ supBit busShut m = false ∧
      (opened State.reset).fw.boot = .running ∧ busShut.fw.boot = .running) ∧
    ((State.reset.cluster 31).mons[7]? = some (Monitor.cleared 0xF0)) ∧
    (4 * 2 ^ 37 - 1 < 4 * 2 ^ 37) ∧
    ((lineState 0 0 .run).cores.find 0 = some { Core.fresh with icache := [((0, 64), leOf 64 0)] }) ∧
    (s0.plot? 0 = some plot0 ∧ s0.gang? 0 0 = some gang0 ∧ plot0.place = .resident ∧ gang0.slot .A = some slot0) ∧
    (readsState (lineState 0xFF40_0002_4260_0100 0 .run) false ∧ readsState (lineState 0x748 0 .run) true ∧
      (lineState 0x0000_0E45_0500_0300 0 .run).wordOf plot0 slot0 = some 0x0000_0E45_0500_0300 ∧ wordSources 0x0000_0E45_0500_0300 = [] ∧
      (0x0000_0E45_0500_0300 : BitVec 128).extractLsb' 2 9 = 0xC0) ∧
    (∀ q ∈ [SqState.run, .done], ∃ P, (lineState 0 0x224 q).plot? 0 = some P ∧ (P.stream.state = .run ↔ q = .run) ∧ P.stream.stop = false ∧
      P.stream.cached = some 0x224 ∧ ((0x224 : BitVec 64).extractLsb' 2 6).toNat = 9) ∧
    (∀ life, let s := { opened State.reset with fw := { (opened State.reset).fw with life := life, identity := true } }
      s.fw.life = life ∧ s.fw.identity = true ∧ s.fw.boot = .running ∧
      ((assoc s.fw.access (targetSecurity, Master.governors.num)).getD 0).getLsbD 0 = true) ∧
    ((assoc busShut.fw.access (targetSecurity, Master.governors.num)).getD 0).getLsbD 0 = false :=
  ⟨fun src => by cases src <;> exact ⟨rfl, by decide⟩, fun _ _ => ⟨rfl, nofun⟩, by decide, by decide, rfl, by decide, rfl, ⟨rfl, rfl, rfl, rfl⟩,
    ⟨⟨rfl, 0xFF40_0002_4260_0100, rfl, by decide⟩, ⟨rfl, 0x748, rfl, by decide⟩, by decide, by decide, by decide⟩,
    by
      intro q h
      simp only [List.mem_cons, List.not_mem_nil, or_false] at h
      rcases h with rfl | rfl <;> exact ⟨_, rfl, by decide, rfl, by decide, by decide⟩,
    fun life => by cases life <;> exact ⟨rfl, rfl, rfl, by decide⟩, by decide⟩

/-- A word of each length; a stream's and a hart's word. -/
theorem witness_GangWordsRoundTrip :
    (∃ w, (Instr.sadd ⟨10, 8, .reg 9⟩).wf = true ∧ encodeGang (.sadd ⟨10, 8, .reg 9⟩) = some (.w64, w)) ∧
    (∃ w, (Instr.vmovi g0 191 (.k32 5)).wf = true ∧ encodeGang (.vmovi g0 191 (.k32 5)) = some (.w96, w)) ∧
    ∃ w, (Instr.pair (half 1 1 2 3) (half 1 8 10 5)).wf = true ∧ encodeGang (.pair (half 1 1 2 3) (half 1 8 10 5)) = some (.w128, w) :=
  ⟨⟨_, by decide, rfl⟩, ⟨_, by decide, rfl⟩, ⟨_, by decide, rfl⟩⟩

theorem witness_StreamAndHartWordsRoundTrip :
    (∃ w, encodeSeq (.sqwt 0 1) = some w) ∧ decodeSeq 0x0000_0001_0000_0008 = .ok (.sqwt 0 1) ∧
    (∃ w, encodeHart (.skEvpost 10 11) = some w) ∧ decodeHart 0x0005_850B = .ok (.skEvpost 10 11) :=
  ⟨⟨_, rfl⟩, rfl, ⟨_, rfl⟩, by decide⟩

/-- Turns of each agent in a mapped state whose words stand in memory: a gang's at 0x1000, with the line in the instruction cache
or not, a stream's at 0x4000 and a hart's at 0x5000, one of which decodes to an instruction, one to the base set and one to none. -/
def gangWord : BitVec 128 := 0x0000_0E45_0500_0300
def turnPlot : Plot := { plot0 with stream := { plot0.stream with state := .run, pc := 0x4000 } }
def turnHart : Hart := { Hart.fresh with pc := 0x5000 }
def turnState (turns : List Turn) (hw : Word) : State :=
  let s := mapped (stateOf turnPlot gang0 gang1)
  { s with agenda := turns, harts := [(3, turnHart)]
           hbm := ((s.hbm.writeN 0x1000 (leOf 16 gangWord.toNat)).writeN 0x4000 (leOf 8 0x0000000100000008)).writeN 0x5000 (leOf 4 hw.toNat) }
def passedState (s : State) : State :=
  { s with agenda := [], ticks := s.ticks + Config.freeCycles s.free, time := BitVec.ofNat 64 ((s.ticks + Config.freeCycles s.free) * 10 / 11), free := s.free + 1 }
def storingGang : Gang := { gang0 with b := some { slot0 with wait := .store false 4 8 [(0, 64, 1)] }, tentry := 0x2000 }
def storingState : State := stateOf plot0 storingGang gang1
theorem hold_stays : ∀ (n : Nat) (x : Cluster), x.budget = 0 → x.hold = true → (x.cycles n).hold = true
  | 0, _, _, h => h
  | n + 1, x, hb, hh => hold_stays n x.cycle (by simp [Cluster.cycle, Cluster.judge, hb]) (by simp [Cluster.cycle, Cluster.judge, hb, hh])
theorem witness_StepRunsDecodedWord_gang :
    (let s := turnState [.issue 0 0 .A] 0
     s.power = true ∧ s.agenda = .issue 0 0 .A :: [] ∧ s.plot? 0 = some turnPlot ∧ turnPlot.id = 0 ∧ s.gang? 0 0 = some gang0 ∧ gang0.plot = 0 ∧ gang0.idx = 0 ∧
      gang0.slot .A = some slot0 ∧ slot0.fid = none ∧ slot0.stored = none ∧ turnPlot.suspended = false ∧ turnPlot.saving = none ∧
      gang0.deferDue = none ∧ slot0.pc.toNat = 0x1000) ∧
    (let s1 := passedState (turnState [.issue 0 0 .A] 0)
     s1.chimeNow turnPlot gang0 = none ∧ s1.mayIssue turnPlot gang0 slot0 = true ∧ s1.fetchCheck 0x1000 4 = none ∧ assoc (s1.core 0).icache (0, 0x1000 / 64) = none ∧
      s1.lookup 0 (0x1000 - 0x1000 % 64) .fetch .cores = (.ok (.hbm 0x1000) 0xFB, s1) ∧
      (s1.countAccess 0 0x1000 (.die (0 / 96))).poisonedLoc (.hbm 0x1000) 64 = false) ∧
    (let line := (turnState [] 0).hbm.readN 0x1000 64
     lineWord line 0 = gangWord ∧ lenOf gangWord = some .w64 ∧ 0x1000 % 32 + Len.w64.bytes ≤ 32 ∧ decodeGang gangWord = .ok (.sadd ⟨20, 20, .reg 57⟩) ∧ heavy gangWord = false ∧
      assoc ({ Core.fresh with icache := [((0, 0x1000 / 64), line)] } : Core).icache (0, 0x1000 / 64) = some line) ∧
    -- an instruction cache with room and a full one; a cluster that is held, and a word of weight 8
    (Core.fresh.icache.length < 1024 ∧ 1024 ≤ ({ Core.fresh with icache := List.replicate 1024 ((0, 0), []) } : Core).icache.length) ∧
    (∀ s : State, s.cluster 0 = { cluster0 60 90 [] with budget := 0, hold := true } → (s.clusterNow 0).hold = true) ∧ heavy 0x444 = true ∧
    -- a gang inside its other slot's store, whose word traps or does not
    (storingGang.storing = true ∧
      (∃ t, exec (.trap 7) storingState = .next t ∧ (t.afterIssue plot0 storingGang .A slot0 0x1C000000080).turned plot0 storingGang = true) ∧
      ∃ t, exec (.sadd ⟨20, 20, .reg 57⟩) storingState = .next t ∧ (t.afterIssue plot0 storingGang .A slot0 gangWord).turned plot0 storingGang = false) ∧
    -- a gang that has issued, and one that waits on
    (∃ G1, gang0.slot .A = some slot0 ∧ slot0.wait = .none ∧ (∀ S1 d m, gang0.slot .A = some S1 → S1.wait ≠ .dial d m) ∧
      s0.gang? 0 0 = some G1 ∧ G1.seq = gang0.seq ∧ ({ s0 with gangs := [(0, { gang0 with seq := 1 })] } : State).gang? 0 0 = some { gang0 with seq := 1 } ∧
      (1 : Nat) ≠ gang0.seq) :=
  ⟨⟨rfl, rfl, rfl, rfl, rfl, rfl, rfl, rfl, rfl, rfl, rfl, rfl, rfl, rfl⟩, ⟨rfl, rfl, rfl, rfl, rfl, rfl⟩,
    ⟨by decide, by decide, by decide, rfl, by decide, by decide⟩, by decide, fun s h => by rw [State.clusterNow, h]; exact hold_stays _ _ rfl rfl, by decide,
    ⟨rfl, ⟨_, rfl, rfl⟩, ⟨_, rfl, rfl⟩⟩, ⟨_, rfl, rfl, fun S1 d m h => by cases h; nofun, rfl, rfl, rfl, by decide⟩⟩

/-- A plot whose stream holds the line at its PC, or a matrix word under way. -/
def linedPlot (w : Nat) : Plot := { turnPlot with stream := { turnPlot.stream with line := some (0x4000 / 64, leOf 64 w) } }
theorem witness_StepRunsDecodedWord_others :
    (let s := turnState [.stream 0] 0
     s.agenda = .stream 0 :: [] ∧ turnPlot.place = .resident ∧ turnPlot.stream.state = .run ∧ turnPlot.stream.stop = false ∧ turnPlot.stream.fid = none ∧
      turnPlot.stream.cached = none ∧ (passedState s).fetchCheck 0x4000 8 = none ∧
      (passedState s).lookup 0 (0x4000 - 0x4000 % 64) .seqFetch .cores = (.ok (.hbm 0x4000) 0xFB, passedState s) ∧
      ((passedState s).countAccess 0 0x4000 (.die 0)).poisonedLoc (.hbm 0x4000) 64 = false ∧
      BitVec.ofNat 64 (fieldAt (s.readLoc (.hbm 0x4000) 64) 0 8) = 0x0000000100000008 ∧ decodeSeq 0x0000000100000008 = .ok (.sqwt 0 1) ∧
      seqCharge 0x0000000100000008 < 384 ∧ 384 ≤ seqCharge 0x10224 ∧ decodeSeq 0x10224 = .ok (.mmaT8 2 0 1 false) ∧ ∃ n, decodeSeq 0xFC = .error n) ∧
    (∀ w ∈ [0x10224, 0xFC], (linedPlot w).stream.cached = some (BitVec.ofNat 64 w) ∧ (linedPlot w).stream.state = .run ∧
      { linedPlot w with stream := { (linedPlot w).stream with mat := some matRun } }.stream.mat.isSome = true) ∧
    (∀ hw : Word, (turnState [.hart 3] hw).agenda = .hart 3 :: [] ∧ (turnState [.hart 3] hw).hart? 3 = some turnHart) ∧
    (∀ hw ∈ [(0x0005850B : Word), 0x0001], ∃ s2, (passedState (turnState [.hart 3] hw)).hartMem 3 turnHart turnHart.priv 0x5000 2 .fetch = (.ok (.hbm 0x5000), s2) ∧
      (natOf (s2.readLoc (.hbm 0x5000) 2) % 4 = 3 ↔ hw = 0x0005850B) ∧
      ∃ s3, s2.hartMem 3 turnHart turnHart.priv (0x5000 + 2) 2 .fetch = (.ok (.hbm 0x5002), s3) ∧
        (hw = 0x0005850B → BitVec.ofNat 32 (natOf (s2.readLoc (.hbm 0x5000) 2) + 65536 * natOf (s3.readLoc (.hbm 0x5002) 2)) = hw)) ∧
    -- a parcel that waits and one that faults; a compressed word, and one that stands for none; an interrupt that is taken, and none
    ((∃ u, ({ passedState (turnState [.hart 3] 0) with tlb := [] } : State).hartMem 3 turnHart turnHart.priv 0x5000 2 .fetch = (.error .wait, u)) ∧
      (∃ u, (shut (passedState (turnState [.hart 3] 0))).hartMem 3 turnHart turnHart.priv 0x5000 2 .fetch = (.error (.fault 1), u)) ∧
      rvExpand 0x0001 = some 0x00000013 ∧ rvExpand 0 = none ∧ turnHart.interrupt = none ∧
      ({ turnHart with priv := .u, csrs := [(0x304, 8), (0x344, 8)] } : Hart).interrupt = some 3) ∧
    (decodeHart 0x0005850B = .ok (.skEvpost 10 11) ∧ decodeHart 0x00000013 = .base ∧ decodeHart 0x0000200B = .illegal ∧ decodeHart 0x5C0512F3 = .base) ∧
    (∀ t : Turn, let s := { s0 with agenda := [t] }
      s.agenda = t :: [] ∧ s.power = true) ∧
    (1 ≤ 4 ∧ 4 ≤ 4 ∧ s0.fw.boot ≠ .running ∧ (opened s0).fw.boot = .running ∧ (∀ i : Instr, i = .svnRaise → i = .svnRaise ∨ False) ∧
      (Instr.scrubPass ≠ .svnRaise ∧ (∀ c n, Instr.scrubPass ≠ .getMeasurements c n) ∧ (∀ b, Instr.scrubPass ≠ .lifecycleTransition b) ∧
        (∀ c, Instr.scrubPass ≠ .lockInterface c ∧ Instr.scrubPass ≠ .startInterface c ∧ Instr.scrubPass ≠ .stopInterface c) ∧
        (∀ c k x y, Instr.scrubPass ≠ .keyInstall c k x y) ∧ (∀ n l, Instr.scrubPass ≠ .domainForm n l) ∧ ∀ x, Instr.scrubPass ≠ .partLeavesDomain x)) ∧
    (s0.fw.queue = [] ∧ ({ s0 with fw := { s0.fw with queue := [.svnRaise] } } : State).fw.queue = .svnRaise :: []) ∧
    (State.reset.power = true ∧ State.reset.agenda = [] ∧ ∀ rest, State.reset.agenda ≠ .event .resetBoot :: rest) := by
  refine ⟨⟨rfl, rfl, rfl, rfl, rfl, rfl, rfl, rfl, rfl, by decide, rfl, by decide, by decide, rfl, _, rfl⟩, by decide, fun _ => ⟨rfl, rfl⟩, ?_, ⟨⟨_, rfl⟩, ⟨_, rfl⟩, by decide⟩,
    by decide, fun _ => ⟨rfl, rfl⟩, ⟨by decide, by decide, by decide, rfl, fun _ h => .inl h, nofun, nofun, nofun, fun _ => ⟨nofun, nofun, nofun⟩, nofun, nofun, nofun⟩, ⟨rfl, rfl⟩,
    ⟨rfl, rfl, fun _ => nofun⟩⟩
  intro hw h
  simp only [List.mem_cons, List.not_mem_nil, or_false] at h
  rcases h with rfl | rfl <;> exact ⟨_, rfl, by decide, _, rfl, by decide⟩

/-- A slot inside its store, and one at a barrier; a deferred trap that is due; a chime that is due; a gang in its other slot's fence and
store; words of the reserved length, across the end of their block and without a
decoding; a busy register; one past the gang's windows; and latches that agree. -/
theorem witness_ChecksBeforeEffect :
    (let G := { gang0 with defer := [deferred0] }
     let s := stateOf plot0 G gang1
     s.plot? 0 = some plot0 ∧ s.gang? 0 0 = some G ∧ plot0.place ≠ .saved ∧ plot0.saving = none ∧ plot0.suspended = false ∧ G.life = .running ∧
      G.storing = false ∧ G.atBarrier = false ∧ G.slot .A = some slot0 ∧ G.defer = deferred0 :: []) ∧
    (∃ S, storingGang.slot .B = some S ∧ S.wait = .store false 4 8 [(0, 64, 1)] ∧ storingGang.life = .running) ∧
    (∀ w ∈ [Wait.bar 3, .barPh 3], w.atBarrier = true ∧ ({ gang0 with a := some { slot0 with wait := w } } : Gang).slot .A = some { slot0 with wait := w }) ∧
    (let F := { gang0 with b := some { slot0 with wait := .fence 0 true [] } }
     (Ready (stateOf plot0 F gang1) ⟨plot0, F, .A, slot0⟩ ∧ F.fencing .A = true) ∧ Ready storingState ⟨plot0, storingGang, .A, slot0⟩ ∧ storingGang.storing = true) ∧
    (let G := { gang0 with chentry := 0x2000 }
     G.defer = [] ∧ (targetState G (target0 0x8000000000000000 0x8000000000000000)).denialDue G = false ∧ G.storing = false ∧ G.atBarrier = false ∧ (targetState G (target0 0x8000000000000000 0x8000000000000000)).chimeDue targetPlot G = some (1, target0 0x8000000000000000 0x8000000000000000, 63)) ∧
    ((3 : BitVec 128).extractLsb' 0 2 = 3 ∧ lenOf gangWord = some .w64 ∧ 32 < 0x101C % 32 + Len.w64.bytes ∧ 0x1018 % 32 + Len.w64.bytes ≤ 32 ∧
      ∃ e, lenOf 0x3FF00 = some .w64 ∧ decodeGang 0x3FF00 = .error e) ∧
    (Ready s0 x0 ∧ s0.settledRegs x0 [2, 16, 191] [] = true ∧ gang0.nv = 16 ∧ (∀ u ∈ [2, 16, 191], 16 ≤ u → 16 ≤ u) ∧ CanIssue s0 x0 [2, 15] [10]) ∧
    (Ready (stateOf plot0 busyGang gang1) ⟨plot0, busyGang, .A, slot0⟩ ∧ (stateOf plot0 busyGang gang1).settledRegs ⟨plot0, busyGang, .A, slot0⟩ [15] [] = false) :=
  ⟨⟨rfl, rfl, nofun, rfl, rfl, rfl, rfl, rfl, rfl, rfl⟩, ⟨_, rfl, rfl, rfl⟩, by decide, ⟨⟨⟨rfl, rfl, rfl, rfl⟩, rfl⟩, ⟨rfl, rfl, rfl, rfl⟩, rfl⟩,
    ⟨rfl, rfl, rfl, rfl, rfl⟩, ⟨by decide, by decide, by decide, by decide, _, by decide, rfl⟩,
    ⟨⟨rfl, rfl, rfl, rfl⟩, by decide, by decide, fun _ _ h => h, by decide, by decide⟩, ⟨rfl, rfl, rfl, rfl⟩, by decide⟩

theorem witness_latches : ({ gang0 with latchA := some ⟨2, Vector.replicate 96 0⟩ } : Gang).LatchesAgree := by
  unfold Gang.LatchesAgree
  decide

/-- A state that the machine steps from, its memories in order and a latch valid. -/
theorem witness_MemoryStaysCanonical_LatchesStayTrue :
    (∃ t, step { s0 with agenda := [.event .scrubPass] } = .next t) ∧ s0.MemWf ∧
    (turnState [] 0).MemWf ∧ ∀ q ∈ s0.gangs, q.2.LatchesAgree := by
  refine ⟨⟨_, rfl⟩, ⟨by decide, by decide, by decide, ?_, by decide⟩, ⟨by decide, by decide, by decide, ?_, by decide⟩, ?_⟩
  · intro q h
    simp only [s0, stateOf, List.mem_cons, List.not_mem_nil, or_false] at h
    subst h
    exact ⟨by decide, by decide⟩
  · intro q h
    simp only [turnState, mapped, stateOf, List.mem_cons, List.not_mem_nil, or_false] at h
    subst h
    exact ⟨by decide, by decide⟩
  unfold Gang.LatchesAgree
  decide

end Sys2Proof.Tests
end

section
/-! Vector integer words: their lane functions in the terms of R102 to R105, the words of a shape of their own, and the
obligations of this family. -/

namespace Sys2Proof.Machine

/-! ### Lane functions of R102 -/

theorem sub_eq_ofInt {n : Nat} (a b : BitVec n) : a - b = BitVec.ofInt n ((a.toNat : Int) - b.toNat) := by
  rw [Int.sub_eq_add_neg, BitVec.ofInt_add, BitVec.ofInt_neg, BitVec.ofInt_natCast, BitVec.ofInt_natCast,
    BitVec.ofNat_toNat, BitVec.ofNat_toNat, BitVec.setWidth_eq, BitVec.setWidth_eq, BitVec.sub_eq_add_neg]

theorem mul_eq_ofNat {n : Nat} (a b : BitVec n) : a * b = BitVec.ofNat n (a.toNat * b.toNat) := by
  simp [BitVec.ofNat_mul]

theorem mul_eq_ofInt {n : Nat} (a b : BitVec n) : a * b = BitVec.ofInt n (a.toInt * b.toInt) := by
  simp [BitVec.ofInt_mul]

theorem toInt_minI {n : Nat} (a b : BitVec n) : (minI a b).toInt = min a.toInt b.toInt := by
  unfold minI; rw [BitVec.slt_eq_decide]; simp only [decide_eq_true_eq]
  split <;> omega

theorem toInt_maxI {n : Nat} (a b : BitVec n) : (maxI a b).toInt = max a.toInt b.toInt := by
  unfold maxI; rw [BitVec.slt_eq_decide]; simp only [decide_eq_true_eq]
  split <;> omega

theorem toNat_minN {n : Nat} (a b : BitVec n) : (minN a b).toNat = min a.toNat b.toNat := by
  unfold minN; rw [BitVec.ult_eq_decide]; simp only [decide_eq_true_eq]
  split <;> omega

theorem toNat_maxN {n : Nat} (a b : BitVec n) : (maxN a b).toNat = max a.toNat b.toNat := by
  unfold maxN; rw [BitVec.ult_eq_decide]; simp only [decide_eq_true_eq]
  split <;> omega

theorem minI_eq_ofInt {n : Nat} (a b : BitVec n) : minI a b = BitVec.ofInt n (min a.toInt b.toInt) := by
  rw [← toInt_minI, BitVec.ofInt_toInt]
theorem maxI_eq_ofInt {n : Nat} (a b : BitVec n) : maxI a b = BitVec.ofInt n (max a.toInt b.toInt) := by
  rw [← toInt_maxI, BitVec.ofInt_toInt]
theorem minN_eq_ofNat {n : Nat} (a b : BitVec n) : minN a b = BitVec.ofNat n (min a.toNat b.toNat) := by
  rw [← toNat_minN, BitVec.ofNat_toNat, BitVec.setWidth_eq]
theorem maxN_eq_ofNat {n : Nat} (a b : BitVec n) : maxN a b = BitVec.ofNat n (max a.toNat b.toNat) := by
  rw [← toNat_maxN, BitVec.ofNat_toNat, BitVec.setWidth_eq]

theorem shiftLeft_eq_ofNat {n : Nat} (a : BitVec n) (k : Nat) : a <<< k = BitVec.ofNat n (a.toNat * 2 ^ k) :=
  BitVec.eq_of_toNat_eq (by simp [Nat.shiftLeft_eq])

theorem ushiftRight_eq_ofNat {n : Nat} (a : BitVec n) (k : Nat) : a >>> k = BitVec.ofNat n (a.toNat / 2 ^ k) := by
  rw [← Nat.shiftRight_eq_div_pow, ← BitVec.toNat_ushiftRight, BitVec.ofNat_toNat, BitVec.setWidth_eq]

theorem sshiftRight_eq_ofInt {n : Nat} (a : BitVec n) (k : Nat) :
    a.sshiftRight k = BitVec.ofInt n (a.toInt / 2 ^ k) := by
  rw [BitVec.sshiftRight, Int.shiftRight_eq_div_pow]; simp

theorem fnRot_eq (a b : Word) : fnRot a b = a <<< (b.toNat % 32) ||| a >>> (32 - b.toNat % 32) := by
  rw [fnRot, BitVec.rotateLeft_def, Nat.mod_mod]

theorem neg_eq_ofInt {n : Nat} (a : BitVec n) : 0 - a = BitVec.ofInt n (-a.toInt) := by
  rw [BitVec.ofInt_neg, BitVec.ofInt_toInt]
  exact BitVec.zero_sub a

/-- The absolute value of the lowest value wraps to that value. -/
theorem fnAbs_eq_ofInt (a : Word) : fnAbs a = BitVec.ofInt 32 a.toInt.natAbs := by
  unfold fnAbs
  split
  · rw [neg_eq_ofInt, Int.ofNat_natAbs_of_nonpos (by omega)]
  · rw [Int.natAbs_of_nonneg (by omega), BitVec.ofInt_toInt]

theorem fnPopc_eq (a : Word) : fnPopc a = BitVec.ofNat 32 ((List.range 32).countP fun k => a.getLsbD k) := by
  rw [fnPopc, countOnes, List.countP_eq_length_filter]

/-- One more than the place of the highest set bit below `n`, or 0: VCLZ counts from there up (R102). -/
def topBit (f : Nat → Bool) (n : Nat) : Nat := (List.range n).foldl (fun r k => if f k then k + 1 else r) 0

theorem topBit_succ (f : Nat → Bool) (n : Nat) : topBit f (n + 1) = if f n then n + 1 else topBit f n := by
  simp [topBit, List.range_succ]

theorem topBit_testBit (n : Nat) : ∀ x, x < 2 ^ n → topBit x.testBit n = if x = 0 then 0 else x.log2 + 1 := by
  induction n with
  | zero => intro x h; simp [topBit]; omega
  | succ n ih =>
    intro x h
    rw [topBit_succ]
    by_cases hx : x < 2 ^ n
    · simp [Nat.testBit_lt_two_pow hx, ih x hx]
    · have hb : x.testBit n = true := by
        rw [Nat.testBit_eq_decide_div_mod_eq, Nat.div_eq_of_lt_le (k := 1) (by omega) (by rw [Nat.pow_succ] at h; omega)]; rfl
      have h0 : x ≠ 0 := by rintro rfl; simp at hb
      rw [if_pos hb, if_neg h0, (Nat.log2_eq_iff h0).2 ⟨by omega, h⟩]

theorem topBit_getLsbD {n : Nat} (a : BitVec n) : topBit a.getLsbD n = if a = 0 then 0 else a.toNat.log2 + 1 :=
  (topBit_testBit n a.toNat a.isLt).trans (by simp [BitVec.toNat_eq])

theorem fnClz_eq (a : Word) : fnClz a = BitVec.ofNat 32 (32 - topBit a.getLsbD 32) := by
  rw [fnClz, leadZeros, topBit_getLsbD]
  split
  · rfl
  · rw [Nat.sub_sub, Nat.add_comm]

/-- The `n` lowest bits, each added at its mirrored place, and the mirror's places below them are the whole mirror. -/
theorem foldl_mirror_add_maskNat (f : Nat → Bool) (n : Nat) (h : n ≤ 32) :
    (List.range n).foldl (fun r k => r + if f k then 2 ^ (31 - k) else 0) 0 + maskNat (fun k => f (31 - k)) (32 - n) =
      maskNat (fun k => f (31 - k)) 32 := by
  induction n with
  | zero => exact Nat.zero_add _
  | succ n ih =>
    have hsub : 32 - n = 32 - (n + 1) + 1 := by omega
    have hbit : 31 - (32 - (n + 1)) = n := by omega
    have hexp : 32 - (n + 1) = 31 - n := by omega
    rw [← ih (by omega), hsub, maskNat, hbit, List.range_succ, List.foldl_append, List.foldl_cons, List.foldl_nil, hexp,
      Nat.add_assoc, Nat.add_comm (if f n then 2 ^ (31 - n) else 0)]

theorem bitReverse_eq_maskNat (a : Word) : bitReverse a = BitVec.ofNat 32 (maskNat (fun k => a.getLsbD (31 - k)) 32) := by
  have h := foldl_mirror_add_maskNat a.getLsbD 32 (Nat.le_refl 32)
  rw [Nat.sub_self, maskNat, Nat.add_zero] at h
  rw [bitReverse, h]

theorem bitReverse_eq (a : Word) : bitReverse a = a.reverse := by
  apply BitVec.eq_of_getLsbD_eq
  intro i hi
  rw [bitReverse_eq_maskNat, BitVec.getLsbD_ofNat, maskNat_testBit, BitVec.getLsbD_reverse, BitVec.getMsbD]
  simp [hi]

theorem dot4_eq (ext : BitVec 8 → Int) (a b c : Word) :
    dot4 ext a b c = c + (BitVec.ofInt 32 (ext (a.extractLsb' 0 8)) * BitVec.ofInt 32 (ext (b.extractLsb' 0 8)) +
      BitVec.ofInt 32 (ext (a.extractLsb' 8 8)) * BitVec.ofInt 32 (ext (b.extractLsb' 8 8)) +
      BitVec.ofInt 32 (ext (a.extractLsb' 16 8)) * BitVec.ofInt 32 (ext (b.extractLsb' 16 8)) +
      BitVec.ofInt 32 (ext (a.extractLsb' 24 8)) * BitVec.ofInt 32 (ext (b.extractLsb' 24 8))) := by
  simp [dot4, List.range_succ, BitVec.ofInt_add, BitVec.ofInt_mul, BitVec.ofInt_natCast, BitVec.add_assoc]

/-! ### Words of a shape of their own -/

theorem laneAt_lanes2 (f : Word → Word → Word) (a b : Lanes) (i : Nat) (hi : i < 96) :
    laneAt (lanes2 f a b) i = f (laneAt a i) (laneAt b i) := by
  rw [lanes2, laneAt_ofFn _ i hi, laneAt_of_lt a i hi, laneAt_of_lt b i hi]
  rfl

/-- A word ends whose effect is a write of each register of a pair. -/
theorem pairSet_wv {x : Issuer} {d : VReg} {m : Mask} {y z : Lanes} {lo hi : Nat → Word} {G : Gang} (len : Nat)
    (hd : d.toNat < x.G.nv) (hd' : d.toNat + 1 < x.G.nv) (hG : G.v = x.G.v ∧ G.s = x.G.s ∧ G.p = x.G.p)
    (hy : ∀ i < 96, laneAt y i = lo i) (hz : ∀ i < 96, laneAt z i = hi i) :
    PairSet x d m lo hi (((G.wv d.toNat m y).wv (d.toNat + 1) m z).skip x.sl len) := by
  obtain ⟨hv, hs, hp⟩ := hG
  have hskip : ∀ k, (((G.wv d.toNat m y).wv (d.toNat + 1) m z).skip x.sl len).vreg k =
      ((G.wv d.toNat m y).wv (d.toNat + 1) m z).vreg k := fun k => by simp [Gang.vreg, Gang.skip]
  have hk : ∀ k, G.vreg k = x.G.vreg k := fun k => by simp [Gang.vreg, hv]
  have hnv : G.nv = x.G.nv := by simp [Gang.nv, hv]
  refine ⟨?_, fun i h => ?_, fun i h => ?_, fun k h h' => ?_, ?_, ?_⟩
  · have : (((G.wv d.toNat m y).wv (d.toNat + 1) m z).skip x.sl len).nv = ((G.wv d.toNat m y).wv (d.toNat + 1) m z).nv := by
      simp [Gang.nv, Gang.skip]
    rw [this, Gang.wv_nv, Gang.wv_nv, hnv]
  · rw [hskip, Gang.vreg_wv_other _ _ _ _ _ (by omega), Gang.vreg_wv_self _ _ _ _ (hnv ▸ hd) i h, hy i h, hk]
  · rw [hskip, Gang.vreg_wv_self _ _ _ _ (by rwa [Gang.wv_nv, hnv]) i h, hz i h,
      Gang.vreg_wv_other _ _ _ _ _ (by omega), hk]
  · rw [hskip, Gang.vreg_wv_other _ _ _ _ _ h', Gang.vreg_wv_other _ _ _ _ _ h, hk]
  · simp [Gang.skip, hs]
  · simp [Gang.skip, hp]

/-- A word ends whose effect is one vector write, a function of its issuer and of what it reads at positions A and B. -/
theorem vecWrite_done {s : State} {x : Issuer} (h : Ready s x) {len : Nat} {ra rb : Option HReg} {g : Guard} {d : VReg} {ss : List Nat}
    (hc : CanIssue s x ([ra, rb, none].filterMap (·.map (·.n.toNat)) ++ [d.toNat]) ss)
    (y : Issuer → Lanes → Lanes → Lanes) (val : Nat → Word)
    (hy : ∀ i < 96, laneAt (y (x.stamped s.ticks) (x.G.operand x.G.latchA ra) (x.G.operand x.G.latchB rb)) i = val i) :
    ∃ t G', s.vec len ra rb none [d.toNat] ss (fun x a b _ G => G.wv d.toNat (x.G.active x.S g) (y x a b)) = .next t ∧
      WordDone s x len t G' ∧ VecSet x d (x.G.active x.S g) val G' := by
  refine word_done h hc _ (fun _ _ _ _ _ => Gang.wv_step _ _ _ _) _ fun G hG => ?_
  rw [Issuer.stamped_G, Issuer.stamped_S, Gang.stamp_active]
  exact vecSet_wv _ (hc.2 _ (by simp)) hG hy rfl

/-- A word with one more vector register than its shape names. -/
theorem vbin_vecNames {s : State} {x : Issuer} {o : VBin} {vs : List Nat} (hc : CanIssue s x (o.names ++ vs) []) :
    CanIssue s x ([some o.a, o.b.reg?, none].filterMap (·.map (·.n.toNat)) ++ (o.d.toNat :: vs)) [] :=
  hc.perm fun v hv => by cases hb : o.b.reg? <;> simp_all [VBin.names, VSrc.names]

/-- VMULW.I32 writes both words of the product after both sources have been read. -/
theorem vmulwI32_pairSet (s : State) (x : Issuer) (o : VBin) (h : Ready s x) (hc : CanIssue s x (o.names ++ [o.d.toNat + 1]) []) :
    ∃ t G', exec (.vmulwI32 o) s = .next t ∧ WordDone s x o.b.len t G' ∧
      PairSet x o.d (x.G.active x.S o.g) (fun i => BitVec.ofInt 32 ((x.srcA o.a i).toInt * (x.srcBI o.b i).toInt))
        (fun i => BitVec.ofInt 32 ((x.srcA o.a i).toInt * (x.srcBI o.b i).toInt / 2 ^ 32)) G' := by
  rw [exec_vmulwI32]
  refine word_done h (vbin_vecNames hc) _ (fun _ _ _ _ _ => (Gang.wv_step _ _ _ _).trans (Gang.wv_step _ _ _ _)) _ fun G hG => ?_
  rw [Issuer.stamped_G, Issuer.stamped_S, Gang.stamp_active]
  refine pairSet_wv _ (hc.2 _ (by simp [VBin.names])) (hc.2 _ (by simp)) hG (fun i hi => ?_) fun i hi => ?_
  · rw [laneAt_lanes2 _ _ _ i hi, VSrc.pick_lane x o.b i hi, mul_eq_ofInt]
    rfl
  · rw [laneAt_lanes2 _ _ _ i hi, VSrc.pick_lane x o.b i hi]
    rfl

theorem vmovi_vecSet (s : State) (x : Issuer) (g : Guard) (d : VReg) (k : MovImm) (h : Ready s x) (hc : CanIssue s x [d.toNat] []) :
    ∃ t G', exec (.vmovi g d k) s = .next t ∧ WordDone s x k.len t G' ∧ VecSet x d (x.G.active x.S g) (fun _ => k.word) G' :=
  vecWrite_done (ra := none) (rb := none) h hc (fun _ _ _ => Vector.replicate 96 k.word) _ fun i hi => laneAt_replicate _ i hi

theorem vlane_vecSet (s : State) (x : Issuer) (g : Guard) (d : VReg) (h : Ready s x) (hc : CanIssue s x [d.toNat] []) :
    ∃ t G', exec (.vlane g d) s = .next t ∧ WordDone s x 8 t G' ∧
      VecSet x d (x.G.active x.S g) (fun i => BitVec.ofNat 32 i) G' :=
  vecWrite_done (ra := none) (rb := none) h hc (fun _ _ _ => lanesOf fun i => BitVec.ofNat 32 i) _ fun i hi => laneAt_lanesOf _ i hi

theorem vbcast_vecSet (s : State) (x : Issuer) (g : Guard) (d : VReg) (a : SReg) (h : Ready s x) (hc : CanIssue s x [d.toNat] [a.toNat]) :
    ∃ t G', exec (.vbcast g d a) s = .next t ∧ WordDone s x 8 t G' ∧
      VecSet x d (x.G.active x.S g) (fun _ => (x.G.rs x.S a).extractLsb' 0 32) G' := by
  refine vecWrite_done (ra := none) (rb := none) h hc (fun y _ _ => Vector.replicate 96 ((y.G.rs y.S a).setWidth 32)) _ fun i hi => ?_
  rw [laneAt_replicate _ i hi, Issuer.stamped_G, Issuer.stamped_S, Gang.stamp_rs, BitVec.setWidth_eq_extractLsb' (by decide)]

theorem vsel_vecSet (s : State) (x : Issuer) (o : VSel) (h : Ready s x) (hc : CanIssue s x o.names []) :
    ∃ t G', exec (.vsel o) s = .next t ∧ WordDone s x 8 t G' ∧
      VecSet x o.d (x.G.active x.S o.g) (fun i => if (x.G.rp o.c).getLsbD i then x.srcA o.a i else x.srcB o.b i) G' := by
  refine vecWrite_done (ra := some o.a) (rb := some o.b) h hc (fun y a b => lanesMerge (y.G.rp o.c) a b) _ fun i hi => ?_
  rw [laneAt_merge _ _ _ i hi, Issuer.stamped_G, Gang.stamp_rp]
  rfl

/-- A shuffle reads the source lanes that its meaning's lane function names, all from the register as it stood. -/
theorem Shuffles.of {c : VBin → Instr} {j : Nat → Nat → Nat} {src : Nat → Word → Nat} (he : ∀ o s, exec (c o) s = shuffle o src s)
    (h : ∀ i b, src i b = j i b.toNat) : Shuffles c j := by
  intro s x o hr hc
  rw [he]
  refine vecWrite_done hr (vbin_names hc) (fun _ a b => lanesOf fun i => laneAt a (src i (laneAt (o.b.pick b) i))) _ fun i hi => ?_
  rw [laneAt_lanesOf _ i hi, h, VSrc.pick_lane x o.b i hi]
  rfl

/-- A reduction answers its function of the active lanes' values. -/
theorem Reduces.of {c : Guard → SReg → HReg → Instr} {f r : List Word → Word64} (he : ∀ g d a s, exec (c g d a) s = reduce g d a r s)
    (h : ∀ l, r l = f l) : Reduces c f := by
  intro s x g d a hr hc
  rw [he]
  refine word_done hr hc _ (fun _ _ _ _ _ => Gang.ws_step _ _ _) _ fun G hG => ?_
  rw [Issuer.stamped_G, Issuer.stamped_S, Gang.stamp_active, h]
  exact sclSet_ws _ hG

/-! ### Single lanes (R106): no guard and no mask -/

theorem vext_sclSet (s : State) (x : Issuer) (d b : SReg) (a : HReg) (h : Ready s x) (hc : CanIssue s x [a.n.toNat] [d.toNat, b.toNat]) :
    ∃ t G', exec (.vext d a b) s = .next t ∧ WordDone s x 8 t G' ∧
      SclSet x d (if (x.G.rs x.S b).toNat < 96 then (x.srcA a (x.G.rs x.S b).toNat).setWidth 64 else 0) G' := by
  rw [exec_vext, execVext]
  refine word_done h hc _ (fun _ _ _ _ _ => Gang.ws_step _ _ _) _ fun G hG => ?_
  simp only [Issuer.stamped_G, Issuer.stamped_S, Gang.stamp_rs]
  exact sclSet_ws _ hG

/-- The mask of one lane. -/
theorem ofNat_two_pow_eq_shiftLeft (k : Nat) : BitVec.ofNat 96 (2 ^ k) = (1 : Mask) <<< k := by
  rw [shiftLeft_eq_ofNat]
  exact congrArg _ (Nat.one_mul _).symm

theorem vins_vecSet (s : State) (x : Issuer) (d : VReg) (a b : SReg) (h : Ready s x) (hc : CanIssue s x [d.toNat] [a.toNat, b.toNat]) :
    ∃ t G', exec (.vins d a b) s = .next t ∧ WordDone s x 8 t G' ∧
      (if (x.G.rs x.S b).toNat < 96 then
        VecSet x d (1 <<< (x.G.rs x.S b).toNat) (fun _ => (x.G.rs x.S a).extractLsb' 0 32) G'
      else RegsKept x G') := by
  rw [exec_vins, execVins]
  refine word_done h hc _ (fun y _ _ _ G => ?_) _ fun G hG => ?_
  · dsimp only
    split
    · exact Gang.wv_step _ _ _ _
    · exact .refl G
  · simp only [Issuer.stamped_G, Issuer.stamped_S, Gang.stamp_rs]
    by_cases hb : (x.G.rs x.S b).toNat < 96
    · rw [if_pos hb, if_pos hb, ofNat_two_pow_eq_shiftLeft]
      refine vecSet_wv _ (hc.2 _ (by simp)) hG (fun i hi => ?_) rfl
      rw [laneAt_replicate _ i hi, BitVec.setWidth_eq_extractLsb' (by decide)]
    · rw [if_neg hb, if_neg hb]
      exact ⟨by simp [Gang.skip, hG.1], by simp [Gang.skip, hG.2.1], by simp [Gang.skip, hG.2.2]⟩

/-! ### Reductions (R105) -/

theorem toInt_foldl_minI {n : Nat} (l : List (BitVec n)) (a : BitVec n) :
    (l.foldl minI a).toInt = (l.map BitVec.toInt).foldl min a.toInt := by
  rw [List.foldl_map]
  exact (List.foldl_hom BitVec.toInt fun a b => (toInt_minI a b).symm).symm

theorem toInt_foldl_maxI {n : Nat} (l : List (BitVec n)) (a : BitVec n) :
    (l.foldl maxI a).toInt = (l.map BitVec.toInt).foldl max a.toInt := by
  rw [List.foldl_map]
  exact (List.foldl_hom BitVec.toInt fun a b => (toInt_maxI a b).symm).symm

theorem foldl_add_eq_ofNat {n : Nat} (l : List (BitVec n)) (a : BitVec n) :
    l.foldl (fun x y => x + y) a = a + BitVec.ofNat n (l.map BitVec.toNat).sum := by
  induction l generalizing a with
  | nil => simp
  | cons b l ih =>
    rw [List.foldl_cons, ih, List.map_cons, List.sum_cons, BitVec.ofNat_add, BitVec.ofNat_toNat, BitVec.setWidth_eq, BitVec.add_assoc]

theorem redAdd_eq (l : List Word) : redAdd l = BitVec.ofNat 64 ((l.map BitVec.toNat).sum % 2 ^ 32) := by
  have h0 : ∀ y : Word, 0 + y = y := BitVec.zero_add
  rw [redAdd, foldl_add_eq_ofNat, h0, ← BitVec.toNat_ofNat, BitVec.ofNat_toNat]

theorem redMin_eq (l : List Word) : redMin l = BitVec.ofInt 64 ((l.map BitVec.toInt).foldl min (2 ^ 31 - 1)) :=
  congrArg (BitVec.ofInt 64) (toInt_foldl_minI l 0x7FFFFFFF)

theorem redMax_eq (l : List Word) : redMax l = BitVec.ofInt 64 ((l.map BitVec.toInt).foldl max (-2 ^ 31)) :=
  congrArg (BitVec.ofInt 64) (toInt_foldl_maxI l 0x80000000)

/-! ### The claims of the vector integer words -/

theorem vectorIntegerTwoSource : Claim.VectorIntegerTwoSource :=
  ⟨.of exec_vadd BitVec.add_def, .of exec_vsub sub_eq_ofInt, .of exec_vaddc fun _ _ => rfl,
   .of exec_vaddsI32 fun _ _ => sat32_eq _, .of exec_vsubsI32 fun _ _ => sat32_eq _, .of exec_vmul mul_eq_ofNat,
   .of exec_vmulhI32 fun _ _ => rfl, .of exec_vmulhN32 fun _ _ => rfl, .of exec_vminI32 minI_eq_ofInt,
   .of exec_vmaxI32 maxI_eq_ofInt, .of exec_vminN32 minN_eq_ofNat, .of exec_vmaxN32 maxN_eq_ofNat,
   .of exec_vand fun _ _ => rfl, .of exec_vor fun _ _ => rfl, .of exec_vxor fun _ _ => rfl,
   .of exec_vshl fun _ _ => shiftLeft_eq_ofNat _ _, .of exec_vshr fun _ _ => ushiftRight_eq_ofNat _ _,
   .of exec_vsra fun _ _ => sshiftRight_eq_ofInt _ _, .of exec_vrot fnRot_eq,
   .of exec_vaddI16x2 fun _ _ => rfl, .of exec_vsubI16x2 fun _ _ => rfl, .of exec_vmulI16x2 fun _ _ => rfl⟩

theorem vectorIntegerOtherShapes : Claim.VectorIntegerOtherShapes :=
  ⟨.of exec_vabs fnAbs_eq_ofInt, .of exec_vneg neg_eq_ofInt, .of exec_vnot fun _ => BitVec.xor_allOnes.symm,
   .of exec_vpopc fnPopc_eq, .of exec_vclz fnClz_eq, .of exec_vbrev bitReverse_eq, .of exec_vmov fun _ => rfl,
   .of exec_vmad fun a b c => by rw [BitVec.ofNat_add, ← mul_eq_ofNat, BitVec.ofNat_toNat, BitVec.setWidth_eq],
   .of exec_vdot4I8 (dot4_eq _), .of exec_vdot4N8 fun a b c => by simp only [dot4_eq, BitVec.ofInt_natCast, BitVec.ofNat_toNat],
   vmulwI32_pairSet,
   fun s x g d h hc => ⟨fun k => vmovi_vecSet s x g d (.i26 k) h hc, fun k => vmovi_vecSet s x g d (.k32 k) h hc,
    vlane_vecSet s x g d h hc, fun a hc => vbcast_vecSet s x g d a h hc⟩⟩

theorem vectorComparisonAndSelection : Claim.VectorComparisonAndSelection :=
  ⟨.of exec_vcmpEq fun _ _ => Bool.beq_eq_decide_eq _ _, .of exec_vcmpNe fun _ _ => (decide_not (p := _ = _)).symm,
   .of exec_vcmpLtI32 fun _ _ => rfl, .of exec_vcmpLeI32 fun _ _ => rfl, .of exec_vcmpLtN32 fun _ _ => rfl,
   .of exec_vcmpLeN32 fun _ _ => rfl, vsel_vecSet⟩

theorem shuffleSourceLanes : Claim.ShuffleSourceLanes :=
  ⟨.of exec_vshflIdx fun _ _ => rfl, .of exec_vshflXor fun _ _ => rfl, .of exec_vshflUp fun _ _ => rfl,
   .of exec_vshflDn fun _ _ => rfl, .of exec_vshflRot fun _ _ => rfl⟩

theorem reductionsAndSingleLanes : Claim.ReductionsAndSingleLanes :=
  ⟨.of exec_vredAdd redAdd_eq, .of exec_vredMinI32 redMin_eq, .of exec_vredMaxI32 redMax_eq,
   .of exec_vredAnd fun _ => rfl, .of exec_vredOr fun _ => rfl, vext_sclSet, vins_vecSet⟩

/-- Settles O1, shape by shape: each word's meaning is its shape over a lane function, which the lemmas above put in the rule's terms. -/
theorem vectorIntegerWords : Obligations.VectorIntegerWords :=
  ⟨vectorIntegerTwoSource, vectorIntegerOtherShapes, vectorComparisonAndSelection⟩

/-- Settles O2: the shuffles and reductions by their shapes, the single-lane words each by its own write. -/
theorem shufflesAndReductions : Obligations.ShufflesAndReductions :=
  ⟨shuffleSourceLanes, reductionsAndSingleLanes⟩

end Sys2Proof.Machine
end

section
/-! FP32 words: what `f32.unpack` reads in the patterns' own bits, the lane functions of R131 to R134 on patterns, and the
obligation of this family. -/

namespace Sys2Proof.Machine

/-! ### FP32 patterns (R112) -/

theorem getLsbD_31_eq (a : Word) : a.getLsbD 31 = decide (2 ^ 31 ≤ a.toNat) :=
  BitVec.msb_eq_decide a

/-- The top bit of the fraction, which tells a quiet NaN (R133). -/
theorem getLsbD_22_eq (a : Word) : a.getLsbD 22 = decide (a.toNat % 2 ^ 31 / 2 ^ 22 % 2 = 1) := by
  rw [BitVec.getLsbD, Nat.testBit_eq_decide_div_mod_eq]
  exact decide_eq_decide.2 (by omega)

/-- What FP32 reads of a pattern, by its magnitude bits: NaN, infinity, zero or subnormal, normal. -/
theorem f32_unpack_eq (a : Word) :
    f32.unpack a.toNat =
      let m := a.toNat % 2 ^ 31
      let neg := decide (2 ^ 31 ≤ a.toNat)
      if 0x7F800000 < m then .nan
      else if m = 0x7F800000 then .inf neg
      else if m < 2 ^ 23 then .fin neg m (-149)
      else .fin neg (2 ^ 23 + m % 2 ^ 23) ((m / 2 ^ 23 : Nat) - 150) := by
  have ha := a.isLt
  have hneg : (a.toNat / 2 ^ 31 % 2 == 1) = decide (2 ^ 31 ≤ a.toNat) := by
    rw [Bool.beq_eq_decide_eq]
    exact decide_eq_decide.2 (by omega)
  have hexp : a.toNat / 2 ^ 23 % 2 ^ 8 = a.toNat % 2 ^ 31 / 2 ^ 23 := by omega
  have hfrac : a.toNat % 2 ^ 23 = a.toNat % 2 ^ 31 % 2 ^ 23 := by omega
  have hm : a.toNat % 2 ^ 31 < 2 ^ 31 := Nat.mod_lt _ (by decide)
  simp only [FFmt.unpack, FFmt.signBit, FFmt.emax, FFmt.qmin, FFmt.bias, f32, Nat.reduceAdd, hneg, hexp, hfrac]
  generalize a.toNat % 2 ^ 31 = m at hm
  generalize decide (2 ^ 31 ≤ a.toNat) = neg
  by_cases h1 : 0x7F800000 < m
  · rw [if_pos (by omega), if_neg (by omega), if_pos h1]
  by_cases h2 : m = 0x7F800000
  · rw [if_pos (by omega), if_pos (by omega), if_neg h1, if_pos h2]
  rw [if_neg (by omega), if_neg h1, if_neg h2]
  by_cases h3 : m < 2 ^ 23
  · rw [if_pos (by omega), if_pos h3, Nat.mod_eq_of_lt h3]
    rfl
  · rw [if_neg (by omega), if_neg h3]
    congr 1
    omega

theorem f32_sign_unpack (a : Word) (h : nanBits a = false) : (f32.unpack a.toNat).sign = decide (2 ^ 31 ≤ a.toNat) := by
  have hn : ¬ 0x7F800000 < a.toNat % 2 ^ 31 := of_decide_eq_false h
  rw [f32_unpack_eq]
  dsimp only
  rw [if_neg hn]
  split
  · rfl
  · split <;> rfl

theorem w32_toNat (a : Word) : w32 a.toNat = a := by
  rw [w32, BitVec.ofNat_toNat, BitVec.setWidth_eq]

/-- Two patterns stand in order if they are the same, or by their values, of which -0 and +0 are the only equal ones. -/
theorem ordBits_le_iff (a b : Word) :
    ordBits a ≤ ordBits b ↔ a = b ∨ keyBits a < keyBits b ∨ (keyBits a = keyBits b ∧ 2 ^ 31 ≤ a.toNat) := by
  rw [BitVec.toNat_eq, ordBits, ordBits, keyBits, keyBits]
  split <;> split <;> omega

/-! ### Lane functions of R131 to R134 -/

/-- The pick of FMIN and of FMAX is by the order of patterns: two that are the same give the same either way. -/
theorem w32_pick_eq (small : Bool) (a b : Word) :
    w32 (f32.pick small a.toNat b.toNat) =
      if nanBits a then (if nanBits b then 0x7FC00000 else b) else if nanBits b then a
      else if decide (ordBits a ≤ ordBits b) = small then a else b := by
  rw [FFmt.pick, isNan_bits, isNan_bits]
  cases ha : nanBits a with
  | true =>
    cases nanBits b with
    | true => rfl
    | false => exact w32_toNat b
  | false =>
    cases nanBits b with
    | true => exact w32_toNat a
    | false =>
      simp only [Bool.false_eq_true, if_false, beq_iff_eq, apply_ite w32, w32_toNat]
      by_cases hab : a = b
      · rw [hab, ite_self, ite_self]
      · have hlt : (decide (f32.key a.toNat < f32.key b.toNat) || (f32.key a.toNat == f32.key b.toNat && (f32.unpack a.toNat).sign)) =
            decide (ordBits a ≤ ordBits b) := by
          rw [f32_sign_unpack a ha, key_bits, key_bits]
          simp only [ordBits_le_iff, hab, false_or, Bool.decide_or, Bool.decide_and, Bool.beq_eq_decide_eq]
        rw [hlt]

theorem fnFmin_eq (a b : Word) :
    fnFmin a b = if nanBits a then (if nanBits b then 0x7FC00000 else b) else if nanBits b then a
      else if ordBits a ≤ ordBits b then a else b := by
  rw [fnFmin, w32_pick_eq]
  simp only [decide_eq_true_eq]

theorem fnFmax_eq (a b : Word) :
    fnFmax a b = if nanBits a then (if nanBits b then 0x7FC00000 else b) else if nanBits b then a
      else if ordBits a ≤ ordBits b then b else a := by
  rw [fnFmax, w32_pick_eq]
  simp only [decide_eq_false_iff_not, ite_not]

theorem and_0x7FFFFFFF_eq_ofNat (a : Word) : a &&& 0x7FFFFFFF = BitVec.ofNat 32 (a.toNat % 2 ^ 31) := by
  apply BitVec.eq_of_toNat_eq
  rw [BitVec.toNat_and, BitVec.toNat_ofNat]
  exact (Nat.and_two_pow_sub_one_eq_mod a.toNat 31).trans (Nat.mod_eq_of_lt (by omega)).symm

theorem fnFabs_eq (a : Word) : fnFabs a = if nanBits a then 0x7FC00000 else BitVec.ofNat 32 (a.toNat % 2 ^ 31) := by
  rw [fnFabs, isNan_bits, and_0x7FFFFFFF_eq_ofNat]

/-- Inverting bit 31 adds it, because the carry out of it is lost. -/
theorem xor_0x80000000_eq_add (a : Word) : a ^^^ 0x80000000 = a + 0x80000000 := by
  have hlow : (a.toNat ^^^ 2 ^ 31) % 2 ^ 31 = a.toNat % 2 ^ 31 := by
    rw [Nat.xor_mod_two_pow, Nat.mod_self, Nat.xor_zero]
  have hflip : ∀ n < 2, n ^^^ 1 = 1 - n := by decide
  have hhigh : (a.toNat ^^^ 2 ^ 31) / 2 ^ 31 = 1 - a.toNat / 2 ^ 31 :=
    Nat.xor_div_two_pow.trans (hflip _ (by omega))
  apply BitVec.eq_of_toNat_eq
  rw [BitVec.toNat_xor, BitVec.toNat_add]
  change a.toNat ^^^ 2 ^ 31 = (a.toNat + 2 ^ 31) % 2 ^ 32
  generalize a.toNat ^^^ 2 ^ 31 = x at hlow hhigh
  omega

theorem fnFneg_eq (a : Word) : fnFneg a = if nanBits a then 0x7FC00000 else a + 0x80000000 := by
  rw [fnFneg, isNan_bits, xor_0x80000000_eq_add]

theorem fnFsat_eq (a : Word) :
    fnFsat a = if nanBits a ∨ keyBits a ≤ 0 then 0 else if 0x3F800000 < keyBits a then 0x3F800000 else a := by
  rw [fnFsat, isNan_bits, key_bits]

/-- The class word by the magnitude bits, one split for each row of R133's table. -/
theorem fnFclass_eq (a : Word) :
    fnFclass a =
      let m := a.toNat % 2 ^ 31
      let neg := 2 ^ 31 ≤ a.toNat
      if 0x7F800000 < m then (if m / 2 ^ 22 % 2 = 1 then 512 else 256)
      else if m = 0x7F800000 then (if neg then 1 else 128)
      else if m = 0 then (if neg then 8 else 16)
      else if m < 0x00800000 then (if neg then 4 else 32)
      else if neg then 2 else 64 := by
  rw [fnFclass, classOf, f32_unpack_eq, getLsbD_31_eq, getLsbD_22_eq]
  simp only [Nat.reducePow, decide_eq_true_eq]
  generalize a.toNat % 2147483648 = m
  by_cases h1 : 0x7F800000 < m
  · simp only [if_pos h1]
    split <;> rfl
  by_cases h2 : m = 0x7F800000
  · simp only [if_neg h1, if_pos h2]
    split <;> rfl
  by_cases h3 : m < 0x00800000
  · simp only [if_neg h1, if_neg h2, if_pos h3]
    split <;> split <;> rfl
  · have h0 : m ≠ 0 := by omega
    have hsig : 0x00800000 + m % 0x00800000 ≠ 0 := by omega
    have hnorm : ¬ 0x00800000 + m % 0x00800000 < 0x00800000 := by omega
    simp only [if_neg h1, if_neg h2, if_neg h3, if_neg h0, if_neg hsig, if_neg hnorm]
    split <;> rfl

theorem fnFrnd_eq (rm : RM) (a : Word) :
    fnFrnd rm a = match f32.unpack a.toNat with
      | .nan => 0x7FC00000
      | .inf _ => a
      | .fin neg m e => if 0 ≤ e then a else w32 (f32.pack rm (.fin neg (roundTo rm neg m e 0) 0)) := by
  rw [fnFrnd]
  cases f32.unpack a.toNat <;> rfl

theorem fnFscale_eq (rm : RM) (a b : Word) :
    fnFscale rm a b = w32 (f32.pack rm (match f32.unpack a.toNat with
      | .fin neg m e => .fin neg m (e + b.toInt)
      | v => v)) := by
  rw [fnFscale]
  cases f32.unpack a.toNat <;> rfl

/-! ### Comparisons (R132) -/

theorem ordered_eq (a b : Word) : ordered a.toNat b.toNat = decide (¬ nanBits a ∧ ¬ nanBits b) := by
  rw [ordered, isNan_bits, isNan_bits]
  cases nanBits a <;> cases nanBits b <;> rfl

/-- A comparison that is false on a NaN, by the keys of the patterns. -/
theorem ordered_and_eq (r : Int → Int → Prop) [DecidableRel r] (a b : Word) :
    (ordered a.toNat b.toNat && decide (r (f32.key a.toNat) (f32.key b.toNat))) =
      decide (¬ nanBits a ∧ ¬ nanBits b ∧ r (keyBits a) (keyBits b)) := by
  rw [ordered_eq, key_bits, key_bits, ← Bool.decide_and]
  exact decide_eq_decide.2 and_assoc

theorem not_ordered_eq (a b : Word) : (!ordered a.toNat b.toNat) = decide (nanBits a ∨ nanBits b) := by
  rw [ordered_eq]
  cases nanBits a <;> cases nanBits b <;> rfl

/-! ### The claims of the FP32 words -/

theorem singlePrecisionArithmetic : Claim.SinglePrecisionArithmetic := fun _ =>
  ⟨.of (fun o => exec_faddF32 o _) fun _ _ => rfl, .of (fun o => exec_fsubF32 o _) fun _ _ => rfl,
   .of (fun o => exec_fmulF32 o _) fun _ _ => rfl, .of (fun o => exec_fmaF32 o _) fun _ _ _ => rfl,
   .of (fun o => exec_fnmaF32 o _) fun _ _ _ => rfl, .of (fun o => exec_frnd o _) (fnFrnd_eq _),
   .of (fun o => exec_fscale o _) (fnFscale_eq _)⟩

theorem singlePrecisionSelections : Claim.SinglePrecisionSelections :=
  ⟨.of exec_fminF32 fnFmin_eq, .of exec_fmaxF32 fnFmax_eq, .of exec_fabsF32 fnFabs_eq, .of exec_fnegF32 fnFneg_eq,
   .of exec_fsatF32 fnFsat_eq, .of exec_fcmpEq (ordered_and_eq (· = ·)), .of exec_fcmpLt (ordered_and_eq (· < ·)),
   .of exec_fcmpLe (ordered_and_eq (· ≤ ·)), .of exec_fcmpUn not_ordered_eq, .of exec_fclass fnFclass_eq⟩

/-- Settles O7, shape by shape: each word's meaning is its shape over a lane function; the arithmetic is the rule's as it
stands, and the selections, comparisons and classes are put on patterns by what FP32 reads of a pattern's bits. -/
theorem singlePrecisionWords : Obligations.SinglePrecisionWords :=
  ⟨singlePrecisionArithmetic, singlePrecisionSelections⟩

end Sys2Proof.Machine
end
